-- ==== Sys2Proof/Word.lean ====
section
/-! DEFINITION. The word types of the Zhevny and their plainest arithmetic (spec/01_machine.md R11). -/

namespace Sys2Proof

/-- One byte of any memory. -/
abbrev Byte := BitVec 8
/-- An integer register, R11. -/
abbrev Word := BitVec 64
/-- A lane register, R11. -/
abbrev Lane := BitVec 512
/-- The number of an integer register x0 to x31, R42. -/
abbrev XReg := Fin 32
/-- The number of a lane register v0 to v15, R42. -/
abbrev VReg := Fin 16
/-- The number of a mask register k0 to k7, R42. -/
abbrev KReg := Fin 8

/-- Sign extension to a word (R6 `sext`). -/
abbrev sx {n : Nat} (b : BitVec n) : Word := b.signExtend 64
/-- Zero extension to a word (R6 `zext`). -/
abbrev zx {n : Nat} (b : BitVec n) : Word := b.setWidth 64
/-- The word that holds a natural number modulo 2^64. -/
abbrev wd (n : Nat) : Word := BitVec.ofNat 64 n
/-- 1 or 0 as a word. -/
abbrev wbit (b : Bool) : Word := if b then 1 else 0
/-- A natural number that is 1 or 0. -/
abbrev nbit (b : Bool) : Nat := if b then 1 else 0

end Sys2Proof
end

