-- ==== Sys2Proof/Syntax.lean ====
section
/-! DEFINITION. The steps of the Zhevny as syntax: one constructor for each row of spec/opcode_table.json, the
285 instructions with the fields of their encodings (spec/02_encoding.md R37 to R42) and the 107 events with
what each one names. Field values that are no instruction (R52) are left to WellFormed and Decode. -/

namespace Sys2Proof

/-- A scope code 0 to 11, R165. -/
inductive Scope where
  | core | gang | cluster | group | die | device | package | peer | domain | host | io | system
  deriving DecidableEq, Repr

/-- A path that FENCE.X may name: the path numbers 0 to 9 of R27, R169. -/
inductive Path where
  | core | mma | copy | sheaf | scan | coll | ctx | host | bobj | trace
  deriving DecidableEq, Repr

/-- A sequenced engine class p, 1 to 5, R28. -/
inductive EngClass where
  | mma | copy | sheaf | scan | coll
  deriving DecidableEq, Repr

/-- The narrow-side lane formats of LCVT, codes 0 to 14 of R50. -/
inductive LaneFmt where
  | fp4 | fp6a | fp6b | fp8a | fp8b | int4 | uint4 | int8 | uint8 | int16 | fp16 | bf16 | sc8 | bfp8 | bfp4
  deriving DecidableEq, Repr

/-- The system registers of R329. -/
inductive SysReg where
  | status | fflags | cause | tval | epc | trapvec | regpc | regcnt | reglim | livex | livev | gridmap
  | lc (i : Fin 2) | ls (i : Fin 2) | le (i : Fin 2) | eseq (p : EngClass) | seed (i : Fin 16)
  | ringhead (i : Fin 8) | ringtail (i : Fin 8)
  deriving DecidableEq, Repr

/-- The sub-byte widths of MSG.N: wc = 0, 1, 2 for 4, 2 and 1 bits, R193. -/
inductive SubWidth where
  | four | two | one
  deriving DecidableEq, Repr

/-- R or E format with d, a and b. -/
structure R3 where
  d : XReg
  a : XReg
  b : XReg
  la : Bool
  lb : Bool
  deriving DecidableEq, Repr

/-- R or E format with d and a. -/
structure R2 where
  d : XReg
  a : XReg
  la : Bool
  deriving DecidableEq, Repr

/-- R format with the sources a and b. -/
structure S2 where
  a : XReg
  b : XReg
  la : Bool
  lb : Bool
  deriving DecidableEq, Repr

/-- One source field a. -/
structure S1 where
  a : XReg
  la : Bool
  deriving DecidableEq, Repr

/-- I format with an 11-bit immediate. -/
structure IOp where
  d : XReg
  a : XReg
  la : Bool
  imm : BitVec 11
  deriving DecidableEq, Repr

/-- SHIFTI: an amount 0 to 63. -/
structure ShOp where
  d : XReg
  a : XReg
  la : Bool
  sh : BitVec 6
  deriving DecidableEq, Repr

/-- SHIFTIW: an amount 0 to 31. -/
structure ShwOp where
  d : XReg
  a : XReg
  la : Bool
  sh : BitVec 5
  deriving DecidableEq, Repr

/-- U and J formats. -/
structure UOp where
  d : XReg
  imm : BitVec 20
  deriving DecidableEq, Repr

/-- S format: a is the base, b the data. -/
structure SOp where
  a : XReg
  b : XReg
  la : Bool
  lb : Bool
  imm : BitVec 11
  deriving DecidableEq, Repr

/-- B format. -/
structure BOp where
  a : XReg
  b : XReg
  la : Bool
  lb : Bool
  off : BitVec 10
  deriving DecidableEq, Repr

/-- L format with vd, va and vb. -/
structure L3 where
  vd : VReg
  va : VReg
  vb : VReg
  es : Fin 4
  km : KReg
  la : Bool
  lb : Bool
  deriving DecidableEq, Repr

/-- L format with vd and va. -/
structure L2 where
  vd : VReg
  va : VReg
  es : Fin 4
  km : KReg
  la : Bool
  deriving DecidableEq, Repr

/-- A compare: vd names the mask kd, R110. -/
structure LCmp where
  kd : KReg
  va : VReg
  vb : VReg
  es : Fin 4
  km : KReg
  la : Bool
  lb : Bool
  deriving DecidableEq, Repr

/-- LCVT with a narrow format, R50, R117. -/
structure LCvt where
  vd : VReg
  va : VReg
  fmt : LaneFmt
  es : Fin 4
  km : KReg
  la : Bool
  deriving DecidableEq, Repr

/-- LSFU: es is always 2, R125. -/
structure LSfu where
  vd : VReg
  va : VReg
  km : KReg
  la : Bool
  deriving DecidableEq, Repr

/-- LMEM with a base and an offset or stride in x0 to x15, R190. -/
structure LMem where
  vd : VReg
  a : Fin 16
  b : Fin 16
  es : Fin 4
  km : KReg
  la : Bool
  lb : Bool
  deriving DecidableEq, Repr

/-- LMEM with a vector of indices, R190. -/
structure LMemG where
  vd : VReg
  a : Fin 16
  vb : VReg
  es : Fin 4
  km : KReg
  la : Bool
  lb : Bool
  deriving DecidableEq, Repr

/-- VLDACC: `wide` is es = 3, `int` is vb = 1, R192. -/
structure LAcc where
  vd : VReg
  a : Fin 16
  wide : Bool
  int : Bool
  km : KReg
  la : Bool
  deriving DecidableEq, Repr

/-- CL format, R39, R40. -/
structure ClOp where
  vd : VReg
  vs : VReg
  ls : Bool
  sz : Bool
  deriving DecidableEq, Repr

/-- Names one execution of a logical core: its launch, its number and, in a mirror launch, which twin (R9, R361). -/
structure CoreId where
  lh : Nat
  lc : Nat
  twin : Bool
  deriving DecidableEq, Repr

/-- The units a detected error names, R334, R353. -/
inductive ErrUnit where
  | regFile | pipeline | lane | netIf
  deriving DecidableEq, Repr

/-- What consumed an uncorrectable error, R322, R347, R360. -/
inductive UncErr where
  | scratchpad (c : CoreId)
  | payload (ctx : Nat)
  | shadow (c : CoreId)
  | hbm (ctx pa : Nat)
  deriving DecidableEq, Repr

/-- The results of triage, R363. -/
inductive Triage where
  | blameSecondary | blamePrimary | neither | diverged | noSpare
  deriving DecidableEq, Repr

/-- What another member of an address group has issued for a reduction, R221, R222: its place in LIST, OP, formats, ELEMS, what its
source holds, and TIME, in ns, at its commit (R226). -/
structure RedPeer where
  member : Nat
  op : Nat
  infmt : Nat
  outfmt : Nat
  elems : Nat
  src : List Byte
  time : Nat
  deriving DecidableEq, Repr

/-- The memory-mapped windows, R236, R311, R368. -/
inductive Window where
  | launchQueue | context | management
  deriving DecidableEq, Repr

/-- A load or store of the HOST path on physical device memory, with the scope of its fence, R164. -/
structure HostAccess where
  id : Nat
  pa : Nat
  len : Nat
  wr : Option (List Byte)
  scope : Scope
  deriving DecidableEq, Repr

/-- Signed configuration and key-slot updates, R326, R331, R364, R373, R384; a partition is given by its clusters, base, limit, channels, and
whether it accepts unsigned images and permits test. -/
inductive ConfigUpdate where
  | keySlot (slot : Fin 16) (key : List Byte) (mask : BitVec 3) (sig : List Byte)
  | clearQuarantine (phys : Nat) (key : Fin 16) (sig : List Byte)
  | permitTest (part : Fin 4) (on : Bool) (key : Fin 16) (sig : List Byte)
  | threshold (n : Fin 16) (key : Fin 16) (sig : List Byte)
  | portE (root : Bool) (key : Fin 16) (sig : List Byte)
  | power (cap : Nat) (app : Bool) (key : Fin 16) (sig : List Byte)
  | exports (package : Nat) (es : List (Nat × Nat × Nat)) (key : Fin 16) (sig : List Byte)
  | partitions (ps : List (List Nat × Nat × Nat × List Nat × Bool × Bool)) (key : Fin 16) (sig : List Byte)
  deriving DecidableEq, Repr

/-- The steps of the Zhevny: one constructor for each row of the opcode table, the events first. -/
inductive Instr where
  /-- ILLEGAL (R52). -/
  | illegal (w : BitVec 32)
  /-- REGISTER_WRITE_LANDING (R44). -/
  | registerWriteLanding (c : CoreId)
  /-- STORE_LINE_DRAIN (R348). -/
  | storeLineDrain (c : CoreId)
  /-- COMMAND_DRAIN (R348). -/
  | commandDrain (c : CoreId)
  /-- DYNAMIC_LINE_LANDING (R15). -/
  | dynamicLineLanding (id : Nat)
  /-- MESSAGE_ARRIVAL (R194). -/
  | messageArrival (id : Nat)
  /-- LOG_ENTRY_ARRIVAL (R198). -/
  | logEntryArrival (id : Nat)
  /-- TSEND_LANDING (R186). -/
  | tsendLanding (id : Nat)
  /-- TICK (R258). -/
  | tick (lh : Nat)
  /-- SLEEPU_EXPIRY (R267). -/
  | sleepuExpiry (c : CoreId)
  /-- WAITA_DEADLINE (R203). -/
  | waitaDeadline (c : CoreId)
  /-- MMA_GANG_START (R143). -/
  | mmaGangStart (lh gang n : Nat)
  /-- MMA_COMPLETION (R143). -/
  | mmaCompletion (lh gang n : Nat)
  /-- COPY_COMPLETION (R210). -/
  | copyCompletion (c : CoreId) (ticket : Nat)
  /-- MCAST_DELIVERY (R214). -/
  | mcastDelivery (id : Nat)
  /-- SCAN_COMMAND_COMPLETION (R302). -/
  | scanCommandCompletion (c : CoreId)
  /-- CARRY_DELIVERY (R255). -/
  | carryDelivery (c : CoreId)
  /-- GROUP_BARRIER_FIRE (R275). -/
  | groupBarrierFire (lh g : Nat)
  /-- SNAP_FIRE (R357). -/
  | snapFire (lh : Nat)
  /-- TOUR_READ_START (R252). -/
  | tourReadStart (id : Nat)
  /-- TILE_ARRIVAL (R252). -/
  | tileArrival (id stop : Nat)
  /-- HOLD_LIMIT_EXPIRY (R253). -/
  | holdLimitExpiry (id stop : Nat)
  /-- GLEANING_DELIVERY (R254). -/
  | gleaningDelivery (id stop : Nat)
  /-- GLEANING_BOUND_EXPIRY (R254). -/
  | gleaningBoundExpiry (id : Nat)
  /-- TOUR_END (R295). -/
  | tourEnd (id : Nat)
  /-- CAGRP_COMPLETION (R231). -/
  | cagrpCompletion (c : CoreId) (ticket : Nat)
  /-- CAGRP_DRAIN_EXPIRY (R220). -/
  | cagrpDrainExpiry (c : CoreId) (ticket : Nat)
  /-- REDUCTION_START (R231). -/
  | reductionStart (c : CoreId) (ticket : Nat) (peers : List RedPeer)
  /-- CHUNK_WRITE (R224). -/
  | chunkWrite (c : CoreId) (ticket k : Nat)
  /-- COLL_COMPLETION (R224). -/
  | collCompletion (c : CoreId) (ticket : Nat)
  /-- MEMBER_ABSENT (R232). -/
  | memberAbsent (c : CoreId) (ticket : Nat) (mask : BitVec 512)
  /-- STALE_PACKET_ARRIVAL (R220). -/
  | stalePacketArrival (ctx agid gen : Nat)
  /-- APERTURE_ACCESS (R316). -/
  | apertureAccess (pkg pa len : Nat) (wr : Option (List Byte))
  /-- DETECTED_ERROR (R353). -/
  | detectedError (c : CoreId) (u : ErrUnit)
  /-- REGION_REENTRY (R354). -/
  | regionReentry (c : CoreId)
  /-- CONSUMED_UNCORRECTABLE_ERROR (R322). -/
  | consumedUncorrectableError (e : UncErr)
  /-- HEADER_UNCORRECTABLE_ERROR (R323). -/
  | headerUncorrectableError (part : Nat)
  /-- PARTITION_REBRINGUP_COMPLETE (R382). -/
  | partitionRebringupComplete (part : Nat)
  /-- MIRROR_ITEM_COMPARE (R362). -/
  | mirrorItemCompare (lh lc : Nat)
  /-- MIRROR_HASH_MISMATCH (R363). -/
  | mirrorHashMismatch (lh lc : Nat)
  /-- MIRROR_HASH_TIMEOUT (R363). -/
  | mirrorHashTimeout (lh lc : Nat)
  /-- TRIAGE_DECISION (R363). -/
  | triageDecision (lh lc : Nat) (t : Triage)
  /-- MIRROR_RESYNC_COMPLETE (R363). -/
  | mirrorResyncComplete (lh lc : Nat)
  /-- LQTAIL_WRITE (R236). -/
  | lqtailWrite (q : Nat) (v : Word)
  /-- QUEUE_ENABLE (R237). -/
  | queueEnable (q : Nat)
  /-- QUEUE_DISABLE (R237). -/
  | queueDisable (q : Nat)
  /-- QUEUE_CANCEL (R237). -/
  | queueCancel (q : Nat)
  /-- LAUNCH_RECORD_TAKE (R239). -/
  | launchRecordTake (q : Nat)
  /-- LAUNCH_ELIGIBLE (R242). -/
  | launchEligible (lh : Nat)
  /-- PRIORITY_AGING (R242). -/
  | priorityAging (lh : Nat)
  /-- SLOT_BIND (R243). -/
  | slotBind (ix lh lc : Nat)
  /-- DISPATCH (R243). -/
  | dispatch (ix : Nat)
  /-- SLOT_VACATE (R243). -/
  | slotVacate (ix : Nat)
  /-- CORE_STOP (R246). -/
  | coreStop (ix : Nat)
  /-- SAVE_COMPLETE (R247). -/
  | saveComplete (ix : Nat)
  /-- WATCHDOG_LIMIT1 (R250). -/
  | watchdogLimit1 (lh : Nat)
  /-- WATCHDOG_LIMIT2 (R250). -/
  | watchdogLimit2 (lh : Nat)
  /-- WATCHDOG_LIMIT3 (R250). -/
  | watchdogLimit3 (lh : Nat)
  /-- QUANTUM_EXPIRY (R251). -/
  | quantumExpiry (lh : Nat)
  /-- KERNEL_COMPLETION (R34). -/
  | kernelCompletion (lh : Nat)
  /-- CONTEXT_ENABLE (R311). -/
  | contextEnable (ctx part : Nat)
  /-- CONTEXT_DISABLE (R311). -/
  | contextDisable (ctx : Nat)
  /-- FQRESUME_RETRY (R320). -/
  | fqresumeRetry (ctx fseq : Nat)
  /-- FQRESUME_DENY (R320). -/
  | fqresumeDeny (ctx fseq : Nat)
  /-- REWALK (R319). -/
  | rewalk (c : CoreId) (ticket : Nat)
  /-- FAULT_QUEUE_SPACE (R318). -/
  | faultQueueSpace (ctx : Nat)
  /-- TLBINV_PAGE (R317). -/
  | tlbinvPage (ctx : Nat) (va : Word) (size : Nat)
  /-- TLBINV_ALL (R317). -/
  | tlbinvAll (ctx : Nat)
  /-- TLBINVST_ADVANCE (R317). -/
  | tlbinvstAdvance (ctx : Nat)
  /-- REGISTER_WRITE (R4). -/
  | registerWrite (win : Window) (off : Nat) (v : Word)
  /-- TIMECTL_WRITE (R378). -/
  | timectlWrite (v : Word)
  /-- PWRCTL_WRITE (R384). -/
  | pwrctlWrite (v : Word)
  /-- PTP_MESSAGE (R376). -/
  | ptpMessage (off : Int) (port : Nat)
  /-- PTM_MESSAGE (R376). -/
  | ptmMessage (off : Int)
  /-- TIME_REFERENCE_LOSS (R378). -/
  | timeReferenceLoss
  /-- TIMEOK_EXPIRY (R381). -/
  | timeokExpiry
  /-- POWER_CONTROL_PERIOD (R385). -/
  | powerControlPeriod (watts : Nat) (withhold : List (Fin 4 × Nat))
  /-- THERMAL_THROTTLE (R385). -/
  | thermalThrottle (die : Fin 4)
  /-- THERMAL_SHUTDOWN (R385). -/
  | thermalShutdown (die : Fin 4)
  /-- SENSOR_REFRESH (R379). -/
  | sensorRefresh (vals : List Nat)
  /-- HBM_CORRECTED_ERROR (R367). -/
  | hbmCorrectedError (ch bank row col : Nat)
  /-- HBM_BANK_COPY_COMPLETE (R367). -/
  | hbmBankCopyComplete (ch bank : Nat)
  /-- CORRECTED_ERROR_AGING (R367). -/
  | correctedErrorAging (ch : Nat)
  /-- POWER_ON (R380). -/
  | powerOn
  /-- HBM_STACK_READY (R380). -/
  | hbmStackReady (n : Fin 8)
  /-- DIE_READY (R380). -/
  | dieReady (die : Fin 4)
  /-- ENGINE_READY (R380). -/
  | engineReady (n : Fin 8)
  /-- APPDIE_READY (R380). -/
  | appdieReady
  /-- PCIE_LINK_UP (R381). -/
  | pcieLinkUp (n : Fin 5)
  /-- SCALEOUT_LINK_UP (R381). -/
  | scaleoutLinkUp (n : Fin 8)
  /-- LINK_DOWN (R383). -/
  | linkDown (scaleOut : Bool) (n : Fin 8)
  /-- FIRMWARE_UPDATE (R379). -/
  | firmwareUpdate (image sig : List Byte) (key : Fin 16)
  /-- GET_VERSION (R327). -/
  | getVersion
  /-- GET_CAPABILITIES (R327). -/
  | getCapabilities
  /-- NEGOTIATE_ALGORITHMS (R327). -/
  | negotiateAlgorithms (asym hash : BitVec 32)
  /-- GET_DIGESTS (R327). -/
  | getDigests
  /-- GET_CERTIFICATE (R327). -/
  | getCertificate (slot : Nat) (off len : Nat)
  /-- CHALLENGE (R327). -/
  | challenge (slot : Nat) (nonce : List Byte)
  /-- GET_MEASUREMENTS (R327). -/
  | getMeasurements (ix : Nat)
  /-- SHEAF_COMMAND_COMPLETION (R285). -/
  | sheafCommandCompletion (c : CoreId) (ticket : Nat)
  /-- SCOPE_ACKNOWLEDGEMENT (R200). -/
  | scopeAcknowledgement (c : CoreId)
  /-- HOST_PATH_ACCESS (R164). -/
  | hostPathAccess (h : HostAccess)
  /-- CTX_ECMD (R27). -/
  | ctxEcmd (w : BitVec 32)
  /-- OUTSIDE_LOADED_TEXT (R36). -/
  | outsideLoadedText
  /-- SHUTDOWN (R379). -/
  | shutdown
  /-- CONFIGURATION_UPDATE (R364). -/
  | configurationUpdate (u : ConfigUpdate)
  /-- DIE_COOLED (R385). -/
  | dieCooled (die : Fin 4)
  /-- ADD (R103). -/
  | add (r : R3)
  /-- SUB (R103). -/
  | sub (r : R3)
  /-- AND (R103). -/
  | and (r : R3)
  /-- OR (R103). -/
  | or (r : R3)
  /-- XOR (R103). -/
  | xor (r : R3)
  /-- ANDN (R103). -/
  | andn (r : R3)
  /-- ORN (R103). -/
  | orn (r : R3)
  /-- SLL (R103). -/
  | sll (r : R3)
  /-- SRL (R103). -/
  | srl (r : R3)
  /-- SRA (R103). -/
  | sra (r : R3)
  /-- SLT (R103). -/
  | slt (r : R3)
  /-- SLTU (R103). -/
  | sltu (r : R3)
  /-- MIN (R103). -/
  | min (r : R3)
  /-- MAX (R103). -/
  | max (r : R3)
  /-- MINU (R103). -/
  | minu (r : R3)
  /-- MAXU (R103). -/
  | maxu (r : R3)
  /-- ADDSAT (R103). -/
  | addsat (r : R3)
  /-- SUBSAT (R103). -/
  | subsat (r : R3)
  /-- SELNZ (R103). -/
  | selnz (r : R3)
  /-- ADDI (R104). -/
  | addi (r : IOp)
  /-- ANDI (R104). -/
  | andi (r : IOp)
  /-- ORI (R104). -/
  | ori (r : IOp)
  /-- XORI (R104). -/
  | xori (r : IOp)
  /-- SLTI (R104). -/
  | slti (r : IOp)
  /-- SLTIU (R104). -/
  | sltiu (r : IOp)
  /-- SLLI (R104). -/
  | slli (r : ShOp)
  /-- SRLI (R104). -/
  | srli (r : ShOp)
  /-- SRAI (R104). -/
  | srai (r : ShOp)
  /-- ADDW (R105). -/
  | addw (r : R3)
  /-- SUBW (R105). -/
  | subw (r : R3)
  /-- SLLW (R105). -/
  | sllw (r : R3)
  /-- SRLW (R105). -/
  | srlw (r : R3)
  /-- SRAW (R105). -/
  | sraw (r : R3)
  /-- MULW (R105). -/
  | mulw (r : R3)
  /-- ADDIW (R105). -/
  | addiw (r : IOp)
  /-- SLLIW (R105). -/
  | slliw (r : ShwOp)
  /-- SRLIW (R105). -/
  | srliw (r : ShwOp)
  /-- SRAIW (R105). -/
  | sraiw (r : ShwOp)
  /-- LUI (R106). -/
  | lui (r : UOp)
  /-- AUIPC (R106). -/
  | auipc (r : UOp)
  /-- MUL (R107). -/
  | mul (r : R3)
  /-- MULH (R107). -/
  | mulh (r : R3)
  /-- MULHU (R107). -/
  | mulhu (r : R3)
  /-- MULHSU (R107). -/
  | mulhsu (r : R3)
  /-- DIV (R107). -/
  | div (r : R3)
  /-- DIVU (R107). -/
  | divu (r : R3)
  /-- REM (R107). -/
  | rem (r : R3)
  /-- REMU (R107). -/
  | remu (r : R3)
  /-- CLZ (R108). -/
  | clz (r : R2)
  /-- CTZ (R108). -/
  | ctz (r : R2)
  /-- POPC (R108). -/
  | popc (r : R2)
  /-- REV8 (R108). -/
  | rev8 (r : R2)
  /-- BREV (R108). -/
  | brev (r : R2)
  /-- EXTU (R108). -/
  | extu (r : R3)
  /-- EXTS (R108). -/
  | exts (r : R3)
  /-- INS (R108). -/
  | ins (r : R3)
  /-- ROL (R108). -/
  | rol (r : R3)
  /-- ROR (R108). -/
  | ror (r : R3)
  /-- LD_B (R187). -/
  | ldB (r : IOp)
  /-- LD_BU (R187). -/
  | ldBu (r : IOp)
  /-- LD_H (R187). -/
  | ldH (r : IOp)
  /-- LD_HU (R187). -/
  | ldHu (r : IOp)
  /-- LD_W (R187). -/
  | ldW (r : IOp)
  /-- LD_WU (R187). -/
  | ldWu (r : IOp)
  /-- LD_D (R187). -/
  | ldD (r : IOp)
  /-- ST_B (R188). -/
  | stB (r : SOp)
  /-- ST_H (R188). -/
  | stH (r : SOp)
  /-- ST_W (R188). -/
  | stW (r : SOp)
  /-- ST_D (R188). -/
  | stD (r : SOp)
  /-- MSG_D (R193). -/
  | msgD (r : S2)
  /-- MSG_W (R193). -/
  | msgW (r : S2)
  /-- MSG_B (R193). -/
  | msgB (r : S2)
  /-- MSG_N (R193). -/
  | msgN (r : S2) (w : SubWidth) (pos : Fin 8)
  /-- MSG_EV (R193). -/
  | msgEv (r : S1)
  /-- AMOADD (R195). -/
  | amoadd (wide : Bool) (r : R3)
  /-- AMOMIN (R195). -/
  | amomin (wide : Bool) (r : R3)
  /-- AMOMAX (R195). -/
  | amomax (wide : Bool) (r : R3)
  /-- AMOMINU (R195). -/
  | amominu (wide : Bool) (r : R3)
  /-- AMOMAXU (R195). -/
  | amomaxu (wide : Bool) (r : R3)
  /-- AMOAND (R195). -/
  | amoand (wide : Bool) (r : R3)
  /-- AMOOR (R195). -/
  | amoor (wide : Bool) (r : R3)
  /-- AMOXOR (R195). -/
  | amoxor (wide : Bool) (r : R3)
  /-- AMOSWAP (R195). -/
  | amoswap (wide : Bool) (r : R3)
  /-- AMOCAS (R195). -/
  | amocas (wide : Bool) (r : R3)
  /-- AMOFADD (R195). -/
  | amofadd (wide : Bool) (r : R3)
  /-- LOG_ADD (R197). -/
  | logAdd (narrow : Bool) (r : S2)
  /-- LOG_MIN (R197). -/
  | logMin (narrow : Bool) (r : S2)
  /-- LOG_MAX (R197). -/
  | logMax (narrow : Bool) (r : S2)
  /-- LOG_OR (R197). -/
  | logOr (narrow : Bool) (r : S2)
  /-- LOG_FADD (R197). -/
  | logFadd (narrow : Bool) (r : S2)
  /-- LOG_MERGE (R198). -/
  | logMerge
  /-- FENCE (R168). -/
  | fence (sc : Scope) (pred succ : BitVec 3)
  /-- FENCE_X (R169). -/
  | fenceX (sc : Scope) (p c : Path)
  /-- FENCE_I (R201). -/
  | fenceI
  /-- WAITA (R203). -/
  | waita (r : R3)
  /-- WAITSEQ (R204). -/
  | waitseq (p : EngClass) (r : S1)
  /-- WAITBO (R205). -/
  | waitbo (r : R2)
  /-- TIME (R267). -/
  | time (d : XReg)
  /-- CYCLE (R267). -/
  | cycle (d : XReg)
  /-- SLEEPU (R267). -/
  | sleepu (r : S1)
  /-- REALIGN (R268). -/
  | realign (d : XReg)
  /-- BEQ (R260). -/
  | beq (r : BOp)
  /-- BNE (R260). -/
  | bne (r : BOp)
  /-- BLT (R260). -/
  | blt (r : BOp)
  /-- BGE (R260). -/
  | bge (r : BOp)
  /-- BLTU (R260). -/
  | bltu (r : BOp)
  /-- BGEU (R260). -/
  | bgeu (r : BOp)
  /-- JAL (R261). -/
  | jal (r : UOp)
  /-- JALR (R261). -/
  | jalr (r : IOp)
  /-- LOOP_S (R263). -/
  | loopS (i : Fin 2) (r : S1) (imm : BitVec 11)
  /-- LOOP_SI (R263). -/
  | loopSi (i : Fin 2) (n : BitVec 5) (imm : BitVec 11)
  /-- LOOP_X (R265). -/
  | loopX (i : Fin 2)
  /-- RGN_OPEN (R350). -/
  | rgnOpen
  /-- RGN_COMMIT (R350). -/
  | rgnCommit
  /-- RGN_LIMIT (R350). -/
  | rgnLimit (n : BitVec 8)
  /-- RGN_ABORT (R350). -/
  | rgnAbort
  /-- RGN_QUERY (R351). -/
  | rgnQuery (d : XReg)
  /-- SNAP (R357). -/
  | snap (d : XReg)
  /-- ECALL (R336). -/
  | ecall
  /-- EBREAK (R337). -/
  | ebreak
  /-- TRAP (R337). -/
  | trap (r : S1)
  /-- ERET (R335). -/
  | eret
  /-- SYSR (R330). -/
  | sysr (d : XReg) (n : SysReg)
  /-- SYSW (R330). -/
  | sysw (n : SysReg) (r : S1)
  /-- SYSSET (R330). -/
  | sysset (n : SysReg) (r : S1)
  /-- SYSCLR (R330). -/
  | sysclr (n : SysReg) (r : S1)
  /-- HALT (R339). -/
  | halt
  /-- INJECT (R338). -/
  | inject (r : S1)
  /-- GRPID (R274). -/
  | grpid (r : R2)
  /-- GRPSZ (R274). -/
  | grpsz (r : R2)
  /-- GBAR (R275). -/
  | gbar (r : R2)
  /-- GARRIVE (R274). -/
  | garrive (r : R2)
  /-- GWAITB (R275). -/
  | gwaitb (r : R3)
  /-- FOLLOW (R276). -/
  | follow
  /-- UNFOLLOW (R276). -/
  | unfollow
  /-- LCORE (R274). -/
  | lcore (r : R2)
  /-- COPYIN (R210). -/
  | copyin (r : R3)
  /-- COPYOUT (R210). -/
  | copyout (r : R3)
  /-- GATHER (R210). -/
  | gather (r : R3)
  /-- MCAST (R213). -/
  | mcast (r : R3)
  /-- COPYLOC (R212). -/
  | copyloc (r : R3)
  /-- SHF_ITIN (R282). -/
  | shfItin (r : R3)
  /-- SHF_READ (R283). -/
  | shfRead (r : R3)
  /-- SHF_TAKE (R284). -/
  | shfTake (r : R2)
  /-- SHF_REL (R285). -/
  | shfRel (r : R2)
  /-- SHF_HOLD (R282). -/
  | shfHold (r : R3)
  /-- SHF_STAT (R287). -/
  | shfStat (r : R2)
  /-- SHF_REREAD (R288). -/
  | shfReread (r : R2)
  /-- SCN_CFG (R290). -/
  | scnCfg (r : R2)
  /-- SCN_RUN (R291). -/
  | scnRun (r : R2)
  /-- SCN_RED (R291). -/
  | scnRed (r : R2)
  /-- SCN_APPLY (R291). -/
  | scnApply (r : R2)
  /-- SCN_CLOSE (R292). -/
  | scnClose (d : XReg)
  /-- SCN_STAT (R293). -/
  | scnStat (d : XReg)
  /-- CAGRP (R220). -/
  | cagrp (r : R2)
  /-- CLDRED (R221). -/
  | cldred (r : R2)
  /-- CSTRED (R221). -/
  | cstred (r : R2)
  /-- CGRAPH (R225). -/
  | cgraph (r : R3)
  /-- CRUN (R225). -/
  | crun (r : R3)
  /-- CABORT (R224). -/
  | cabort (r : R2)
  /-- BOSET (R217). -/
  | boset (r : R3)
  /-- BOQ (R218). -/
  | boq (r : R3)
  /-- TRC_EMIT (R341). -/
  | trcEmit (r : R3)
  /-- TRC_CFG (R341). -/
  | trcCfg (r : R3)
  /-- VADD (R109). -/
  | vadd (r : L3)
  /-- VSUB (R109). -/
  | vsub (r : L3)
  /-- VADDSAT (R109). -/
  | vaddsat (r : L3)
  /-- VSUBSAT (R109). -/
  | vsubsat (r : L3)
  /-- VMIN (R109). -/
  | vmin (r : L3)
  /-- VMAX (R109). -/
  | vmax (r : L3)
  /-- VMINU (R109). -/
  | vminu (r : L3)
  /-- VMAXU (R109). -/
  | vmaxu (r : L3)
  /-- VAND (R109). -/
  | vand (r : L3)
  /-- VOR (R109). -/
  | vor (r : L3)
  /-- VXOR (R109). -/
  | vxor (r : L3)
  /-- VSLL (R109). -/
  | vsll (r : L3)
  /-- VSRL (R109). -/
  | vsrl (r : L3)
  /-- VSRA (R109). -/
  | vsra (r : L3)
  /-- VMUL (R109). -/
  | vmul (r : L3)
  /-- VMULH (R109). -/
  | vmulh (r : L3)
  /-- VCMPEQ (R110). -/
  | vcmpeq (r : LCmp)
  /-- VCMPLT (R110). -/
  | vcmplt (r : LCmp)
  /-- VCMPLTU (R110). -/
  | vcmpltu (r : LCmp)
  /-- VSEL (R111). -/
  | vsel (r : L3)
  /-- VMOV (R112). -/
  | vmov (r : L2)
  /-- VBCAST (R112). -/
  | vbcast (r : L2)
  /-- VEXTR (R112). -/
  | vextr (r : L3)
  /-- VINS (R112). -/
  | vins (r : L3)
  /-- VFADD (R113). -/
  | vfadd (r : L3)
  /-- VFSUB (R113). -/
  | vfsub (r : L3)
  /-- VFMUL (R113). -/
  | vfmul (r : L3)
  /-- VFMA (R113). -/
  | vfma (r : L3)
  /-- VFMS (R113). -/
  | vfms (r : L3)
  /-- VFNMA (R113). -/
  | vfnma (r : L3)
  /-- VFMIN (R113). -/
  | vfmin (r : L3)
  /-- VFMAX (R113). -/
  | vfmax (r : L3)
  /-- VFABS (R113). -/
  | vfabs (r : L2)
  /-- VFNEG (R113). -/
  | vfneg (r : L2)
  /-- VFCMPEQ (R114). -/
  | vfcmpeq (r : LCmp)
  /-- VFCMPLT (R114). -/
  | vfcmplt (r : LCmp)
  /-- VFCMPLE (R114). -/
  | vfcmple (r : LCmp)
  /-- VFCLASS (R115). -/
  | vfclass (r : L2)
  /-- VCVTN (R118). -/
  | vcvtn (r : LCvt)
  /-- VCVTW (R119). -/
  | vcvtw (r : LCvt)
  /-- VCVTSR (R118). -/
  | vcvtsr (r : LCvt)
  /-- VCVTI (R120). -/
  | vcvti (r : L2)
  /-- VCVTF (R120). -/
  | vcvtf (r : L2)
  /-- VQSCALE (R121). -/
  | vqscale (r : LCvt)
  /-- VQUANT (R121). -/
  | vquant (r : LCvt)
  /-- VDEQ (R121). -/
  | vdeq (r : LCvt)
  /-- VREDADD (R122). -/
  | vredadd (r : L2)
  /-- VREDMAX (R122). -/
  | vredmax (r : L2)
  /-- VREDMIN (R122). -/
  | vredmin (r : L2)
  /-- VFREDADD (R123). -/
  | vfredadd (r : L2)
  /-- VFREDMAX (R122). -/
  | vfredmax (r : L2)
  /-- VPERM (R124). -/
  | vperm (r : L3)
  /-- VROT (R124). -/
  | vrot (r : L3)
  /-- VSLIDE (R124). -/
  | vslide (r : L3)
  /-- VEXP2 (R125). -/
  | vexp2 (r : LSfu)
  /-- VLOG2 (R125). -/
  | vlog2 (r : LSfu)
  /-- VRCP (R125). -/
  | vrcp (r : LSfu)
  /-- VRSQRT (R125). -/
  | vrsqrt (r : LSfu)
  /-- VSIGM (R125). -/
  | vsigm (r : LSfu)
  /-- VTANH (R125). -/
  | vtanh (r : LSfu)
  /-- VERF (R125). -/
  | verf (r : LSfu)
  /-- KAND (R126). -/
  | kand (kd ka kb : KReg)
  /-- KOR (R126). -/
  | kor (kd ka kb : KReg)
  /-- KXOR (R126). -/
  | kxor (kd ka kb : KReg)
  /-- KNOT (R126). -/
  | knot (kd ka : KReg)
  /-- KMOVX (R126). -/
  | kmovx (kd ka kb : KReg)
  /-- KMOVK (R126). -/
  | kmovk (kd ka : KReg)
  /-- KPOPC (R126). -/
  | kpopc (kd ka : KReg)
  /-- KFIRST (R126). -/
  | kfirst (kd ka : KReg)
  /-- STRM_BIND (R128). -/
  | strmBind (n : Fin 4)
  /-- STRM_CFG (R128). -/
  | strmCfg (n : Fin 4) (va : VReg) (la : Bool)
  /-- STRM_FREE (R128). -/
  | strmFree (n : Fin 4)
  /-- STRM_STAT (R128). -/
  | strmStat (vd : VReg) (n : Fin 4)
  /-- VLD (R191). -/
  | vld (r : LMem)
  /-- VST (R191). -/
  | vst (r : LMem)
  /-- VLDS (R191). -/
  | vlds (r : LMem)
  /-- VSTS (R191). -/
  | vsts (r : LMem)
  /-- VLDG (R191). -/
  | vldg (r : LMemG)
  /-- VSTSC (R191). -/
  | vstsc (r : LMemG)
  /-- VLDB (R191). -/
  | vldb (r : LMem)
  /-- VLDACC (R192). -/
  | vldacc (r : LAcc)
  /-- MMA (R143). -/
  | mma (r : R3)
  /-- MMAZ (R143). -/
  | mmaz (r : R3)
  /-- MMAQ (R144). -/
  | mmaq (d : XReg)
  /-- MMAQ_C (R144). -/
  | mmaqC (d : XReg)
  /-- RINGSET (R145). -/
  | ringset (n : Fin 8) (r : S2)
  /-- RINGPUSH (R145). -/
  | ringpush (n : Fin 8) (r : S1)
  /-- RINGPOP (R145). -/
  | ringpop (n : Fin 8) (r : S1)
  /-- RINGSTAT (R147). -/
  | ringstat (d : XReg) (n : Fin 8)
  /-- RINGCLR (R145). -/
  | ringclr (n : Fin 8)
  /-- TIDDEF (R152). -/
  | tiddef (r : S2)
  /-- TIDGET (R152). -/
  | tidget (r : R3)
  /-- TIDSWAP (R152). -/
  | tidswap (r : S2)
  /-- TIDINV (R152). -/
  | tidinv (r : S1)
  /-- TSEND (R278). -/
  | tsend (r : S2)
  /-- TSLOTCFG (R278). -/
  | tslotcfg (r : S2)
  /-- TSLOTQ (R280). -/
  | tslotq (d : XReg)
  /-- CL_VADD (R40). -/
  | clVadd (r : ClOp)
  /-- CL_VSUB (R40). -/
  | clVsub (r : ClOp)
  /-- CL_VMAX (R40). -/
  | clVmax (r : ClOp)
  /-- CL_VMIN (R40). -/
  | clVmin (r : ClOp)
  /-- CL_VAND (R40). -/
  | clVand (r : ClOp)
  /-- CL_VOR (R40). -/
  | clVor (r : ClOp)
  /-- CL_VXOR (R40). -/
  | clVxor (r : ClOp)
  /-- CL_VMOV (R40). -/
  | clVmov (r : ClOp)
  /-- CL_VFADD (R40). -/
  | clVfadd (r : ClOp)
  /-- CL_VFSUB (R40). -/
  | clVfsub (r : ClOp)
  /-- CL_VFMUL (R40). -/
  | clVfmul (r : ClOp)
  /-- CL_VFMAX (R40). -/
  | clVfmax (r : ClOp)
  /-- CL_VFMIN (R40). -/
  | clVfmin (r : ClOp)
  /-- CL_VFMACV (R40). -/
  | clVfmacv (r : ClOp)
  /-- VABS (R40). -/
  | vabs (r : ClOp)
  /-- CL_VFABS (R40). -/
  | clVfabs (r : ClOp)
  /-- C_ADDI (R41). -/
  | cAddi (d : XReg) (imm : BitVec 6)
  /-- C_MV (R41). -/
  | cMv (d a : XReg)
  /-- C_LI (R41). -/
  | cLi (d : XReg) (imm : BitVec 6)
  /-- C_LDL (R41). -/
  | cLdl (d : XReg) (imm : BitVec 6)
  /-- C_STL (R41). -/
  | cStl (d : XReg) (imm : BitVec 6)
  /-- C_BEQZ (R41). -/
  | cBeqz (d : XReg) (imm : BitVec 6)
  /-- C_BNEZ (R41). -/
  | cBnez (d : XReg) (imm : BitVec 6)
  /-- C_RGN (R41). -/
  | cRgn
  deriving DecidableEq, Repr

end Sys2Proof
end

