-- ==== Sys2Proof/WellFormed.lean ====
section
/-! DEFINITION. Which terms of Syntax an encoding stands for (spec/02_encoding.md R52, and the limits of the
instructions' own descriptions). An event has no encoding. -/

namespace Sys2Proof

/-- The formats VCVTN accepts, R118. -/
def cvtnOk : LaneFmt → Bool
  | .bfp8 | .bfp4 => false
  | .fp4 | .fp6a | .fp6b | .fp8a | .fp8b | .int4 | .uint4 | .int8 | .uint8 | .int16 | .fp16 | .bf16 | .sc8 => true

/-- The formats VCVTSR accepts, R118. -/
def cvtsrOk : LaneFmt → Bool
  | .sc8 | .bfp8 | .bfp4 => false
  | .fp4 | .fp6a | .fp6b | .fp8a | .fp8b | .int4 | .uint4 | .int8 | .uint8 | .int16 | .fp16 | .bf16 => true

/-- The pairs VCVTW accepts, R119: `es` is 0 BF16, 1 FP16, 2 FP32, 3 FP64. -/
def cvtwOk (f : LaneFmt) (es : Fin 4) : Bool :=
  match f with
  | .bfp8 | .bfp4 => false
  | .int16 => 2 ≤ es.val
  | .fp16 => es ≠ 0
  | .bf16 | .sc8 => es ≠ 1
  | .fp4 | .fp6a | .fp6b | .fp8a | .fp8b | .int4 | .uint4 | .int8 | .uint8 => true

/-- The formats of the block instructions, R121. -/
def blockOk : LaneFmt → Bool
  | .fp4 | .fp6a | .fp6b | .fp8a | .fp8b | .int4 | .int8 | .bfp8 | .bfp4 => true
  | .uint4 | .uint8 | .int16 | .fp16 | .bf16 | .sc8 => false

/-- The width in bits of MSG.N's field, R193. -/
def SubWidth.bits : SubWidth → Nat
  | .four => 4
  | .two => 2
  | .one => 1

/-- MSG.N's position is a multiple of its width, R193. -/
def msgNOk (w : SubWidth) (pos : Fin 8) : Bool := pos.val % w.bits == 0

/-- Some encoding stands for this term, R52: a constant field has a value its instruction admits. -/
def Instr.wf (i : Instr) : Bool :=
  match i with
  | .msgN _ w pos => msgNOk w pos
  | .fence _ pred succ => pred != 0 && succ != 0
  | .loopS _ _ imm => 2 ≤ imm.toNat
  | .loopSi _ _ imm => 2 ≤ imm.toNat
  | .rgnLimit n => n != 0
  | .vcvtn r => cvtnOk r.fmt
  | .vcvtw r => cvtwOk r.fmt r.es
  | .vcvtsr r => cvtsrOk r.fmt
  | .vqscale r => blockOk r.fmt
  | .vquant r => blockOk r.fmt
  | .vdeq r => blockOk r.fmt
  | .clVadd r => r != ⟨0, 0, false, false⟩
  | .clVand r => !r.sz
  | .clVor r => !r.sz
  | .clVxor r => !r.sz
  | .clVmov r => !r.sz
  | .ctxEcmd w => w.extractLsb' 0 7 == 0x2F#7 && w.extractLsb' 24 4 == 6#4
  | .add _ | .sub _ | .and _ | .or _ | .xor _ | .andn _ | .orn _ | .sll _ | .srl _ | .sra _ | .slt _ | .sltu _
    | .min _ | .max _ | .minu _ | .maxu _ | .addsat _ | .subsat _ | .selnz _ | .addi _ | .andi _ | .ori _
    | .xori _ | .slti _ | .sltiu _ | .slli _ | .srli _ | .srai _ | .addw _ | .subw _ | .sllw _ | .srlw _
    | .sraw _ | .mulw _ | .addiw _ | .slliw _ | .srliw _ | .sraiw _ | .lui _ | .auipc _ | .mul _ | .mulh _
    | .mulhu _ | .mulhsu _ | .div _ | .divu _ | .rem _ | .remu _ | .clz _ | .ctz _ | .popc _ | .rev8 _
    | .brev _ | .extu _ | .exts _ | .ins _ | .rol _ | .ror _ | .ldB _ | .ldBu _ | .ldH _ | .ldHu _ | .ldW _
    | .ldWu _ | .ldD _ | .stB _ | .stH _ | .stW _ | .stD _ | .msgD _ | .msgW _ | .msgB _ | .msgEv _
    | .amoadd _ _ | .amomin _ _ | .amomax _ _ | .amominu _ _ | .amomaxu _ _ | .amoand _ _ | .amoor _ _
    | .amoxor _ _ | .amoswap _ _ | .amocas _ _ | .amofadd _ _ | .logAdd _ _ | .logMin _ _ | .logMax _ _
    | .logOr _ _ | .logFadd _ _ | .logMerge | .fenceX _ _ _ | .fenceI | .waita _ | .waitseq _ _ | .waitbo _
    | .time _ | .cycle _ | .sleepu _ | .realign _ | .beq _ | .bne _ | .blt _ | .bge _ | .bltu _ | .bgeu _
    | .jal _ | .jalr _ | .loopX _ | .rgnOpen | .rgnCommit | .rgnAbort | .rgnQuery _ | .snap _ | .ecall
    | .ebreak | .trap _ | .eret | .sysr _ _ | .sysw _ _ | .sysset _ _ | .sysclr _ _ | .halt | .inject _
    | .grpid _ | .grpsz _ | .gbar _ | .garrive _ | .gwaitb _ | .follow | .unfollow | .lcore _ | .copyin _
    | .copyout _ | .gather _ | .mcast _ | .copyloc _ | .shfItin _ | .shfRead _ | .shfTake _ | .shfRel _
    | .shfHold _ | .shfStat _ | .shfReread _ | .scnCfg _ | .scnRun _ | .scnRed _ | .scnApply _ | .scnClose _
    | .scnStat _ | .cagrp _ | .cldred _ | .cstred _ | .cgraph _ | .crun _ | .cabort _ | .boset _ | .boq _
    | .trcEmit _ | .trcCfg _ | .vadd _ | .vsub _ | .vaddsat _ | .vsubsat _ | .vmin _ | .vmax _ | .vminu _
    | .vmaxu _ | .vand _ | .vor _ | .vxor _ | .vsll _ | .vsrl _ | .vsra _ | .vmul _ | .vmulh _ | .vcmpeq _
    | .vcmplt _ | .vcmpltu _ | .vsel _ | .vmov _ | .vbcast _ | .vextr _ | .vins _ | .vfadd _ | .vfsub _
    | .vfmul _ | .vfma _ | .vfms _ | .vfnma _ | .vfmin _ | .vfmax _ | .vfabs _ | .vfneg _ | .vfcmpeq _
    | .vfcmplt _ | .vfcmple _ | .vfclass _ | .vcvti _ | .vcvtf _ | .vredadd _ | .vredmax _ | .vredmin _
    | .vfredadd _ | .vfredmax _ | .vperm _ | .vrot _ | .vslide _ | .vexp2 _ | .vlog2 _ | .vrcp _ | .vrsqrt _
    | .vsigm _ | .vtanh _ | .verf _ | .kand _ _ _ | .kor _ _ _ | .kxor _ _ _ | .knot _ _ | .kmovx _ _ _
    | .kmovk _ _ | .kpopc _ _ | .kfirst _ _ | .strmBind _ | .strmCfg _ _ _ | .strmFree _ | .strmStat _ _
    | .vld _ | .vst _ | .vlds _ | .vsts _ | .vldg _ | .vstsc _ | .vldb _ | .vldacc _ | .mma _ | .mmaz _
    | .mmaq _ | .mmaqC _ | .ringset _ _ | .ringpush _ _ | .ringpop _ _ | .ringstat _ _ | .ringclr _
    | .tiddef _ | .tidget _ | .tidswap _ | .tidinv _ | .tsend _ | .tslotcfg _ | .tslotq _ | .clVsub _
    | .clVmax _ | .clVmin _ | .clVfadd _ | .clVfsub _ | .clVfmul _ | .clVfmax _ | .clVfmin _ | .clVfmacv _
    | .vabs _ | .clVfabs _ | .cAddi _ _ | .cMv _ _ | .cLi _ _ | .cLdl _ _ | .cStl _ _ | .cBeqz _ _
    | .cBnez _ _ | .cRgn => true
  | .illegal _ | .registerWriteLanding _ | .storeLineDrain _ | .commandDrain _ | .dynamicLineLanding _
    | .messageArrival _ | .logEntryArrival _ | .tsendLanding _ | .tick _ | .sleepuExpiry _ | .waitaDeadline _
    | .mmaGangStart _ _ _ | .mmaCompletion _ _ _ | .copyCompletion _ _ | .mcastDelivery _
    | .scanCommandCompletion _ | .carryDelivery _ | .groupBarrierFire _ _ | .snapFire _ | .tourReadStart _
    | .tileArrival _ _ | .holdLimitExpiry _ _ | .gleaningDelivery _ _ | .gleaningBoundExpiry _ | .tourEnd _
    | .cagrpCompletion _ _ | .cagrpDrainExpiry _ _ | .reductionStart _ _ _ | .chunkWrite _ _ _
    | .collCompletion _ _ | .memberAbsent _ _ _ | .stalePacketArrival _ _ _ | .apertureAccess _ _ _ _
    | .detectedError _ _ | .regionReentry _ | .consumedUncorrectableError _ | .headerUncorrectableError _
    | .partitionRebringupComplete _ | .mirrorItemCompare _ _ | .mirrorHashMismatch _ _
    | .mirrorHashTimeout _ _ | .triageDecision _ _ _ | .mirrorResyncComplete _ _ | .lqtailWrite _ _
    | .queueEnable _ | .queueDisable _ | .queueCancel _ | .launchRecordTake _ | .launchEligible _
    | .priorityAging _ | .slotBind _ _ _ | .dispatch _ | .slotVacate _ | .coreStop _ | .saveComplete _
    | .watchdogLimit1 _ | .watchdogLimit2 _ | .watchdogLimit3 _ | .quantumExpiry _ | .kernelCompletion _
    | .contextEnable _ _ | .contextDisable _ | .fqresumeRetry _ _ | .fqresumeDeny _ _ | .rewalk _ _
    | .faultQueueSpace _ | .tlbinvPage _ _ _ | .tlbinvAll _ | .tlbinvstAdvance _ | .registerWrite _ _ _
    | .timectlWrite _ | .pwrctlWrite _ | .ptpMessage _ _ | .ptmMessage _ | .timeReferenceLoss | .timeokExpiry
    | .powerControlPeriod _ _ | .thermalThrottle _ | .thermalShutdown _ | .sensorRefresh _
    | .hbmCorrectedError _ _ _ _ | .hbmBankCopyComplete _ _ | .correctedErrorAging _ | .powerOn
    | .hbmStackReady _ | .dieReady _ | .engineReady _ | .appdieReady | .pcieLinkUp _ | .scaleoutLinkUp _
    | .linkDown _ _ | .firmwareUpdate _ _ _ | .getVersion | .getCapabilities | .negotiateAlgorithms _ _
    | .getDigests | .getCertificate _ _ _ | .challenge _ _ | .getMeasurements _ | .sheafCommandCompletion _ _
    | .scopeAcknowledgement _ | .hostPathAccess _ | .outsideLoadedText | .shutdown | .configurationUpdate _
    | .dieCooled _ => false

end Sys2Proof
end

