-- ==== Sys2Proof/Decode.lean ====
section
/-! DEFINITION. From bytes to instructions and back (spec/02_encoding.md): the fields of each format, the decoder, which
is total on any bytes and refuses by name, and the encoder. What builds an instruction is marked noncomputable: Lean's compiler
takes no more than 245 constructors with fields, and the opcode table has more. The kernel evaluates all of it. -/

namespace Sys2Proof

/-- Why bytes are no instruction: R36 (too few bytes of text) or R52 (the word or zero-extended halfword). -/
inductive DecodeError where
  | outsideText
  | illegal (w : BitVec 32)
  deriving DecidableEq, Repr

/-- An encoding: one halfword or two, R35. -/
inductive Code where
  | half (h : BitVec 16)
  | word (w : BitVec 32)
  deriving DecidableEq, Repr

/-! ### Fields, R37, R39 -/

/-- MAJ. -/
def majW (w : BitVec 32) : BitVec 6 := w.extractLsb' 1 6
/-- R-format SEL. -/
def selR (w : BitVec 32) : BitVec 5 := w.extractLsb' 27 5
/-- R-format m3. -/
def m3R (w : BitVec 32) : BitVec 3 := w.extractLsb' 24 3
/-- Lb of the R, S, B and E formats. -/
def lbR (w : BitVec 32) : Bool := w.getLsbD 23
/-- La of the R, S, B and E formats. -/
def laR (w : BitVec 32) : Bool := w.getLsbD 22
/-- Field b. -/
def bR (w : BitVec 32) : XReg := (w.extractLsb' 17 5).toFin
/-- Field a. -/
def aR (w : BitVec 32) : XReg := (w.extractLsb' 12 5).toFin
/-- Field d. -/
def dR (w : BitVec 32) : XReg := (w.extractLsb' 7 5).toFin
/-- I-format SEL. -/
def selI (w : BitVec 32) : BitVec 3 := w.extractLsb' 18 3
/-- I-format La. -/
def laI (w : BitVec 32) : Bool := w.getLsbD 17
/-- imm11. -/
def imm11 (w : BitVec 32) : BitVec 11 := w.extractLsb' 21 11
/-- S-format SEL. -/
def selS (w : BitVec 32) : BitVec 2 := w.extractLsb' 24 2
/-- B-format SEL. -/
def selB (w : BitVec 32) : BitVec 3 := w.extractLsb' 24 3
/-- E-format SEL. -/
def selE (w : BitVec 32) : BitVec 4 := w.extractLsb' 28 4
/-- ENG. -/
def engE (w : BitVec 32) : BitVec 4 := w.extractLsb' 24 4
/-- L-format SEL. -/
def selL (w : BitVec 32) : BitVec 6 := w.extractLsb' 26 6
/-- es. -/
def esL (w : BitVec 32) : Fin 4 := (w.extractLsb' 24 2).toFin
/-- km. -/
def kmL (w : BitVec 32) : KReg := (w.extractLsb' 21 3).toFin
/-- L-format Lb. -/
def lbL (w : BitVec 32) : Bool := w.getLsbD 20
/-- L-format La. -/
def laL (w : BitVec 32) : Bool := w.getLsbD 19
/-- vb. -/
def vbL (w : BitVec 32) : VReg := (w.extractLsb' 15 4).toFin
/-- va. -/
def vaL (w : BitVec 32) : VReg := (w.extractLsb' 11 4).toFin
/-- vd. -/
def vdL (w : BitVec 32) : VReg := (w.extractLsb' 7 4).toFin

/-- The operands of an I-format instruction. -/
def iop (w : BitVec 32) : IOp := ⟨dR w, aR w, laI w, imm11 w⟩
/-- The operands of the U and J formats. -/
def uop (w : BitVec 32) : UOp := ⟨dR w, w.extractLsb' 12 20⟩
/-- The operands of the S format, R38. -/
def sop (w : BitVec 32) : SOp := ⟨aR w, bR w, laR w, lbR w, w.extractLsb' 26 6 ++ w.extractLsb' 7 5⟩
/-- The operands of the B format, R38. -/
def bop (w : BitVec 32) : BOp := ⟨aR w, bR w, laR w, lbR w, w.extractLsb' 27 5 ++ w.extractLsb' 7 5⟩
/-- The operands of the L format. -/
def l3 (w : BitVec 32) : L3 := ⟨vdL w, vaL w, vbL w, esL w, kmL w, laL w, lbL w⟩
/-- The operands of LMEM with integer registers. -/
def lmem (w : BitVec 32) : LMem := ⟨vdL w, vaL w, vbL w, esL w, kmL w, laL w, lbL w⟩
/-- The operands of LMEM with a vector of indices. -/
def lmemG (w : BitVec 32) : LMemG := ⟨vdL w, vaL w, vbL w, esL w, kmL w, laL w, lbL w⟩

noncomputable section

/-! ### Forms of the R, I and E formats: unused fields and their last-use bits are 0 (R52) -/

/-- d, a and b. -/
def dec3 (w : BitVec 32) (k : R3 → Instr) : Option Instr :=
  if m3R w = 0 then some (k ⟨dR w, aR w, bR w, laR w, lbR w⟩) else none
/-- d and a. -/
def dec2 (w : BitVec 32) (k : R2 → Instr) : Option Instr :=
  if m3R w = 0 ∧ bR w = 0 ∧ lbR w = false then some (k ⟨dR w, aR w, laR w⟩) else none
/-- a and b. -/
def decS2 (w : BitVec 32) (k : S2 → Instr) : Option Instr :=
  if m3R w = 0 ∧ dR w = 0 then some (k ⟨aR w, bR w, laR w, lbR w⟩) else none
/-- a alone. -/
def decS1 (w : BitVec 32) (k : S1 → Instr) : Option Instr :=
  if m3R w = 0 ∧ dR w = 0 ∧ bR w = 0 ∧ lbR w = false then some (k ⟨aR w, laR w⟩) else none
/-- d alone. -/
def decD (w : BitVec 32) (k : XReg → Instr) : Option Instr :=
  if m3R w = 0 ∧ aR w = 0 ∧ bR w = 0 ∧ laR w = false ∧ lbR w = false then some (k (dR w)) else none
/-- No field. -/
def dec0 (w : BitVec 32) (k : Instr) : Option Instr :=
  if w.extractLsb' 7 20 = 0 then some k else none
/-- E format: d, a and b. -/
def decE3 (w : BitVec 32) (k : R3 → Instr) : Option Instr :=
  some (k ⟨dR w, aR w, bR w, laR w, lbR w⟩)
/-- E format: d and a. -/
def decE2 (w : BitVec 32) (k : R2 → Instr) : Option Instr :=
  if bR w = 0 ∧ lbR w = false then some (k ⟨dR w, aR w, laR w⟩) else none
/-- E format: d alone. -/
def decED (w : BitVec 32) (k : XReg → Instr) : Option Instr :=
  if aR w = 0 ∧ bR w = 0 ∧ laR w = false ∧ lbR w = false then some (k (dR w)) else none
/-- I format: d alone. -/
def decID (w : BitVec 32) (k : XReg → Instr) : Option Instr :=
  if imm11 w = 0 ∧ laI w = false ∧ aR w = 0 then some (k (dR w)) else none
/-- I format: no field. -/
def decI0 (w : BitVec 32) (k : Instr) : Option Instr :=
  if imm11 w = 0 ∧ laI w = false ∧ aR w = 0 ∧ dR w = 0 then some k else none

/-- SHIFTI, R38. -/
def decShift (w : BitVec 32) : Option Instr :=
  let r : ShOp := ⟨dR w, aR w, laI w, w.extractLsb' 21 6⟩
  match (w.extractLsb' 27 5).toNat with
  | 0 => some (.slli r)
  | 1 => some (.srli r)
  | 2 => some (.srai r)
  | _ => none
/-- SHIFTIW, R38. -/
def decShiftw (w : BitVec 32) : Option Instr :=
  let r : ShwOp := ⟨dR w, aR w, laI w, w.extractLsb' 21 5⟩
  match (w.extractLsb' 26 6).toNat with
  | 0 => some (.slliw r)
  | 2 => some (.srliw r)
  | 4 => some (.sraiw r)
  | _ => none
/-- ATOM, R195: m3[0] is the width, m3[2:1] must be 0. -/
def decAtom (w : BitVec 32) (k : Bool → R3 → Instr) : Option Instr :=
  if w.extractLsb' 25 2 = 0 then some (k (w.getLsbD 24) ⟨dR w, aR w, bR w, laR w, lbR w⟩) else none
/-- LOGA, R197: d is 0 or 1. -/
def decLog (w : BitVec 32) (k : Bool → S2 → Instr) : Option Instr :=
  if m3R w = 0 ∧ w.extractLsb' 8 4 = 0 then some (k (w.getLsbD 7) ⟨aR w, bR w, laR w, lbR w⟩) else none
/-- MSG.N, R193: d is wc << 3 | pos. -/
def decMsgN (w : BitVec 32) : Option Instr :=
  let pos : Fin 8 := (w.extractLsb' 7 3).toFin
  let k (s : SubWidth) : Option Instr :=
    if m3R w = 0 ∧ msgNOk s pos then some (.msgN ⟨aR w, bR w, laR w, lbR w⟩ s pos) else none
  match (w.extractLsb' 10 2).toNat with
  | 0 => k .four
  | 1 => k .two
  | 2 => k .one
  | _ => none

/-- Scope codes, R165. -/
def scopeOf (n : Nat) : Option Scope :=
  match n with
  | 0 => some .core
  | 1 => some .gang
  | 2 => some .cluster
  | 3 => some .group
  | 4 => some .die
  | 5 => some .device
  | 6 => some .package
  | 7 => some .peer
  | 8 => some .domain
  | 9 => some .host
  | 10 => some .io
  | 11 => some .system
  | _ => none

/-- Path numbers, R27, R169: every one from 0 to 9. -/
def pathOf (n : Nat) : Option Path :=
  match n with
  | 0 => some .core
  | 1 => some .mma
  | 2 => some .copy
  | 3 => some .sheaf
  | 4 => some .scan
  | 5 => some .coll
  | 6 => some .ctx
  | 7 => some .host
  | 8 => some .bobj
  | 9 => some .trace
  | _ => none

/-- Sequenced classes, R28. -/
def classOf (n : Nat) : Option EngClass :=
  match n with
  | 1 => some .mma
  | 2 => some .copy
  | 3 => some .sheaf
  | 4 => some .scan
  | 5 => some .coll
  | _ => none

/-- FENCE, R168, R199. -/
def decFence (w : BitVec 32) : Option Instr :=
  if m3R w = 0 ∧ laR w = false ∧ lbR w = false ∧ w.extractLsb' 15 2 = 0 ∧ w.extractLsb' 20 2 = 0 ∧
      w.extractLsb' 12 3 ≠ 0 ∧ w.extractLsb' 17 3 ≠ 0 then
    (scopeOf (dR w).val).map (fun s => .fence s (w.extractLsb' 12 3) (w.extractLsb' 17 3))
  else none
/-- FENCE.X, R169, R199. -/
def decFenceX (w : BitVec 32) : Option Instr :=
  if m3R w = 0 ∧ laR w = false ∧ lbR w = false then
    match scopeOf (dR w).val, pathOf (aR w).val, pathOf (bR w).val with
    | some s, some p, some c => some (.fenceX s p c)
    | _, _, _ => none
  else none
/-- WAITSEQ, R204: d is the class. -/
def decWaitseq (w : BitVec 32) : Option Instr :=
  if m3R w = 0 ∧ bR w = 0 ∧ lbR w = false then
    (classOf (dR w).val).map (fun p => .waitseq p ⟨aR w, laR w⟩)
  else none
/-- LOOP.S, R262. -/
def decLoopS (w : BitVec 32) : Option Instr :=
  if w.extractLsb' 8 4 = 0 ∧ 2 ≤ (imm11 w).toNat then
    some (.loopS (w.extractLsb' 7 1).toFin ⟨aR w, laI w⟩ (imm11 w)) else none
/-- LOOP.SI, R262. -/
def decLoopSi (w : BitVec 32) : Option Instr :=
  if w.extractLsb' 8 4 = 0 ∧ laI w = false ∧ 2 ≤ (imm11 w).toNat then
    some (.loopSi (w.extractLsb' 7 1).toFin (w.extractLsb' 12 5) (imm11 w)) else none
/-- LOOP.X, R262. -/
def decLoopX (w : BitVec 32) : Option Instr :=
  if w.extractLsb' 8 4 = 0 ∧ laI w = false ∧ imm11 w = 0 ∧ aR w = 0 then
    some (.loopX (w.extractLsb' 7 1).toFin) else none
/-- RGN.LIMIT, R349: n is 1 to 255, the bits above it 0. -/
def decRgnLimit (w : BitVec 32) : Option Instr :=
  if w.extractLsb' 29 3 = 0 ∧ w.extractLsb' 21 8 ≠ 0 ∧ laI w = false ∧ aR w = 0 ∧ dR w = 0 then
    some (.rgnLimit (w.extractLsb' 21 8)) else none

/-- The system register numbers, R329. -/
def sysRegOf (n : Nat) : Option SysReg :=
  match n with
  | 0x00 => some .status
  | 0x01 => some .fflags
  | 0x02 => some .cause
  | 0x03 => some .tval
  | 0x04 => some .epc
  | 0x05 => some .trapvec
  | 0x06 => some .regpc
  | 0x07 => some .regcnt
  | 0x08 => some .reglim
  | 0x09 => some .livex
  | 0x0A => some .livev
  | 0x0B => some .gridmap
  | n =>
    if n < 0x10 then none
    else if n < 0x12 then some (.lc (Fin.ofNat 2 n))
    else if n < 0x14 then some (.ls (Fin.ofNat 2 n))
    else if n < 0x16 then some (.le (Fin.ofNat 2 n))
    else if n < 0x20 then (classOf (n - 0x18)).map .eseq
    else if n < 0x30 then some (.seed (Fin.ofNat 16 n))
    else if n < 0x38 then some (.ringhead (Fin.ofNat 8 n))
    else if n < 0x40 then some (.ringtail (Fin.ofNat 8 n))
    else none

/-- The number in m3 and b, R328. -/
def sysNum (w : BitVec 32) : Nat := (m3R w ++ w.extractLsb' 17 5).toNat
/-- SYSR, R328. -/
def decSysr (w : BitVec 32) : Option Instr :=
  if aR w = 0 ∧ laR w = false ∧ lbR w = false then (sysRegOf (sysNum w)).map (fun n => .sysr (dR w) n) else none
/-- SYSW, SYSSET and SYSCLR, R328. -/
def decSysw (w : BitVec 32) (k : SysReg → S1 → Instr) : Option Instr :=
  if dR w = 0 ∧ lbR w = false then (sysRegOf (sysNum w)).map (fun n => k n ⟨aR w, laR w⟩) else none

/-! ### Forms of the L format -/

/-- vd and va. -/
def decL2 (w : BitVec 32) (k : L2 → Instr) : Option Instr :=
  if vbL w = 0 ∧ lbL w = false then some (k ⟨vdL w, vaL w, esL w, kmL w, laL w⟩) else none
/-- A compare, R110: vd names k0 to k7. -/
def decLCmp (w : BitVec 32) (k : LCmp → Instr) : Option Instr :=
  if w.getLsbD 10 then none
  else some (k ⟨(w.extractLsb' 7 3).toFin, vaL w, vbL w, esL w, kmL w, laL w, lbL w⟩)
/-- LSFU, R125. -/
def decLSfu (w : BitVec 32) (k : LSfu → Instr) : Option Instr :=
  if esL w = 2 ∧ vbL w = 0 ∧ lbL w = false then some (k ⟨vdL w, vaL w, kmL w, laL w⟩) else none
/-- LMASK with three masks, R126. -/
def decK3 (w : BitVec 32) (k : KReg → KReg → KReg → Instr) : Option Instr :=
  if w.extractLsb' 18 8 = 0 ∧ w.getLsbD 14 = false ∧ w.getLsbD 10 = false then
    some (k (w.extractLsb' 7 3).toFin (w.extractLsb' 11 3).toFin (w.extractLsb' 15 3).toFin)
  else none
/-- LMASK with two masks, R126. -/
def decK2 (w : BitVec 32) (k : KReg → KReg → Instr) : Option Instr :=
  if w.extractLsb' 15 11 = 0 ∧ w.getLsbD 14 = false ∧ w.getLsbD 10 = false then
    some (k (w.extractLsb' 7 3).toFin (w.extractLsb' 11 3).toFin)
  else none

/-- The lane-format codes, R50. -/
def laneFmtOf (n : Nat) : Option LaneFmt :=
  match n with
  | 0 => some .fp4
  | 1 => some .fp6a
  | 2 => some .fp6b
  | 3 => some .fp8a
  | 4 => some .fp8b
  | 5 => some .int4
  | 6 => some .uint4
  | 7 => some .int8
  | 8 => some .uint8
  | 9 => some .int16
  | 10 => some .fp16
  | 11 => some .bf16
  | 12 => some .sc8
  | 13 => some .bfp8
  | 14 => some .bfp4
  | _ => none

/-- LCVT with a format, R117, and the pairs the instruction accepts. -/
def decLCvt (w : BitVec 32) (ok : LaneFmt → Fin 4 → Bool) (k : LCvt → Instr) : Option Instr :=
  match laneFmtOf (vbL w).val with
  | some f => if lbL w = false ∧ ok f (esL w) then some (k ⟨vdL w, vaL w, f, esL w, kmL w, laL w⟩) else none
  | none => none

/-- STRM.BIND and STRM.FREE, R128. -/
def decStrm (w : BitVec 32) (k : Fin 4 → Instr) : Option Instr :=
  if w.extractLsb' 9 17 = 0 then some (k (w.extractLsb' 7 2).toFin) else none
/-- STRM.CFG, R128. -/
def decStrmCfg (w : BitVec 32) : Option Instr :=
  if w.extractLsb' 9 2 = 0 ∧ w.extractLsb' 15 4 = 0 ∧ w.extractLsb' 20 6 = 0 then
    some (.strmCfg (w.extractLsb' 7 2).toFin (vaL w) (laL w)) else none
/-- STRM.STAT, R128. -/
def decStrmStat (w : BitVec 32) : Option Instr :=
  if w.extractLsb' 13 13 = 0 then some (.strmStat (vdL w) (w.extractLsb' 11 2).toFin) else none
/-- VLDACC, R192. -/
def decVldacc (w : BitVec 32) : Option Instr :=
  if w.extractLsb' 16 3 = 0 ∧ lbL w = false ∧ w.getLsbD 25 then
    some (.vldacc ⟨vdL w, vaL w, w.getLsbD 24, w.getLsbD 15, kmL w, laL w⟩) else none

/-! ### RING and MMAQ forms -/

/-- RINGSET, R145. -/
def decRing2 (w : BitVec 32) (k : Fin 8 → S2 → Instr) : Option Instr :=
  if m3R w = 0 ∧ w.extractLsb' 10 2 = 0 then
    some (k (w.extractLsb' 7 3).toFin ⟨aR w, bR w, laR w, lbR w⟩) else none
/-- RINGPUSH and RINGPOP, R145. -/
def decRing1 (w : BitVec 32) (k : Fin 8 → S1 → Instr) : Option Instr :=
  if m3R w = 0 ∧ w.extractLsb' 10 2 = 0 ∧ bR w = 0 ∧ lbR w = false then
    some (k (w.extractLsb' 7 3).toFin ⟨aR w, laR w⟩) else none
/-- RINGSTAT, R145: a is the ring. -/
def decRingstat (w : BitVec 32) : Option Instr :=
  if m3R w = 0 ∧ w.extractLsb' 15 2 = 0 ∧ bR w = 0 ∧ laR w = false ∧ lbR w = false then
    some (.ringstat (dR w) (w.extractLsb' 12 3).toFin) else none
/-- RINGCLR, R145. -/
def decRingclr (w : BitVec 32) : Option Instr :=
  if w.extractLsb' 10 17 = 0 then some (.ringclr (w.extractLsb' 7 3).toFin) else none
/-- MMAQ, R144: m3[0] clears. -/
def decMmaq (w : BitVec 32) : Option Instr :=
  if w.extractLsb' 25 2 = 0 ∧ w.extractLsb' 12 12 = 0 then
    some (if w.getLsbD 24 then .mmaqC (dR w) else .mmaq (dR w)) else none

/-! ### The compact formats, R39 -/

/-- CL SEL. -/
def selCL (h : BitVec 16) : BitVec 4 := h.extractLsb' 2 4
/-- CL operands. -/
def clop (h : BitVec 16) : ClOp := ⟨(h.extractLsb' 6 4).toFin, (h.extractLsb' 10 4).toFin, h.getLsbD 14, h.getLsbD 15⟩
/-- CS SEL. -/
def selCS (h : BitVec 16) : BitVec 3 := h.extractLsb' 2 3
/-- CS d. -/
def dC (h : BitVec 16) : XReg := (h.extractLsb' 5 5).toFin
/-- C.MV a. -/
def aC (h : BitVec 16) : XReg := (h.extractLsb' 10 5).toFin
/-- imm6. -/
def immC (h : BitVec 16) : BitVec 6 := h.extractLsb' 10 6

/-! ### The opcode map, R47, R48 -/

/-- OP, R47 major 0x00. -/
def decOpMajor (w : BitVec 32) : Option Instr :=
  match (selR w).toNat with
  | 0 => dec3 w .add
  | 1 => dec3 w .sub
  | 2 => dec3 w .and
  | 3 => dec3 w .or
  | 4 => dec3 w .xor
  | 5 => dec3 w .andn
  | 6 => dec3 w .orn
  | 7 => dec3 w .sll
  | 8 => dec3 w .srl
  | 9 => dec3 w .sra
  | 10 => dec3 w .slt
  | 11 => dec3 w .sltu
  | 12 => dec3 w .min
  | 13 => dec3 w .max
  | 14 => dec3 w .minu
  | 15 => dec3 w .maxu
  | 16 => dec3 w .addsat
  | 17 => dec3 w .subsat
  | 18 => dec3 w .selnz
  | _ => none

/-- OPI, R47 major 0x01. -/
def decOpiMajor (w : BitVec 32) : Option Instr :=
  match (selI w).toNat with
  | 0 => some (.addi (iop w))
  | 1 => some (.andi (iop w))
  | 2 => some (.ori (iop w))
  | 3 => some (.xori (iop w))
  | 4 => some (.slti (iop w))
  | 5 => some (.sltiu (iop w))
  | 6 => decShift w
  | _ => none

/-- OPW, R47 major 0x02. -/
def decOpwMajor (w : BitVec 32) : Option Instr :=
  match (selR w).toNat with
  | 0 => dec3 w .addw
  | 1 => dec3 w .subw
  | 2 => dec3 w .sllw
  | 3 => dec3 w .srlw
  | 4 => dec3 w .sraw
  | 5 => dec3 w .mulw
  | _ => none

/-- OPIW, R47 major 0x03. -/
def decOpiwMajor (w : BitVec 32) : Option Instr :=
  match (selI w).toNat with
  | 0 => some (.addiw (iop w))
  | 1 => decShiftw w
  | _ => none

/-- MULDIV, R47 major 0x06. -/
def decMuldivMajor (w : BitVec 32) : Option Instr :=
  match (selR w).toNat with
  | 0 => dec3 w .mul
  | 1 => dec3 w .mulh
  | 2 => dec3 w .mulhu
  | 3 => dec3 w .mulhsu
  | 4 => dec3 w .div
  | 5 => dec3 w .divu
  | 6 => dec3 w .rem
  | 7 => dec3 w .remu
  | _ => none

/-- BIT, R47 major 0x07. -/
def decBitMajor (w : BitVec 32) : Option Instr :=
  match (selR w).toNat with
  | 0 => dec2 w .clz
  | 1 => dec2 w .ctz
  | 2 => dec2 w .popc
  | 3 => dec2 w .rev8
  | 4 => dec2 w .brev
  | 5 => dec3 w .extu
  | 6 => dec3 w .exts
  | 7 => dec3 w .ins
  | 8 => dec3 w .rol
  | 9 => dec3 w .ror
  | _ => none

/-- LDL, R47 major 0x08. -/
def decLdlMajor (w : BitVec 32) : Option Instr :=
  match (selI w).toNat with
  | 0 => some (.ldB (iop w))
  | 1 => some (.ldBu (iop w))
  | 2 => some (.ldH (iop w))
  | 3 => some (.ldHu (iop w))
  | 4 => some (.ldW (iop w))
  | 5 => some (.ldWu (iop w))
  | 6 => some (.ldD (iop w))
  | _ => none

/-- STL, R47 major 0x09. -/
def decStlMajor (w : BitVec 32) : Option Instr :=
  match (selS w).toNat with
  | 0 => some (.stB (sop w))
  | 1 => some (.stH (sop w))
  | 2 => some (.stW (sop w))
  | 3 => some (.stD (sop w))
  | _ => none

/-- MSG, R47 major 0x0A. -/
def decMsgMajor (w : BitVec 32) : Option Instr :=
  match (selR w).toNat with
  | 0 => decS2 w .msgD
  | 1 => decS2 w .msgW
  | 2 => decS2 w .msgB
  | 3 => decMsgN w
  | 4 => decS1 w .msgEv
  | _ => none

/-- ATOM, R47 major 0x0B. -/
def decAtomMajor (w : BitVec 32) : Option Instr :=
  match (selR w).toNat with
  | 0 => decAtom w .amoadd
  | 1 => decAtom w .amomin
  | 2 => decAtom w .amomax
  | 3 => decAtom w .amominu
  | 4 => decAtom w .amomaxu
  | 5 => decAtom w .amoand
  | 6 => decAtom w .amoor
  | 7 => decAtom w .amoxor
  | 8 => decAtom w .amoswap
  | 9 => decAtom w .amocas
  | 10 => decAtom w .amofadd
  | _ => none

/-- LOGA, R47 major 0x0C. -/
def decLogaMajor (w : BitVec 32) : Option Instr :=
  match (selR w).toNat with
  | 0 => decLog w .logAdd
  | 1 => decLog w .logMin
  | 2 => decLog w .logMax
  | 3 => decLog w .logOr
  | 4 => decLog w .logFadd
  | 5 => dec0 w .logMerge
  | _ => none

/-- FENCE, R47 major 0x0D. -/
def decFenceMajor (w : BitVec 32) : Option Instr :=
  match (selR w).toNat with
  | 0 => decFence w
  | 1 => decFenceX w
  | 2 => dec0 w .fenceI
  | _ => none

/-- WAIT, R47 major 0x0E. -/
def decWaitMajor (w : BitVec 32) : Option Instr :=
  match (selR w).toNat with
  | 0 => dec3 w .waita
  | 1 => decWaitseq w
  | 2 => dec2 w .waitbo
  | _ => none

/-- TIME, R47 major 0x0F. -/
def decTimeMajor (w : BitVec 32) : Option Instr :=
  match (selR w).toNat with
  | 0 => decD w .time
  | 1 => decD w .cycle
  | 2 => decS1 w .sleepu
  | 3 => decD w .realign
  | _ => none

/-- BR, R47 major 0x10. -/
def decBrMajor (w : BitVec 32) : Option Instr :=
  match (selB w).toNat with
  | 0 => some (.beq (bop w))
  | 1 => some (.bne (bop w))
  | 2 => some (.blt (bop w))
  | 3 => some (.bge (bop w))
  | 4 => some (.bltu (bop w))
  | 5 => some (.bgeu (bop w))
  | _ => none

/-- JALR, R47 major 0x12. -/
def decJalrMajor (w : BitVec 32) : Option Instr :=
  match (selI w).toNat with
  | 0 => some (.jalr (iop w))
  | _ => none

/-- LOOP, R47 major 0x13. -/
def decLoopMajor (w : BitVec 32) : Option Instr :=
  match (selI w).toNat with
  | 0 => decLoopS w
  | 1 => decLoopSi w
  | 2 => decLoopX w
  | _ => none

/-- REGION, R47 major 0x14. -/
def decRegionMajor (w : BitVec 32) : Option Instr :=
  match (selI w).toNat with
  | 0 => decI0 w .rgnOpen
  | 1 => decI0 w .rgnCommit
  | 2 => decRgnLimit w
  | 3 => decI0 w .rgnAbort
  | 4 => decID w .rgnQuery
  | 5 => decID w .snap
  | _ => none

/-- SYS, R47 major 0x15. -/
def decSysMajor (w : BitVec 32) : Option Instr :=
  match (selR w).toNat with
  | 0 => dec0 w .ecall
  | 1 => dec0 w .ebreak
  | 2 => decS1 w .trap
  | 3 => dec0 w .eret
  | 4 => decSysr w
  | 5 => decSysw w .sysw
  | 6 => decSysw w .sysset
  | 7 => decSysw w .sysclr
  | 8 => dec0 w .halt
  | 9 => decS1 w .inject
  | _ => none

/-- GROUP, R47 major 0x16. -/
def decGroupMajor (w : BitVec 32) : Option Instr :=
  match (selR w).toNat with
  | 0 => dec2 w .grpid
  | 1 => dec2 w .grpsz
  | 2 => dec2 w .gbar
  | 3 => dec2 w .garrive
  | 4 => dec3 w .gwaitb
  | 5 => dec0 w .follow
  | 6 => dec0 w .unfollow
  | 7 => dec2 w .lcore
  | _ => none

/-- LALU, R47 major 0x18. -/
def decLaluMajor (w : BitVec 32) : Option Instr :=
  match (selL w).toNat with
  | 0 => some (.vadd (l3 w))
  | 1 => some (.vsub (l3 w))
  | 2 => some (.vaddsat (l3 w))
  | 3 => some (.vsubsat (l3 w))
  | 4 => some (.vmin (l3 w))
  | 5 => some (.vmax (l3 w))
  | 6 => some (.vminu (l3 w))
  | 7 => some (.vmaxu (l3 w))
  | 8 => some (.vand (l3 w))
  | 9 => some (.vor (l3 w))
  | 10 => some (.vxor (l3 w))
  | 11 => some (.vsll (l3 w))
  | 12 => some (.vsrl (l3 w))
  | 13 => some (.vsra (l3 w))
  | 14 => some (.vmul (l3 w))
  | 15 => some (.vmulh (l3 w))
  | 16 => decLCmp w .vcmpeq
  | 17 => decLCmp w .vcmplt
  | 18 => decLCmp w .vcmpltu
  | 19 => some (.vsel (l3 w))
  | 20 => decL2 w .vmov
  | 21 => decL2 w .vbcast
  | 22 => some (.vextr (l3 w))
  | 23 => some (.vins (l3 w))
  | _ => none

/-- LFP, R47 major 0x19. -/
def decLfpMajor (w : BitVec 32) : Option Instr :=
  match (selL w).toNat with
  | 0 => some (.vfadd (l3 w))
  | 1 => some (.vfsub (l3 w))
  | 2 => some (.vfmul (l3 w))
  | 3 => some (.vfma (l3 w))
  | 4 => some (.vfms (l3 w))
  | 5 => some (.vfnma (l3 w))
  | 6 => some (.vfmin (l3 w))
  | 7 => some (.vfmax (l3 w))
  | 8 => decL2 w .vfabs
  | 9 => decL2 w .vfneg
  | 10 => decLCmp w .vfcmpeq
  | 11 => decLCmp w .vfcmplt
  | 12 => decLCmp w .vfcmple
  | 13 => decL2 w .vfclass
  | _ => none

/-- LCVT, R47 major 0x1A. -/
def decLcvtMajor (w : BitVec 32) : Option Instr :=
  match (selL w).toNat with
  | 0 => decLCvt w (fun f _ => cvtnOk f) .vcvtn
  | 1 => decLCvt w cvtwOk .vcvtw
  | 2 => decLCvt w (fun f _ => cvtsrOk f) .vcvtsr
  | 3 => decL2 w .vcvti
  | 4 => decL2 w .vcvtf
  | 5 => decLCvt w (fun f _ => blockOk f) .vqscale
  | 6 => decLCvt w (fun f _ => blockOk f) .vquant
  | 7 => decLCvt w (fun f _ => blockOk f) .vdeq
  | _ => none

/-- LRED, R47 major 0x1B. -/
def decLredMajor (w : BitVec 32) : Option Instr :=
  match (selL w).toNat with
  | 0 => decL2 w .vredadd
  | 1 => decL2 w .vredmax
  | 2 => decL2 w .vredmin
  | 3 => decL2 w .vfredadd
  | 4 => decL2 w .vfredmax
  | 5 => some (.vperm (l3 w))
  | 6 => some (.vrot (l3 w))
  | 7 => some (.vslide (l3 w))
  | _ => none

/-- LSFU, R47 major 0x1C. -/
def decLsfuMajor (w : BitVec 32) : Option Instr :=
  match (selL w).toNat with
  | 0 => decLSfu w .vexp2
  | 1 => decLSfu w .vlog2
  | 2 => decLSfu w .vrcp
  | 3 => decLSfu w .vrsqrt
  | 4 => decLSfu w .vsigm
  | 5 => decLSfu w .vtanh
  | 6 => decLSfu w .verf
  | _ => none

/-- LMASK, R47 major 0x1D. -/
def decLmaskMajor (w : BitVec 32) : Option Instr :=
  match (selL w).toNat with
  | 0 => decK3 w .kand
  | 1 => decK3 w .kor
  | 2 => decK3 w .kxor
  | 3 => decK2 w .knot
  | 4 => decK3 w .kmovx
  | 5 => decK2 w .kmovk
  | 6 => decK2 w .kpopc
  | 7 => decK2 w .kfirst
  | _ => none

/-- LSTRM, R47 major 0x1E. -/
def decLstrmMajor (w : BitVec 32) : Option Instr :=
  match (selL w).toNat with
  | 0 => decStrm w .strmBind
  | 1 => decStrmCfg w
  | 2 => decStrm w .strmFree
  | 3 => decStrmStat w
  | _ => none

/-- LMEM, R47 major 0x1F. -/
def decLmemMajor (w : BitVec 32) : Option Instr :=
  match (selL w).toNat with
  | 0 => some (.vld (lmem w))
  | 1 => some (.vst (lmem w))
  | 2 => some (.vlds (lmem w))
  | 3 => some (.vsts (lmem w))
  | 4 => some (.vldg (lmemG w))
  | 5 => some (.vstsc (lmemG w))
  | 6 => some (.vldb (lmem w))
  | 7 => decVldacc w
  | _ => none

/-- MMA, R47 major 0x20. -/
def decMmaMajor (w : BitVec 32) : Option Instr :=
  match (selR w).toNat with
  | 0 => dec3 w .mma
  | 1 => dec3 w .mmaz
  | 2 => decMmaq w
  | _ => none

/-- RING, R47 major 0x21. -/
def decRingMajor (w : BitVec 32) : Option Instr :=
  match (selR w).toNat with
  | 0 => decRing2 w .ringset
  | 1 => decRing1 w .ringpush
  | 2 => decRing1 w .ringpop
  | 3 => decRingstat w
  | 4 => decRingclr w
  | _ => none

/-- TID, R47 major 0x22. -/
def decTidMajor (w : BitVec 32) : Option Instr :=
  match (selR w).toNat with
  | 0 => decS2 w .tiddef
  | 1 => dec3 w .tidget
  | 2 => decS2 w .tidswap
  | 3 => decS1 w .tidinv
  | _ => none

/-- TNET, R47 major 0x23. -/
def decTnetMajor (w : BitVec 32) : Option Instr :=
  match (selR w).toNat with
  | 0 => decS2 w .tsend
  | 1 => decS2 w .tslotcfg
  | 2 => decD w .tslotq
  | _ => none

/-- ECMD, R48; ENG 6 is no kernel command (R27) and any other ENG is no instruction (R52). -/
def decEcmdMajor (w : BitVec 32) : Option Instr :=
  match (engE w).toNat, (selE w).toNat with
  | 2, 0 => decE3 w .copyin
  | 2, 1 => decE3 w .copyout
  | 2, 2 => decE3 w .gather
  | 2, 3 => decE3 w .mcast
  | 2, 4 => decE3 w .copyloc
  | 3, 0 => decE3 w .shfItin
  | 3, 1 => decE3 w .shfRead
  | 3, 2 => decE2 w .shfTake
  | 3, 3 => decE2 w .shfRel
  | 3, 4 => decE3 w .shfHold
  | 3, 5 => decE2 w .shfStat
  | 3, 6 => decE2 w .shfReread
  | 4, 0 => decE2 w .scnCfg
  | 4, 1 => decE2 w .scnRun
  | 4, 2 => decE2 w .scnRed
  | 4, 3 => decE2 w .scnApply
  | 4, 4 => decED w .scnClose
  | 4, 5 => decED w .scnStat
  | 5, 0 => decE2 w .cagrp
  | 5, 1 => decE2 w .cldred
  | 5, 2 => decE2 w .cstred
  | 5, 3 => decE3 w .cgraph
  | 5, 4 => decE3 w .crun
  | 5, 5 => decE2 w .cabort
  | 8, 0 => decE3 w .boset
  | 8, 1 => decE3 w .boq
  | 9, 0 => decE3 w .trcEmit
  | 9, 1 => decE3 w .trcCfg
  | 6, _ => some (.ctxEcmd w)
  | _, _ => none

/-- The 32-bit instruction of a word with bit 0 set, R37, R47; `none` is R52. -/
def decode32 (w : BitVec 32) : Option Instr :=
  match (majW w).toNat with
  | 0 => decOpMajor w
  | 1 => decOpiMajor w
  | 2 => decOpwMajor w
  | 3 => decOpiwMajor w
  | 4 => some (.lui (uop w))
  | 5 => some (.auipc (uop w))
  | 6 => decMuldivMajor w
  | 7 => decBitMajor w
  | 8 => decLdlMajor w
  | 9 => decStlMajor w
  | 10 => decMsgMajor w
  | 11 => decAtomMajor w
  | 12 => decLogaMajor w
  | 13 => decFenceMajor w
  | 14 => decWaitMajor w
  | 15 => decTimeMajor w
  | 16 => decBrMajor w
  | 17 => some (.jal (uop w))
  | 18 => decJalrMajor w
  | 19 => decLoopMajor w
  | 20 => decRegionMajor w
  | 21 => decSysMajor w
  | 22 => decGroupMajor w
  | 23 => decEcmdMajor w
  | 24 => decLaluMajor w
  | 25 => decLfpMajor w
  | 26 => decLcvtMajor w
  | 27 => decLredMajor w
  | 28 => decLsfuMajor w
  | 29 => decLmaskMajor w
  | 30 => decLstrmMajor w
  | 31 => decLmemMajor w
  | 32 => decMmaMajor w
  | 33 => decRingMajor w
  | 34 => decTidMajor w
  | 35 => decTnetMajor w
  | _ => none

/-- The CL instructions, R40; the halfword 0 is none (R39). -/
def decodeCl (h : BitVec 16) : Option Instr :=
  if h = 0 then none else
  match (selCL h).toNat with
  | 0 => some (.clVadd (clop h))
  | 1 => some (.clVsub (clop h))
  | 2 => some (.clVmax (clop h))
  | 3 => some (.clVmin (clop h))
  | 4 => if (clop h).sz then none else some (.clVand (clop h))
  | 5 => if (clop h).sz then none else some (.clVor (clop h))
  | 6 => if (clop h).sz then none else some (.clVxor (clop h))
  | 7 => if (clop h).sz then none else some (.clVmov (clop h))
  | 8 => some (.clVfadd (clop h))
  | 9 => some (.clVfsub (clop h))
  | 10 => some (.clVfmul (clop h))
  | 11 => some (.clVfmax (clop h))
  | 12 => some (.clVfmin (clop h))
  | 13 => some (.clVfmacv (clop h))
  | 14 => some (.vabs (clop h))
  | 15 => some (.clVfabs (clop h))
  | _ => none

/-- The CS instructions, R41. -/
def decodeCs (h : BitVec 16) : Option Instr :=
  match (selCS h).toNat with
  | 0 => some (.cAddi (dC h) (immC h))
  | 1 => if h.getLsbD 15 then none else some (.cMv (dC h) (aC h))
  | 2 => some (.cLi (dC h) (immC h))
  | 3 => some (.cLdl (dC h) (immC h))
  | 4 => some (.cStl (dC h) (immC h))
  | 5 => some (.cBeqz (dC h) (immC h))
  | 6 => some (.cBnez (dC h) (immC h))
  | 7 => if dC h = 0 ∧ immC h = 0 then some .cRgn else none
  | _ => none


/-- The 16-bit instruction of a halfword with bit 0 clear, R39. -/
def decode16 (h : BitVec 16) : Option Instr := if h.getLsbD 1 then decodeCs h else decodeCl h

/-- The code at the head of the bytes, R35: its length is in bit 0. -/
def fetchCode (bs : List Byte) : Option (Code × List Byte) :=
  match bs with
  | b0 :: b1 :: rest =>
    if b0.getLsbD 0 then
      match rest with
      | b2 :: b3 :: rest => some (.word (b3 ++ b2 ++ b1 ++ b0), rest)
      | _ => none
    else some (.half (b1 ++ b0), rest)
  | _ => none

/-- The instruction of a code, R52, R53: an illegal one answers its word, or its halfword zero-extended. -/
def decodeCode (c : Code) : Except DecodeError Instr :=
  match c with
  | .half h => match decode16 h with
    | some i => .ok i
    | none => .error (.illegal (h.setWidth 32))
  | .word w => match (if w.getLsbD 0 then decode32 w else none) with
    | some i => .ok i
    | none => .error (.illegal w)

/-- The length in bytes of a code. -/
def Code.size : Code → Nat
  | .half _ => 2
  | .word _ => 4

/-- The bytes of a code, the first halfword at the lower address, little-endian. -/
def Code.bytes : Code → List Byte
  | .half h => [h.extractLsb' 0 8, h.extractLsb' 8 8]
  | .word w => [w.extractLsb' 0 8, w.extractLsb' 8 8, w.extractLsb' 16 8, w.extractLsb' 24 8]

/-- The instruction at the head of the bytes, and the bytes after it. -/
def decode (bs : List Byte) : Except DecodeError (Instr × List Byte) :=
  match fetchCode bs with
  | none => .error .outsideText
  | some (c, rest) => match decodeCode c with
    | .ok i => .ok (i, rest)
    | .error e => .error e

/-- The bytes of the low `n` bytes of a number, least significant first. -/
def numBytes : Nat → Nat → List Byte
  | 0, _ => []
  | n + 1, w => BitVec.ofNat 8 w :: numBytes n (w / 256)

/-- The bytes that spec/opcode_table.json's bit numbering gives an instruction of `nbits` bits, zeros up to four bytes. -/
def tableBytes (nbits w : Nat) : List Byte := numBytes 4 (w % 2 ^ nbits)

/-- The instruction the decoder reads from the bits the table numbers. -/
def decodeTableWord (nbits w : Nat) : Option Instr :=
  match decode (tableBytes nbits w) with
  | .ok (i, _) => some i
  | .error _ => none

/-! ### The encoder -/

/-- R format. -/
def encR (maj : BitVec 6) (sel : BitVec 5) (m3 : BitVec 3) (lb la : Bool) (b a d : XReg) : BitVec 32 :=
  sel ++ m3 ++ BitVec.ofBool lb ++ BitVec.ofBool la ++ BitVec.ofFin (w := 5) b ++ BitVec.ofFin (w := 5) a ++
    BitVec.ofFin (w := 5) d ++ maj ++ 1#1
/-- E format. -/
def encE (sel eng : BitVec 4) (lb la : Bool) (b a d : XReg) : BitVec 32 :=
  sel ++ eng ++ BitVec.ofBool lb ++ BitVec.ofBool la ++ BitVec.ofFin (w := 5) b ++ BitVec.ofFin (w := 5) a ++
    BitVec.ofFin (w := 5) d ++ 0x17#6 ++ 1#1
/-- I format. -/
def encI (maj : BitVec 6) (sel : BitVec 3) (imm : BitVec 11) (la : Bool) (a d : XReg) : BitVec 32 :=
  imm ++ sel ++ BitVec.ofBool la ++ BitVec.ofFin (w := 5) a ++ BitVec.ofFin (w := 5) d ++ maj ++ 1#1
/-- S format. -/
def encS (sel : BitVec 2) (r : SOp) : BitVec 32 :=
  r.imm.extractLsb' 5 6 ++ sel ++ BitVec.ofBool r.lb ++ BitVec.ofBool r.la ++ BitVec.ofFin (w := 5) r.b ++
    BitVec.ofFin (w := 5) r.a ++ r.imm.extractLsb' 0 5 ++ 0x09#6 ++ 1#1
/-- B format. -/
def encB (sel : BitVec 3) (r : BOp) : BitVec 32 :=
  r.off.extractLsb' 5 5 ++ sel ++ BitVec.ofBool r.lb ++ BitVec.ofBool r.la ++ BitVec.ofFin (w := 5) r.b ++
    BitVec.ofFin (w := 5) r.a ++ r.off.extractLsb' 0 5 ++ 0x10#6 ++ 1#1
/-- U and J formats. -/
def encU (maj : BitVec 6) (r : UOp) : BitVec 32 := r.imm ++ BitVec.ofFin (w := 5) r.d ++ maj ++ 1#1
/-- L format. -/
def encL (maj sel : BitVec 6) (es : Fin 4) (km : KReg) (lb la : Bool) (vb va vd : VReg) : BitVec 32 :=
  sel ++ BitVec.ofFin (w := 2) es ++ BitVec.ofFin (w := 3) km ++ BitVec.ofBool lb ++ BitVec.ofBool la ++
    BitVec.ofFin (w := 4) vb ++ BitVec.ofFin (w := 4) va ++ BitVec.ofFin (w := 4) vd ++ maj ++ 1#1
/-- CL format. -/
def encCl (sel : BitVec 4) (r : ClOp) : BitVec 16 :=
  BitVec.ofBool r.sz ++ BitVec.ofBool r.ls ++ BitVec.ofFin (w := 4) r.vs ++ BitVec.ofFin (w := 4) r.vd ++ sel ++ 0#2
/-- CS format. -/
def encCs (sel : BitVec 3) (imm : BitVec 6) (d : XReg) : BitVec 16 :=
  imm ++ BitVec.ofFin (w := 5) d ++ sel ++ 2#2

/-- A mask register in a 4-bit field. -/
def kv (k : KReg) : VReg := ⟨k.val, by omega⟩
/-- A constant below 2 in a 5-bit field. -/
def low2 (i : Fin 2) : XReg := ⟨i.val, by omega⟩
/-- A constant below 4 in a 4-bit field. -/
def low4 (i : Fin 4) : VReg := ⟨i.val, by omega⟩
/-- A constant below 8 in a 5-bit field. -/
def low8 (i : Fin 8) : XReg := ⟨i.val, by omega⟩
/-- A 3-bit constant in a 5-bit field. -/
def ix5 (b : BitVec 3) : XReg := (b.setWidth 5).toFin
/-- The d field of MSG.N. -/
def msgNCode (w : SubWidth) (pos : Fin 8) : XReg :=
  (match w with | .four => 0#2 | .two => 1#2 | .one => 2#2) ++ BitVec.ofFin (w := 3) pos |>.toFin
/-- The code of a scope. -/
def scopeCode (s : Scope) : XReg :=
  match s with
  | .core => 0 | .gang => 1 | .cluster => 2 | .group => 3 | .die => 4 | .device => 5 | .package => 6 | .peer => 7
  | .domain => 8 | .host => 9 | .io => 10 | .system => 11
/-- The number of a path. -/
def pathCode (p : Path) : XReg :=
  match p with
  | .core => 0 | .mma => 1 | .copy => 2 | .sheaf => 3 | .scan => 4 | .coll => 5 | .ctx => 6 | .host => 7 | .bobj => 8
  | .trace => 9
/-- The number of a class. -/
def classCode (p : EngClass) : XReg :=
  match p with
  | .mma => 1 | .copy => 2 | .sheaf => 3 | .scan => 4 | .coll => 5
/-- The code of a lane format. -/
def fmtCode (f : LaneFmt) : VReg :=
  match f with
  | .fp4 => 0 | .fp6a => 1 | .fp6b => 2 | .fp8a => 3 | .fp8b => 4 | .int4 => 5 | .uint4 => 6 | .int8 => 7 | .uint8 => 8
  | .int16 => 9 | .fp16 => 10 | .bf16 => 11 | .sc8 => 12 | .bfp8 => 13 | .bfp4 => 14
/-- The number of a system register, R329. -/
def sysCode (n : SysReg) : BitVec 8 :=
  match n with
  | .status => 0x00 | .fflags => 0x01 | .cause => 0x02 | .tval => 0x03 | .epc => 0x04 | .trapvec => 0x05
  | .regpc => 0x06 | .regcnt => 0x07 | .reglim => 0x08 | .livex => 0x09 | .livev => 0x0A | .gridmap => 0x0B
  | .lc i => 0x10 + BitVec.ofNat 8 i.val
  | .ls i => 0x12 + BitVec.ofNat 8 i.val
  | .le i => 0x14 + BitVec.ofNat 8 i.val
  | .eseq p => 0x18 + BitVec.ofNat 8 (classCode p).val
  | .seed i => 0x20 + BitVec.ofNat 8 i.val
  | .ringhead i => 0x30 + BitVec.ofNat 8 i.val
  | .ringtail i => 0x38 + BitVec.ofNat 8 i.val
/-- Bits 7:5 of the number, which m3 carries. -/
def sysHi (n : SysReg) : BitVec 3 := (sysCode n).extractLsb' 5 3
/-- Bits 4:0 of the number, which b carries. -/
def sysLo (n : SysReg) : XReg := ((sysCode n).extractLsb' 0 5).toFin

/-- The encoding of an instruction, R37 to R50; `none` for an event, which has no bits. -/
def encode (i : Instr) : Option Code :=
  match i with
  | .add r => some (.word (encR 0 0 0 r.lb r.la r.b r.a r.d))
  | .sub r => some (.word (encR 0 1 0 r.lb r.la r.b r.a r.d))
  | .and r => some (.word (encR 0 2 0 r.lb r.la r.b r.a r.d))
  | .or r => some (.word (encR 0 3 0 r.lb r.la r.b r.a r.d))
  | .xor r => some (.word (encR 0 4 0 r.lb r.la r.b r.a r.d))
  | .andn r => some (.word (encR 0 5 0 r.lb r.la r.b r.a r.d))
  | .orn r => some (.word (encR 0 6 0 r.lb r.la r.b r.a r.d))
  | .sll r => some (.word (encR 0 7 0 r.lb r.la r.b r.a r.d))
  | .srl r => some (.word (encR 0 8 0 r.lb r.la r.b r.a r.d))
  | .sra r => some (.word (encR 0 9 0 r.lb r.la r.b r.a r.d))
  | .slt r => some (.word (encR 0 10 0 r.lb r.la r.b r.a r.d))
  | .sltu r => some (.word (encR 0 11 0 r.lb r.la r.b r.a r.d))
  | .min r => some (.word (encR 0 12 0 r.lb r.la r.b r.a r.d))
  | .max r => some (.word (encR 0 13 0 r.lb r.la r.b r.a r.d))
  | .minu r => some (.word (encR 0 14 0 r.lb r.la r.b r.a r.d))
  | .maxu r => some (.word (encR 0 15 0 r.lb r.la r.b r.a r.d))
  | .addsat r => some (.word (encR 0 16 0 r.lb r.la r.b r.a r.d))
  | .subsat r => some (.word (encR 0 17 0 r.lb r.la r.b r.a r.d))
  | .selnz r => some (.word (encR 0 18 0 r.lb r.la r.b r.a r.d))
  | .addi r => some (.word (encI 1 0 r.imm r.la r.a r.d))
  | .andi r => some (.word (encI 1 1 r.imm r.la r.a r.d))
  | .ori r => some (.word (encI 1 2 r.imm r.la r.a r.d))
  | .xori r => some (.word (encI 1 3 r.imm r.la r.a r.d))
  | .slti r => some (.word (encI 1 4 r.imm r.la r.a r.d))
  | .sltiu r => some (.word (encI 1 5 r.imm r.la r.a r.d))
  | .slli r => some (.word (encI 1 6 ((0 : BitVec 5) ++ r.sh) r.la r.a r.d))
  | .srli r => some (.word (encI 1 6 ((1 : BitVec 5) ++ r.sh) r.la r.a r.d))
  | .srai r => some (.word (encI 1 6 ((2 : BitVec 5) ++ r.sh) r.la r.a r.d))
  | .addw r => some (.word (encR 2 0 0 r.lb r.la r.b r.a r.d))
  | .subw r => some (.word (encR 2 1 0 r.lb r.la r.b r.a r.d))
  | .sllw r => some (.word (encR 2 2 0 r.lb r.la r.b r.a r.d))
  | .srlw r => some (.word (encR 2 3 0 r.lb r.la r.b r.a r.d))
  | .sraw r => some (.word (encR 2 4 0 r.lb r.la r.b r.a r.d))
  | .mulw r => some (.word (encR 2 5 0 r.lb r.la r.b r.a r.d))
  | .addiw r => some (.word (encI 3 0 r.imm r.la r.a r.d))
  | .slliw r => some (.word (encI 3 1 ((0 : BitVec 6) ++ r.sh) r.la r.a r.d))
  | .srliw r => some (.word (encI 3 1 ((2 : BitVec 6) ++ r.sh) r.la r.a r.d))
  | .sraiw r => some (.word (encI 3 1 ((4 : BitVec 6) ++ r.sh) r.la r.a r.d))
  | .lui r => some (.word (encU 4 r))
  | .auipc r => some (.word (encU 5 r))
  | .mul r => some (.word (encR 6 0 0 r.lb r.la r.b r.a r.d))
  | .mulh r => some (.word (encR 6 1 0 r.lb r.la r.b r.a r.d))
  | .mulhu r => some (.word (encR 6 2 0 r.lb r.la r.b r.a r.d))
  | .mulhsu r => some (.word (encR 6 3 0 r.lb r.la r.b r.a r.d))
  | .div r => some (.word (encR 6 4 0 r.lb r.la r.b r.a r.d))
  | .divu r => some (.word (encR 6 5 0 r.lb r.la r.b r.a r.d))
  | .rem r => some (.word (encR 6 6 0 r.lb r.la r.b r.a r.d))
  | .remu r => some (.word (encR 6 7 0 r.lb r.la r.b r.a r.d))
  | .clz r => some (.word (encR 7 0 0 false r.la 0 r.a r.d))
  | .ctz r => some (.word (encR 7 1 0 false r.la 0 r.a r.d))
  | .popc r => some (.word (encR 7 2 0 false r.la 0 r.a r.d))
  | .rev8 r => some (.word (encR 7 3 0 false r.la 0 r.a r.d))
  | .brev r => some (.word (encR 7 4 0 false r.la 0 r.a r.d))
  | .extu r => some (.word (encR 7 5 0 r.lb r.la r.b r.a r.d))
  | .exts r => some (.word (encR 7 6 0 r.lb r.la r.b r.a r.d))
  | .ins r => some (.word (encR 7 7 0 r.lb r.la r.b r.a r.d))
  | .rol r => some (.word (encR 7 8 0 r.lb r.la r.b r.a r.d))
  | .ror r => some (.word (encR 7 9 0 r.lb r.la r.b r.a r.d))
  | .ldB r => some (.word (encI 8 0 r.imm r.la r.a r.d))
  | .ldBu r => some (.word (encI 8 1 r.imm r.la r.a r.d))
  | .ldH r => some (.word (encI 8 2 r.imm r.la r.a r.d))
  | .ldHu r => some (.word (encI 8 3 r.imm r.la r.a r.d))
  | .ldW r => some (.word (encI 8 4 r.imm r.la r.a r.d))
  | .ldWu r => some (.word (encI 8 5 r.imm r.la r.a r.d))
  | .ldD r => some (.word (encI 8 6 r.imm r.la r.a r.d))
  | .stB r => some (.word (encS 0 r))
  | .stH r => some (.word (encS 1 r))
  | .stW r => some (.word (encS 2 r))
  | .stD r => some (.word (encS 3 r))
  | .msgD r => some (.word (encR 10 0 0 r.lb r.la r.b r.a 0))
  | .msgW r => some (.word (encR 10 1 0 r.lb r.la r.b r.a 0))
  | .msgB r => some (.word (encR 10 2 0 r.lb r.la r.b r.a 0))
  | .msgN r w pos => some (.word (encR 10 3 0 r.lb r.la r.b r.a (msgNCode w pos)))
  | .msgEv r => some (.word (encR 10 4 0 false r.la 0 r.a 0))
  | .amoadd wide r => some (.word (encR 11 0 (if wide then 1 else 0) r.lb r.la r.b r.a r.d))
  | .amomin wide r => some (.word (encR 11 1 (if wide then 1 else 0) r.lb r.la r.b r.a r.d))
  | .amomax wide r => some (.word (encR 11 2 (if wide then 1 else 0) r.lb r.la r.b r.a r.d))
  | .amominu wide r => some (.word (encR 11 3 (if wide then 1 else 0) r.lb r.la r.b r.a r.d))
  | .amomaxu wide r => some (.word (encR 11 4 (if wide then 1 else 0) r.lb r.la r.b r.a r.d))
  | .amoand wide r => some (.word (encR 11 5 (if wide then 1 else 0) r.lb r.la r.b r.a r.d))
  | .amoor wide r => some (.word (encR 11 6 (if wide then 1 else 0) r.lb r.la r.b r.a r.d))
  | .amoxor wide r => some (.word (encR 11 7 (if wide then 1 else 0) r.lb r.la r.b r.a r.d))
  | .amoswap wide r => some (.word (encR 11 8 (if wide then 1 else 0) r.lb r.la r.b r.a r.d))
  | .amocas wide r => some (.word (encR 11 9 (if wide then 1 else 0) r.lb r.la r.b r.a r.d))
  | .amofadd wide r => some (.word (encR 11 10 (if wide then 1 else 0) r.lb r.la r.b r.a r.d))
  | .logAdd narrow r => some (.word (encR 12 0 0 r.lb r.la r.b r.a (if narrow then 1 else 0)))
  | .logMin narrow r => some (.word (encR 12 1 0 r.lb r.la r.b r.a (if narrow then 1 else 0)))
  | .logMax narrow r => some (.word (encR 12 2 0 r.lb r.la r.b r.a (if narrow then 1 else 0)))
  | .logOr narrow r => some (.word (encR 12 3 0 r.lb r.la r.b r.a (if narrow then 1 else 0)))
  | .logFadd narrow r => some (.word (encR 12 4 0 r.lb r.la r.b r.a (if narrow then 1 else 0)))
  | .logMerge => some (.word (encR 12 5 0 false false 0 0 0))
  | .fence sc pred succ => some (.word (encR 13 0 0 false false (ix5 succ) (ix5 pred) (scopeCode sc)))
  | .fenceX sc p c => some (.word (encR 13 1 0 false false (pathCode c) (pathCode p) (scopeCode sc)))
  | .fenceI => some (.word (encR 13 2 0 false false 0 0 0))
  | .waita r => some (.word (encR 14 0 0 r.lb r.la r.b r.a r.d))
  | .waitseq p r => some (.word (encR 14 1 0 false r.la 0 r.a (classCode p)))
  | .waitbo r => some (.word (encR 14 2 0 false r.la 0 r.a r.d))
  | .time d => some (.word (encR 15 0 0 false false 0 0 d))
  | .cycle d => some (.word (encR 15 1 0 false false 0 0 d))
  | .sleepu r => some (.word (encR 15 2 0 false r.la 0 r.a 0))
  | .realign d => some (.word (encR 15 3 0 false false 0 0 d))
  | .beq r => some (.word (encB 0 r))
  | .bne r => some (.word (encB 1 r))
  | .blt r => some (.word (encB 2 r))
  | .bge r => some (.word (encB 3 r))
  | .bltu r => some (.word (encB 4 r))
  | .bgeu r => some (.word (encB 5 r))
  | .jal r => some (.word (encU 17 r))
  | .jalr r => some (.word (encI 18 0 r.imm r.la r.a r.d))
  | .loopS i r imm => some (.word (encI 19 0 imm r.la r.a (low2 i)))
  | .loopSi i n imm => some (.word (encI 19 1 imm false n.toFin (low2 i)))
  | .loopX i => some (.word (encI 19 2 0 false 0 (low2 i)))
  | .rgnOpen => some (.word (encI 20 0 0 false 0 0))
  | .rgnCommit => some (.word (encI 20 1 0 false 0 0))
  | .rgnLimit n => some (.word (encI 20 2 ((0 : BitVec 3) ++ n) false 0 0))
  | .rgnAbort => some (.word (encI 20 3 0 false 0 0))
  | .rgnQuery d => some (.word (encI 20 4 0 false 0 d))
  | .snap d => some (.word (encI 20 5 0 false 0 d))
  | .ecall => some (.word (encR 21 0 0 false false 0 0 0))
  | .ebreak => some (.word (encR 21 1 0 false false 0 0 0))
  | .trap r => some (.word (encR 21 2 0 false r.la 0 r.a 0))
  | .eret => some (.word (encR 21 3 0 false false 0 0 0))
  | .sysr d n => some (.word (encR 21 4 (sysHi n) false false (sysLo n) 0 d))
  | .sysw n r => some (.word (encR 21 5 (sysHi n) false r.la (sysLo n) r.a 0))
  | .sysset n r => some (.word (encR 21 6 (sysHi n) false r.la (sysLo n) r.a 0))
  | .sysclr n r => some (.word (encR 21 7 (sysHi n) false r.la (sysLo n) r.a 0))
  | .halt => some (.word (encR 21 8 0 false false 0 0 0))
  | .inject r => some (.word (encR 21 9 0 false r.la 0 r.a 0))
  | .grpid r => some (.word (encR 22 0 0 false r.la 0 r.a r.d))
  | .grpsz r => some (.word (encR 22 1 0 false r.la 0 r.a r.d))
  | .gbar r => some (.word (encR 22 2 0 false r.la 0 r.a r.d))
  | .garrive r => some (.word (encR 22 3 0 false r.la 0 r.a r.d))
  | .gwaitb r => some (.word (encR 22 4 0 r.lb r.la r.b r.a r.d))
  | .follow => some (.word (encR 22 5 0 false false 0 0 0))
  | .unfollow => some (.word (encR 22 6 0 false false 0 0 0))
  | .lcore r => some (.word (encR 22 7 0 false r.la 0 r.a r.d))
  | .copyin r => some (.word (encE 0 2 r.lb r.la r.b r.a r.d))
  | .copyout r => some (.word (encE 1 2 r.lb r.la r.b r.a r.d))
  | .gather r => some (.word (encE 2 2 r.lb r.la r.b r.a r.d))
  | .mcast r => some (.word (encE 3 2 r.lb r.la r.b r.a r.d))
  | .copyloc r => some (.word (encE 4 2 r.lb r.la r.b r.a r.d))
  | .shfItin r => some (.word (encE 0 3 r.lb r.la r.b r.a r.d))
  | .shfRead r => some (.word (encE 1 3 r.lb r.la r.b r.a r.d))
  | .shfTake r => some (.word (encE 2 3 false r.la 0 r.a r.d))
  | .shfRel r => some (.word (encE 3 3 false r.la 0 r.a r.d))
  | .shfHold r => some (.word (encE 4 3 r.lb r.la r.b r.a r.d))
  | .shfStat r => some (.word (encE 5 3 false r.la 0 r.a r.d))
  | .shfReread r => some (.word (encE 6 3 false r.la 0 r.a r.d))
  | .scnCfg r => some (.word (encE 0 4 false r.la 0 r.a r.d))
  | .scnRun r => some (.word (encE 1 4 false r.la 0 r.a r.d))
  | .scnRed r => some (.word (encE 2 4 false r.la 0 r.a r.d))
  | .scnApply r => some (.word (encE 3 4 false r.la 0 r.a r.d))
  | .scnClose d => some (.word (encE 4 4 false false 0 0 d))
  | .scnStat d => some (.word (encE 5 4 false false 0 0 d))
  | .cagrp r => some (.word (encE 0 5 false r.la 0 r.a r.d))
  | .cldred r => some (.word (encE 1 5 false r.la 0 r.a r.d))
  | .cstred r => some (.word (encE 2 5 false r.la 0 r.a r.d))
  | .cgraph r => some (.word (encE 3 5 r.lb r.la r.b r.a r.d))
  | .crun r => some (.word (encE 4 5 r.lb r.la r.b r.a r.d))
  | .cabort r => some (.word (encE 5 5 false r.la 0 r.a r.d))
  | .boset r => some (.word (encE 0 8 r.lb r.la r.b r.a r.d))
  | .boq r => some (.word (encE 1 8 r.lb r.la r.b r.a r.d))
  | .trcEmit r => some (.word (encE 0 9 r.lb r.la r.b r.a r.d))
  | .trcCfg r => some (.word (encE 1 9 r.lb r.la r.b r.a r.d))
  | .vadd r => some (.word (encL 24 0 r.es r.km r.lb r.la r.vb r.va r.vd))
  | .vsub r => some (.word (encL 24 1 r.es r.km r.lb r.la r.vb r.va r.vd))
  | .vaddsat r => some (.word (encL 24 2 r.es r.km r.lb r.la r.vb r.va r.vd))
  | .vsubsat r => some (.word (encL 24 3 r.es r.km r.lb r.la r.vb r.va r.vd))
  | .vmin r => some (.word (encL 24 4 r.es r.km r.lb r.la r.vb r.va r.vd))
  | .vmax r => some (.word (encL 24 5 r.es r.km r.lb r.la r.vb r.va r.vd))
  | .vminu r => some (.word (encL 24 6 r.es r.km r.lb r.la r.vb r.va r.vd))
  | .vmaxu r => some (.word (encL 24 7 r.es r.km r.lb r.la r.vb r.va r.vd))
  | .vand r => some (.word (encL 24 8 r.es r.km r.lb r.la r.vb r.va r.vd))
  | .vor r => some (.word (encL 24 9 r.es r.km r.lb r.la r.vb r.va r.vd))
  | .vxor r => some (.word (encL 24 10 r.es r.km r.lb r.la r.vb r.va r.vd))
  | .vsll r => some (.word (encL 24 11 r.es r.km r.lb r.la r.vb r.va r.vd))
  | .vsrl r => some (.word (encL 24 12 r.es r.km r.lb r.la r.vb r.va r.vd))
  | .vsra r => some (.word (encL 24 13 r.es r.km r.lb r.la r.vb r.va r.vd))
  | .vmul r => some (.word (encL 24 14 r.es r.km r.lb r.la r.vb r.va r.vd))
  | .vmulh r => some (.word (encL 24 15 r.es r.km r.lb r.la r.vb r.va r.vd))
  | .vcmpeq r => some (.word (encL 24 16 r.es r.km r.lb r.la r.vb r.va (kv r.kd)))
  | .vcmplt r => some (.word (encL 24 17 r.es r.km r.lb r.la r.vb r.va (kv r.kd)))
  | .vcmpltu r => some (.word (encL 24 18 r.es r.km r.lb r.la r.vb r.va (kv r.kd)))
  | .vsel r => some (.word (encL 24 19 r.es r.km r.lb r.la r.vb r.va r.vd))
  | .vmov r => some (.word (encL 24 20 r.es r.km false r.la 0 r.va r.vd))
  | .vbcast r => some (.word (encL 24 21 r.es r.km false r.la 0 r.va r.vd))
  | .vextr r => some (.word (encL 24 22 r.es r.km r.lb r.la r.vb r.va r.vd))
  | .vins r => some (.word (encL 24 23 r.es r.km r.lb r.la r.vb r.va r.vd))
  | .vfadd r => some (.word (encL 25 0 r.es r.km r.lb r.la r.vb r.va r.vd))
  | .vfsub r => some (.word (encL 25 1 r.es r.km r.lb r.la r.vb r.va r.vd))
  | .vfmul r => some (.word (encL 25 2 r.es r.km r.lb r.la r.vb r.va r.vd))
  | .vfma r => some (.word (encL 25 3 r.es r.km r.lb r.la r.vb r.va r.vd))
  | .vfms r => some (.word (encL 25 4 r.es r.km r.lb r.la r.vb r.va r.vd))
  | .vfnma r => some (.word (encL 25 5 r.es r.km r.lb r.la r.vb r.va r.vd))
  | .vfmin r => some (.word (encL 25 6 r.es r.km r.lb r.la r.vb r.va r.vd))
  | .vfmax r => some (.word (encL 25 7 r.es r.km r.lb r.la r.vb r.va r.vd))
  | .vfabs r => some (.word (encL 25 8 r.es r.km false r.la 0 r.va r.vd))
  | .vfneg r => some (.word (encL 25 9 r.es r.km false r.la 0 r.va r.vd))
  | .vfcmpeq r => some (.word (encL 25 10 r.es r.km r.lb r.la r.vb r.va (kv r.kd)))
  | .vfcmplt r => some (.word (encL 25 11 r.es r.km r.lb r.la r.vb r.va (kv r.kd)))
  | .vfcmple r => some (.word (encL 25 12 r.es r.km r.lb r.la r.vb r.va (kv r.kd)))
  | .vfclass r => some (.word (encL 25 13 r.es r.km false r.la 0 r.va r.vd))
  | .vcvtn r => some (.word (encL 26 0 r.es r.km false r.la (fmtCode r.fmt) r.va r.vd))
  | .vcvtw r => some (.word (encL 26 1 r.es r.km false r.la (fmtCode r.fmt) r.va r.vd))
  | .vcvtsr r => some (.word (encL 26 2 r.es r.km false r.la (fmtCode r.fmt) r.va r.vd))
  | .vcvti r => some (.word (encL 26 3 r.es r.km false r.la 0 r.va r.vd))
  | .vcvtf r => some (.word (encL 26 4 r.es r.km false r.la 0 r.va r.vd))
  | .vqscale r => some (.word (encL 26 5 r.es r.km false r.la (fmtCode r.fmt) r.va r.vd))
  | .vquant r => some (.word (encL 26 6 r.es r.km false r.la (fmtCode r.fmt) r.va r.vd))
  | .vdeq r => some (.word (encL 26 7 r.es r.km false r.la (fmtCode r.fmt) r.va r.vd))
  | .vredadd r => some (.word (encL 27 0 r.es r.km false r.la 0 r.va r.vd))
  | .vredmax r => some (.word (encL 27 1 r.es r.km false r.la 0 r.va r.vd))
  | .vredmin r => some (.word (encL 27 2 r.es r.km false r.la 0 r.va r.vd))
  | .vfredadd r => some (.word (encL 27 3 r.es r.km false r.la 0 r.va r.vd))
  | .vfredmax r => some (.word (encL 27 4 r.es r.km false r.la 0 r.va r.vd))
  | .vperm r => some (.word (encL 27 5 r.es r.km r.lb r.la r.vb r.va r.vd))
  | .vrot r => some (.word (encL 27 6 r.es r.km r.lb r.la r.vb r.va r.vd))
  | .vslide r => some (.word (encL 27 7 r.es r.km r.lb r.la r.vb r.va r.vd))
  | .vexp2 r => some (.word (encL 28 0 2 r.km false r.la 0 r.va r.vd))
  | .vlog2 r => some (.word (encL 28 1 2 r.km false r.la 0 r.va r.vd))
  | .vrcp r => some (.word (encL 28 2 2 r.km false r.la 0 r.va r.vd))
  | .vrsqrt r => some (.word (encL 28 3 2 r.km false r.la 0 r.va r.vd))
  | .vsigm r => some (.word (encL 28 4 2 r.km false r.la 0 r.va r.vd))
  | .vtanh r => some (.word (encL 28 5 2 r.km false r.la 0 r.va r.vd))
  | .verf r => some (.word (encL 28 6 2 r.km false r.la 0 r.va r.vd))
  | .kand kd ka kb => some (.word (encL 29 0 0 0 false false (kv kb) (kv ka) (kv kd)))
  | .kor kd ka kb => some (.word (encL 29 1 0 0 false false (kv kb) (kv ka) (kv kd)))
  | .kxor kd ka kb => some (.word (encL 29 2 0 0 false false (kv kb) (kv ka) (kv kd)))
  | .knot kd ka => some (.word (encL 29 3 0 0 false false 0 (kv ka) (kv kd)))
  | .kmovx kd ka kb => some (.word (encL 29 4 0 0 false false (kv kb) (kv ka) (kv kd)))
  | .kmovk kd ka => some (.word (encL 29 5 0 0 false false 0 (kv ka) (kv kd)))
  | .kpopc kd ka => some (.word (encL 29 6 0 0 false false 0 (kv ka) (kv kd)))
  | .kfirst kd ka => some (.word (encL 29 7 0 0 false false 0 (kv ka) (kv kd)))
  | .strmBind n => some (.word (encL 30 0 0 0 false false 0 0 (low4 n)))
  | .strmCfg n va la => some (.word (encL 30 1 0 0 false la 0 va (low4 n)))
  | .strmFree n => some (.word (encL 30 2 0 0 false false 0 0 (low4 n)))
  | .strmStat vd n => some (.word (encL 30 3 0 0 false false 0 (low4 n) vd))
  | .vld r => some (.word (encL 31 0 r.es r.km r.lb r.la r.b r.a r.vd))
  | .vst r => some (.word (encL 31 1 r.es r.km r.lb r.la r.b r.a r.vd))
  | .vlds r => some (.word (encL 31 2 r.es r.km r.lb r.la r.b r.a r.vd))
  | .vsts r => some (.word (encL 31 3 r.es r.km r.lb r.la r.b r.a r.vd))
  | .vldg r => some (.word (encL 31 4 r.es r.km r.lb r.la r.vb r.a r.vd))
  | .vstsc r => some (.word (encL 31 5 r.es r.km r.lb r.la r.vb r.a r.vd))
  | .vldb r => some (.word (encL 31 6 r.es r.km r.lb r.la r.b r.a r.vd))
  | .vldacc r => some (.word (encL 31 7 (if r.wide then 3 else 2) r.km false r.la (if r.int then 1 else 0) r.a r.vd))
  | .mma r => some (.word (encR 32 0 0 r.lb r.la r.b r.a r.d))
  | .mmaz r => some (.word (encR 32 1 0 r.lb r.la r.b r.a r.d))
  | .mmaq d => some (.word (encR 32 2 0 false false 0 0 d))
  | .mmaqC d => some (.word (encR 32 2 1 false false 0 0 d))
  | .ringset n r => some (.word (encR 33 0 0 r.lb r.la r.b r.a (low8 n)))
  | .ringpush n r => some (.word (encR 33 1 0 false r.la 0 r.a (low8 n)))
  | .ringpop n r => some (.word (encR 33 2 0 false r.la 0 r.a (low8 n)))
  | .ringstat d n => some (.word (encR 33 3 0 false false 0 (low8 n) d))
  | .ringclr n => some (.word (encR 33 4 0 false false 0 0 (low8 n)))
  | .tiddef r => some (.word (encR 34 0 0 r.lb r.la r.b r.a 0))
  | .tidget r => some (.word (encR 34 1 0 r.lb r.la r.b r.a r.d))
  | .tidswap r => some (.word (encR 34 2 0 r.lb r.la r.b r.a 0))
  | .tidinv r => some (.word (encR 34 3 0 false r.la 0 r.a 0))
  | .tsend r => some (.word (encR 35 0 0 r.lb r.la r.b r.a 0))
  | .tslotcfg r => some (.word (encR 35 1 0 r.lb r.la r.b r.a 0))
  | .tslotq d => some (.word (encR 35 2 0 false false 0 0 d))
  | .clVadd r => some (.half (encCl 0 r))
  | .clVsub r => some (.half (encCl 1 r))
  | .clVmax r => some (.half (encCl 2 r))
  | .clVmin r => some (.half (encCl 3 r))
  | .clVand r => some (.half (encCl 4 r))
  | .clVor r => some (.half (encCl 5 r))
  | .clVxor r => some (.half (encCl 6 r))
  | .clVmov r => some (.half (encCl 7 r))
  | .clVfadd r => some (.half (encCl 8 r))
  | .clVfsub r => some (.half (encCl 9 r))
  | .clVfmul r => some (.half (encCl 10 r))
  | .clVfmax r => some (.half (encCl 11 r))
  | .clVfmin r => some (.half (encCl 12 r))
  | .clVfmacv r => some (.half (encCl 13 r))
  | .vabs r => some (.half (encCl 14 r))
  | .clVfabs r => some (.half (encCl 15 r))
  | .cAddi d imm => some (.half (encCs 0 imm d))
  | .cMv d a => some (.half (encCs 1 (0#1 ++ BitVec.ofFin (w := 5) a) d))
  | .cLi d imm => some (.half (encCs 2 imm d))
  | .cLdl d imm => some (.half (encCs 3 imm d))
  | .cStl d imm => some (.half (encCs 4 imm d))
  | .cBeqz d imm => some (.half (encCs 5 imm d))
  | .cBnez d imm => some (.half (encCs 6 imm d))
  | .cRgn => some (.half (encCs 7 0 0))
  | .ctxEcmd w => some (.word w)
  | .illegal _ | .registerWriteLanding _ | .storeLineDrain _ | .commandDrain _ | .dynamicLineLanding _
    | .messageArrival _ | .logEntryArrival _ | .tsendLanding _ | .tick _ | .sleepuExpiry _ | .waitaDeadline _
    | .mmaGangStart _ _ _ | .mmaCompletion _ _ _ | .copyCompletion _ _ | .mcastDelivery _
    | .scanCommandCompletion _ | .carryDelivery _ | .groupBarrierFire _ _ | .snapFire _ | .tourReadStart _
    | .tileArrival _ _ | .holdLimitExpiry _ _ | .gleaningDelivery _ _ | .gleaningBoundExpiry _ | .tourEnd _
    | .cagrpCompletion _ _ | .cagrpDrainExpiry _ _ | .reductionStart _ _ _ | .chunkWrite _ _ _
    | .collCompletion _ _ | .memberAbsent _ _ _ | .stalePacketArrival _ _ _ | .apertureAccess _ _ _ _
    | .detectedError _ _ | .regionReentry _ | .consumedUncorrectableError _ | .headerUncorrectableError _
    | .partitionRebringupComplete _ | .mirrorItemCompare _ _ | .mirrorHashMismatch _ _
    | .mirrorHashTimeout _ _ | .triageDecision _ _ _ | .mirrorResyncComplete _ _ | .lqtailWrite _ _
    | .queueEnable _ | .queueDisable _ | .queueCancel _ | .launchRecordTake _ | .launchEligible _
    | .priorityAging _ | .slotBind _ _ _ | .dispatch _ | .slotVacate _ | .coreStop _ | .saveComplete _
    | .watchdogLimit1 _ | .watchdogLimit2 _ | .watchdogLimit3 _ | .quantumExpiry _ | .kernelCompletion _
    | .contextEnable _ _ | .contextDisable _ | .fqresumeRetry _ _ | .fqresumeDeny _ _ | .rewalk _ _
    | .faultQueueSpace _ | .tlbinvPage _ _ _ | .tlbinvAll _ | .tlbinvstAdvance _ | .registerWrite _ _ _
    | .timectlWrite _ | .pwrctlWrite _ | .ptpMessage _ _ | .ptmMessage _ | .timeReferenceLoss | .timeokExpiry
    | .powerControlPeriod _ _ | .thermalThrottle _ | .thermalShutdown _ | .sensorRefresh _
    | .hbmCorrectedError _ _ _ _ | .hbmBankCopyComplete _ _ | .correctedErrorAging _ | .powerOn
    | .hbmStackReady _ | .dieReady _ | .engineReady _ | .appdieReady | .pcieLinkUp _ | .scaleoutLinkUp _
    | .linkDown _ _ | .firmwareUpdate _ _ _ | .getVersion | .getCapabilities | .negotiateAlgorithms _ _
    | .getDigests | .getCertificate _ _ _ | .challenge _ _ | .getMeasurements _ | .sheafCommandCompletion _ _
    | .scopeAcknowledgement _ | .hostPathAccess _ | .outsideLoadedText | .shutdown | .configurationUpdate _
    | .dieCooled _ => none

/-- The bytes of an instruction. -/
def encodeBytes (i : Instr) : Option (List Byte) := (encode i).map Code.bytes

end

end Sys2Proof
end

