-- ==== Sys2Proof/Machine/Flags.lean ====
section
/-! DEFINITION. The bits of FFLAGS (spec/04_number_formats.md R96) and the rounding modes of STATUS.RM (R86). -/

namespace Sys2Proof.Machine

/-- A set of FFLAGS bits, R96. -/
abbrev Flags := BitVec 8

/-- NX, an inexact result. -/
def fNX : Flags := 1
/-- UF, a tiny, inexact result. -/
def fUF : Flags := 2
/-- OF, overflow or saturation. -/
def fOF : Flags := 4
/-- DZ, division by zero or the logarithm of zero. -/
def fDZ : Flags := 8
/-- NV, an invalid operation. -/
def fNV : Flags := 16
/-- SCLAMP, a scale clamped at its lower bound. -/
def fSCLAMP : Flags := 32
/-- ZEROBLK, a quantised block of zeros. -/
def fZEROBLK : Flags := 64
/-- ACCSAT, an ACC64I addition that saturated. -/
def fACCSAT : Flags := 128

/-- A flag set or not. -/
def fIf (b : Bool) (f : Flags) : Flags := if b then f else 0

/-- The union of the flags of a list of results. -/
def fAll (l : List Flags) : Flags := l.foldr (· ||| ·) 0

/-- The rounding modes: those of STATUS.RM (R86), and the stochastic one of R92 with its state and the bound c. -/
inductive Rnd where
  | rne | rtz | rup | rdn
  | stoch (state c : Nat)
  deriving DecidableEq, Repr

/-- STATUS.RM, bits 4:3 of STATUS (R86, R331). -/
def rmOf (status : Word) : Rnd :=
  match (status.extractLsb' 3 2).toNat with
  | 0 => .rne
  | 1 => .rtz
  | 2 => .rup
  | _ => .rdn

end Sys2Proof.Machine
end

