-- ==== Sys2Proof/Config.lean ====
section
/-! DEFINITION. The free values: what the spec leaves open and the machine goes on with. Each is a constant without a body, so
nothing can be proved of its value (log entries 7 to 19, 40, 42, 44, 52, 53, 98, 99). -/

namespace Sys2Proof.Config

/-- Which held value a read of a dead register returns (R43), from the core, its issue count and the register: 0 for zero,
n + 1 for the n-th value held. -/
opaque deadPick (lh lc seq reg : Nat) : Nat
/-- Whether a cached translation is still in its TLB (R317 gives no replacement). -/
opaque tlbKept (n : Nat) : Bool
/-- The cycles of a page walk, used up to the bound of R215. -/
opaque walkTime (n : Nat) : Nat
/-- The cycles from BIND to the first instruction, used up to T_disp (R259). -/
opaque dispatchTime (n : Nat) : Nat
/-- The cycles a vacated core takes to stop, used up to T_stop (R259). -/
opaque stopTime (n : Nat) : Nat
/-- The cycles a save takes, used up to T_vac (R259). -/
opaque saveTime (n : Nat) : Nat
/-- The cycles from a trap to the firmware's kill (R334), used up to 1 µs. -/
opaque killTime (n : Nat) : Nat
/-- The hold of a FENCE.X, used within the bounds of R200. -/
opaque fenceHold (n : Nat) : Nat
/-- The cycles until a scope's acknowledgements return (R200). -/
opaque ackTime (n : Nat) : Nat
/-- The cycles a re-walk begins after FQRESUME, used up to 1 µs (R319). -/
opaque rewalkTime (n : Nat) : Nat
/-- The cycles a reset unit takes, used up to 64 (R353). -/
opaque resetTime (n : Nat) : Nat
/-- Whether a line outside the held span is written by a multicast that faults (R214). -/
opaque mcastLine (n line : Nat) : Bool
/-- The cycles the scheduling firmware takes to act on a request (R242 to R251 give no time), used up to 1 µs. -/
opaque firmwareTime (n : Nat) : Nat
/-- The hops a route adds around harvested and quarantined routers, used up to 2 a die (R24). -/
opaque detour (n : Nat) : Nat
/-- SHAKE256 with 512 bits of output, as 64 bytes (R72, R326). -/
opaque shake256 (m : List Byte) : BitVec 512
/-- Whether an Ed448 signature of a digest verifies under a key (R72, R326). -/
opaque ed448Verify (key : List Byte) (digest : BitVec 512) (sig : List Byte) : Bool
/-- The signature of the device identity key (R326, R327). -/
opaque ed448Sign (m : List Byte) : BitVec 912
/-- The SHA3-512 digest of SPDM (R327). -/
opaque sha3 (m : List Byte) : BitVec 512

/-- TVAL of a store to a barrier line, for which R22 gives none. -/
opaque barrierStoreTval (n : Nat) : BitVec 64

/-- Bit 0 of the halfword at a loop end outside the loaded text, which R263 reads and no rule gives. -/
opaque absentBit (n : Nat) : Bool

/-- The read and write bits of a SERVICE entry, which is no access (R336). -/
opaque serviceDir (n : Nat) : Byte
/-- FIRST of a SERVICE entry (R336). -/
opaque serviceFirst (n : Nat) : Byte

/-- The cycles to drain the undo buffers and write the snapshots of an epoch (R357). -/
opaque snapTime (n : Nat) : Nat

/-- The bytes that an access of a peer package's memory returns (R316). -/
opaque peerByte (pkg pa n : Nat) : Byte
/-- The cycles of an access of a peer package (R215 gives none). -/
opaque peerTime (n : Nat) : Nat
/-- The switch's port-to-port latency in ns, T_sw (R226). -/
opaque switchNs (n : Nat) : Nat
/-- The cycles for which packets of a reduction that has ended early stay in the switch (R220 gives none). -/
opaque switchHold (n : Nat) : Nat
/-- The cycles from one chunk of a reduction to the next, within T_ar (R224). -/
opaque chunkTime (n : Nat) : Nat
/-- Whether the chunk in progress when a reduction ends early is written at this member (R224). -/
opaque chunkLast (n : Nat) : Bool
/-- The bytes of a copied tile's last line, or of its factor line, behind its data (R210 gives them none). -/
opaque padByte (n i : Nat) : Byte
/-- Whether a peer package refuses an access of its memory (R316): its own signed configuration decides. -/
opaque peerRefuses (pkg pa n : Nat) : Bool

/-- Where among the places that R242 allows a launch or a gang is bound: the spec leaves the choice to the firmware. -/
opaque place (n : Nat) : Nat
/-- Where in a partition's physical range the firmware begins to place the saved segments (R342). -/
opaque saveArea (part : Nat) : Nat
/-- Whether a physical core passes its self-test (R380). -/
opaque selfTest (ix n : Nat) : Bool
/-- The device address at which the runtime has placed the .rodata section of an image (R73). -/
opaque rodataAt (image : Nat) : Nat

/-- The device addresses of the library images that a launch of an image names: no field of R238 names them (R73). -/
opaque libraries (image : Nat) : List Nat

/-- Whether a hot die loses an odd cycle (R385). -/
opaque heatLoses (n : Nat) : Bool
/-- The cycles of a millisecond that the power controller withholds from a die while the power is above CAP (R385). -/
opaque capHold (n : Nat) : Nat
/-- The management (1) and the scheduling firmware (2) in a firmware slot's image (R327, R379). -/
opaque fwPart (n : Nat) (image : List Byte) : List Byte
/-- The spare columns of an HBM stack (R367). -/
opaque spareColumns (stack : Nat) : Nat
/-- Whether a new firmware image reaches management READY at a boot, R379. -/
opaque fwBoots (image : List Byte) (n : Nat) : Bool
/-- Where a class of R367 lies within its channel: the indexes of the 256-byte blocks that hold a byte of it; the spec gives no layout of
banks, rows and columns (log entry 98). -/
opaque hbmBlocks (cls ch bank row col : Nat) : List Nat
/-- The entry of a full TLB that a new one replaces, R317. -/
opaque tlbVictim (n : Nat) : Nat
/-- The soft row repairs of an HBM stack (R367). -/
opaque spareRows (stack : Nat) : Nat
/-- Whether the second operand of a scan's LSE counts as the one with the larger m where the two values do not compare (R154 states
no result there). -/
opaque lseSecond (x y : Nat) : Bool

end Sys2Proof.Config
end

