-- ==== Sys2Proof/Machine/State.lean ====
section
/-! DEFINITION. The state of the package as plain data: the logical cores, the launches and the package itself
(INVENTORY.md, State), the reasons a step can stop, and the state after power-on. -/

namespace Sys2Proof.Machine

/-- Sparse memory in one canonical form: addresses strictly rising, no entry equal to what an unlisted address reads as. -/
abbrev Mem := List Host.Cell

/-- Trap causes, R334 (codes 0 to 21 in this order). -/
inductive Cause where
  | none | illegal | deadread | misalign | localrange | bankconf | ringheld | ringovf | pagefault | access | ecall
  | ebreak | swtrap | regionLimit | regionOvf | regionWar | slotviol | detected | engine | loopnest | watchdog | preempt
  deriving DecidableEq, Repr

/-- A trap an instruction raises: its cause and TVAL (R6 `trap`). -/
structure Trap where
  cause : Cause
  tval : Word
  deriving DecidableEq, Repr

/-- The destination of a write in flight, R44: for a lane register, `bytes` names the bytes of active elements (R129). -/
inductive Dst where
  | none
  | x (r : XReg) (w : Word)
  | v (r : VReg) (val : Lane) (bytes : BitVec 64)
  | k (r : KReg) (w : Word)
  deriving DecidableEq, Repr

/-- A write in flight: issue order, issue cycle, landing cycle, the instruction's address, its flags; `ffTap` marks a
SYSR of FFLAGS, which also takes flags raised later in its issue cycle (R97). -/
structure Flight where
  seq : Nat
  issued : Nat
  due : Nat
  pc : Word
  dst : Dst
  flags : BitVec 8
  ffTap : Bool
  deriving DecidableEq, Repr

/-- A ring in one view, R16, R147: `head` is a line index within the ring, counts are in lines; `deliv` counts the
deliveries in progress, `stops` the held lines a sheaf stop has not released, and `gap` the lines that an SHF.REL has released
behind `gapAt` claimed ones, R285 (log entry 38). -/
structure Ring where
  conf : Bool
  base : Nat
  size : Nat
  head : Nat
  held : Nat
  appended : Nat
  claimed : Nat
  deliv : Nat
  stops : Nat
  gapAt : Nat
  gap : Nat
  deriving DecidableEq, Repr

/-- A stream generator, R127, R128. -/
structure Stream where
  conf : Bool
  bound : Bool
  base : Word
  icount : Word
  istride : Word
  ocount : Word
  ostride : Word
  write : Bool
  pos : Nat
  deriving DecidableEq, Repr

/-- The state a region's checkpoint holds, R347, but for the ring pointers, which the engines' view keeps (R149). -/
structure Arch where
  x : Vector Word 32
  v : Vector Lane 16
  k : Vector Word 8
  livex : BitVec 32
  livev : BitVec 16
  lc : Vector Word 2
  ls : Vector Word 2
  le : Vector Word 2
  streams : Vector Stream 4
  seed : Vector (BitVec 32) 16
  status : Word
  fflags : Word
  deriving DecidableEq, Repr

/-- What a message does at its destination, R193. -/
inductive MsgKind where
  | bytes (b : List Byte)
  | bits (pos width : Nat) (v : Byte)
  | event (line : Nat)
  deriving DecidableEq, Repr

/-- The operation of a logged atomic, R197. -/
inductive LogOp where
  | add | min | max | or | fadd
  deriving DecidableEq, Repr

/-- One log entry: target address, operation, width (`wide` is 8 bytes) and operand, R197. -/
structure LogEntry where
  addr : Nat
  op : LogOp
  wide : Bool
  val : Word
  deriving DecidableEq, Repr

/-- An itinerary entry, R70, R252: hold limit and stops (logical core, ring). -/
structure Itin where
  hold : Nat
  stops : List (Nat × Nat)
  deriving DecidableEq, Repr

/-- A slot-schedule entry, R70. -/
structure SlotEnt where
  slot : Nat
  lines : Nat
  sender : Nat
  receiver : Nat
  cyc : Nat
  deriving DecidableEq, Repr

/-- Where a completion flag word lies, R207, R213, R221. -/
inductive FlagDst where
  | none
  | device (pa : Nat)
  | peer (pkg pa : Nat)
  | localAt (a : Nat)
  deriving DecidableEq, Repr

/-- An MCAST command block as read at issue, R213; `none` stands for 0xFFFF_FFFF (0xFF for DRING). -/
structure McastBlk where
  src : Nat
  lines : Nat
  group : Nat
  wbase : Nat
  dst : Nat
  dring : Option Nat
  fscope : Nat
  bobj : Option Nat
  staddr : Option Nat
  flag : Option Nat
  deriving DecidableEq, Repr

/-- A CAGRP block, R220. -/
structure CagrpBlk where
  agid : Nat
  members : List Nat
  myidx : Nat
  drain : Nat
  staddr : Option Nat
  deriving DecidableEq, Repr

/-- A CLDRED or CSTRED block, R221. -/
structure RedBlk where
  store : Bool
  agid : Nat
  op : Nat
  infmt : Nat
  outfmt : Nat
  src : Nat
  elems : Nat
  srcLocal : Bool
  dstLocal : Bool
  dst : Nat
  flag : Option Nat
  staddr : Option Nat
  deriving DecidableEq, Repr

/-- A SCN.CFG block, R290. -/
structure ScanCfg where
  op : Nat
  type : Nat
  group : Nat
  steps : Nat
  chans : Nat
  deriving DecidableEq, Repr

/-- A buffered engine, matrix or TID command with what it read at its issue, R153, R206. -/
inductive Cmd where
  | mma (zero : Bool) (acc opw : Word) (dA dB dC : BitVec 256)
  | copyIn (xa xb : Word) (desc flagDesc : BitVec 256)
  | copyOut (xa xb : Word) (desc flagDesc : BitVec 256)
  | gather (xa xb : Word) (desc flagDesc : BitVec 256) (rows : List Nat)
  | mcast (b : McastBlk) (mask : Word) (members : List Nat)
  | copyLoc (src : Nat) (xb : Word)
  | tidDef (ix : Nat) (desc : BitVec 256)
  | tidSwap (i j : Nat)
  | tidInv (ix : Nat)
  | shfItin (ix : Nat) (it : Itin)
  | shfHold (ix hold : Nat)
  | shfRead (xa : Word) (desc : BitVec 256) (ix : Nat) (it : Itin)
  | shfRel (ring : Nat)
  | shfReread (ring : Nat)
  | scnCfg (c : ScanCfg) (k : Nat)
  | scnRun (src dst : Nat)
  | scnRed (src : Nat)
  | scnApply (src dst : Nat) (raw : Bool)
  | cagrp (b : CagrpBlk)
  | reduce (b : RedBlk)
  | cgraph (slot : Nat) (nodes : List (List Nat × RedBlk))
  | crun (nodes : List (List Nat × RedBlk)) (resAt : Nat)
  | cabort (agid : Nat)
  | boset (addr : Nat) (expect : Option (BitVec 32))
  | trcEmit (ev : BitVec 15) (payload : Word)
  | trcCfg (base xb : Word)
  deriving DecidableEq, Repr

/-- What a commit point performs at its issue, and a mirror launch once both twins have offered it, R189, R275, R362. -/
inductive Act where
  | eventStore (off : Nat) (v : Word)
  | arrive (g : Nat)
  deriving DecidableEq, Repr

/-- A ring instruction as the engines see it at the commit, R149. -/
inductive RingOp where
  | set (base size : Nat)
  | push (n : Nat)
  | pop (n : Nat)
  | clear
  deriving DecidableEq, Repr

/-- A fence among a region's work, R161, R168, R169: its scope; whether it waits for messages and log appends (`msgs`) and for timed
lines (`timed`) that the core has observed; and whether what drains behind it (`drains`), later loads (`loads`) and the forward of an SHF.REL
behind it (`sheaf`) wait for it. -/
structure Fence where
  sc : Scope
  msgs : Bool
  timed : Bool
  drains : Bool
  loads : Bool
  sheaf : Bool
  deriving DecidableEq, Repr

/-- One piece of a region's buffered work, R348: a store-buffer line (its address divided by 64, and the bytes written,
oldest first), a message, a log append, a command with its ticket register, or an item that takes no slot: a slot selection, a
ring instruction, a fence, and the act of a commit point in a mirror launch. -/
inductive Buf where
  | line (ln : Nat) (bytes : List Host.Cell)
  | msg (dst addr : Nat) (m : MsgKind)
  | log (dst : Nat) (e : LogEntry)
  | cmd (seq : Nat) (d : XReg) (c : Cmd)
  | slotSel (first count : Nat)
  | ring (n : Nat) (op : RingOp)
  | fence (f : Fence)
  | act (a : Act)
  deriving DecidableEq, Repr

/-- Committed work still draining, R348: the item, its commit cycle, and TIME at its commit in 1/66,000 ns; `base` is the commit cycle that
the latencies of the work count from, later by the cycles that its die has lost since (R385); for a sequenced command its ticket, and its
flag word's translation (R206). -/
structure Drain where
  item : Buf
  ticket : Nat
  at_ : Nat
  base : Nat
  time : Nat
  flag : FlagDst
  deriving DecidableEq, Repr

/-- A claim on a scratchpad bank for cycles `lo` to `hi`, with the requester code of R196. -/
structure BankUse where
  bank : Nat
  lo : Nat
  hi : Nat
  code : Nat
  deriving DecidableEq, Repr

/-- How a load places its bytes in a register: size and sign, R187; and the length of its instruction. -/
structure LoadFmt where
  size : Nat
  signed : Bool
  len : Nat
  deriving DecidableEq, Repr

/-- What a sleeping core waits for, R46, R202, R267, R270 to R275, R284, R292, R357. -/
inductive Wait where
  | seq (p : EngClass) (target : Nat)
  | arm (d : XReg) (slots : List (Nat × Nat × Word)) (deadline : Word)
  | bobj (d : XReg) (addr : Nat)
  | sleepu (t : Word)
  | realign (d : XReg) (tick : Option Word)
  | barLine (i : Nat) (gen : Nat) (d : XReg) (f : LoadFmt)
  | mutexLine (i : Nat) (d : XReg) (f : LoadFmt)
  | eventLine (i : Nat) (d : XReg) (f : LoadFmt)
  | barGroup (g gen : Nat) (d : XReg) (f : LoadFmt)
  | gbar (g gen : Nat) (d : XReg)
  | gwaitb (g : Nat) (target : BitVec 16) (d : XReg)
  | snap (d : XReg)
  | take (ring : Nat) (d : XReg)
  | close (d : XReg)
  | follow
  | drain
  | ack
  deriving DecidableEq, Repr

/-- What a core is doing, R243, R246, R266, R319, R333, R353; `rolling` while its Umbra launch rolls back (R360). -/
inductive Run where
  | empty
  | ready
  | waiting (w : Wait)
  | onFault (fseq : Nat)
  | resetting
  | rolling
  | trapped
  | halted
  | stopping
  | saving
  | vacated
  | fenced
  deriving DecidableEq, Repr

/-- A matrix command in flight, R143, with the cycle of its commit, later by those that its die has lost since (R385), and of its drain; `started` is the cycle in which a command
that has started completes, and `rd` counts the lines of its tiles that the engine has read from the banks (R14). In the leader, `part` counts the groups of 16 accumulator elements that the adders have written, `next` is
the first cycle in which they may write the next group, and `flags` gathers the flags (R18, R96, R140). -/
structure MmaCmd where
  n : Nat
  at_ : Nat
  drained : Nat
  zero : Bool
  acc : Word
  opw : Word
  dA : BitVec 256
  dB : BitVec 256
  dC : BitVec 256
  linesA : Nat
  linesB : Nat
  rd : Nat
  started : Option Nat
  part : Nat
  next : Nat
  flags : BitVec 8
  deriving DecidableEq, Repr

/-- A part of a latency: until a cycle, it counts the cycles that none of its dies loses, R386. -/
structure Leg where
  dies : List Nat
  till : Nat
  deriving DecidableEq, Repr

/-- A write of device memory or of a peer package at a translated address; `loc` marks the local flag word of a staged COPYOUT (R359). -/
structure DevWrite where
  peer : Option Nat
  pa : Nat
  bytes : List Byte
  loc : Bool
  deriving DecidableEq, Repr

/-- An engine command in flight on classes 2, 3 and 5: its ticket, status, flag, status record and due cycle, R206, R207.
`at_` is its commit cycle, `base` the one its latencies count from (R385), `time` TIME then, `legs` the parts of a latency that spans dies, and `till` the TIME at which a reduction is due to end, in 1/66,000 ns (R226); `members` and
`me` are the binding of a reduction's address group, and `peers` what the other members have issued for it (R221, R231). `left` counts the deliveries and chunks it waits for; `stalled` names the fault entry it waits on
(R319), `page` the pieces of device memory already translated, `data` what it has read and `out` what it is to write. In a copy command `gen` is
the cycle in which the read of its source began; `done` says that its status record is written, that the lines of an SHF.REL are popped, or that the read of a tile has been made; `busy` that an access of its own to the scratchpad is
in progress (R15); `since` is the TIME from which the source of a mirror pair's reduction waits for its comparison (R362). -/
structure Inflight where
  ticket : Nat
  cmd : Cmd
  at_ : Nat
  base : Nat
  time : Nat
  due : Nat
  legs : List Leg
  till : Nat
  members : List Nat
  me : Nat
  peers : List RedPeer
  status : Nat
  flag : FlagDst
  staddr : Option Nat
  mask : Nat
  gen : Nat
  flags : BitVec 8
  left : Nat
  stalled : Option Nat
  page : Nat
  data : List Byte
  out : List DevWrite
  started : Bool
  done : Bool
  busy : Bool
  since : Nat
  deriving DecidableEq, Repr

/-- The outcome codes of a stop word, R284, and the states before it. -/
inductive StopSt where
  | pending | ready (outcome : Nat) | taken (outcome : Nat) | released
  deriving DecidableEq, Repr

/-- A stop record of a core, R284: its ring, tour, stop index, the lines it holds and the address of the first. -/
structure StopRec where
  ring : Nat
  tour : Nat
  stop : Nat
  lines : Nat
  addr : Nat
  st : StopSt
  deriving DecidableEq, Repr

/-- A SCAN command from its commit on, with its ticket, its commit cycle, later by those that its die has lost since (R385), and the configuration, member index, epoch,
generation and serial that govern it, R291, R302; `drained` says that it has reached its engine. -/
structure ScanCmd where
  ticket : Nat
  at_ : Nat
  cmd : Cmd
  cfg : ScanCfg
  k : Nat
  epoch : Nat
  gen : Nat
  serial : Nat
  drained : Bool
  deriving DecidableEq, Repr

/-- A carry received, R255: the serial of its generation, its bytes, the flags of its combines and the cycle it arrived. -/
structure Carry where
  serial : Nat
  bytes : List Byte
  flags : BitVec 8
  at_ : Nat
  deriving DecidableEq, Repr

/-- What the scan command under way has worked out: the lines of DST still to land, each with its address (R15, R302), the first cycle
in which the next may land, the aggregate to send and the flags. -/
structure ScanRes where
  lines : List (Nat × List Byte)
  next : Nat
  agg : List Byte
  flags : BitVec 8
  deriving DecidableEq, Repr

/-- A core's scan state, R290 to R293, R303. `ran` is set when a RUN or RED of this generation has committed, `running`
holds the due cycle of the command under way and `res` its results, `free` the cycle the last one completed, and `serial` counts the
generations of the core, over every SCN.CFG. `epoch` counts the configurations of the core's chain that it has used before this one, and
`used` says that it has used this one; `epochs` keeps the count of every group, `left` the chains that it has left for another without using them, and `prevAt` is the cycle in
which the carry of the last closed generation came. -/
structure Scan where
  cfg : Option ScanCfg
  k : Nat
  clen : Nat
  gen : Nat
  serial : Nat
  aggSent : Bool
  dups : Nat
  ran : Bool
  queue : List ScanCmd
  running : Option Nat
  free : Nat
  carries : List Carry
  epoch : Nat
  used : Bool
  epochs : List (Nat × Nat)
  left : List Nat
  prevAt : Nat
  res : Option ScanRes
  deriving DecidableEq, Repr

/-- An instruction forwarded to a follower of a slaved gang, R21, R276: when it issues, the leader's PC, the next PC, the loop registers
the leader reached and the cycles that it went on in. -/
structure Forward where
  due : Nat
  pc : Word
  npc : Word
  lc : Vector Word 2
  ls : Vector Word 2
  le : Vector Word 2
  cost : Nat
  deriving DecidableEq, Repr

/-- One item a mirror twin offers for comparison, R362. -/
structure MirrorItem where
  n : Nat
  hash : BitVec 64
  at_ : Nat
  item : Drain
  deriving DecidableEq, Repr

/-- The snapshot image of an epoch, R356, R359, R360: what the REGS, LIVE, BARRIER, RING and STRM payloads hold, with the address of the
instruction after the SNAP; the scan state, the collective graphs, the itinerary entries set and the stop records and tours that have ended
are kept with it (log entry 47). -/
structure SnapImage where
  arch : Arch
  pc : Word
  cause : Word
  tval : Word
  epc : Word
  trapvec : Word
  reglim : Nat
  traceBase : Word
  traceXb : Word
  slotFirst : Nat
  slotCount : Nat
  slaved : Bool
  mmaErr : Bool
  mmaFail : Nat
  mmaLast : Nat
  cycles : Nat
  rings : Vector Ring 8
  armed : Vector (Option Nat) 16
  eseq : Vector Nat 5
  issued : Vector Nat 5
  stops : List StopRec
  tours : List (Nat × Nat)
  arrivedAt : List (Nat × Nat)
  credits : List (Nat × Nat)
  scan : Scan
  graphs : List (Nat × List (List Nat × RedBlk))
  ownItins : List Nat
  deriving DecidableEq, Repr

/-- One logical core with everything it carries, R11. `anchor` names the stop record (tour, stop) that the SHF.TAKE opening the
region took, `anchored` says that the region is tour-anchored (R284); `window` is the cycle of offset 0 (R268), `winFirst` and
`winCount` select the entries that govern the open window (R278); `undoSent` counts the undo lines that have drained (R358). `credits` holds
the groups and generations for which the core counted as arrived while it was vacated (R256), `ownItins` the itinerary entries that it has
set itself (R282), and `firstAt` the cycle of its first instruction since it was last dispatched (R295). `seen` names the packets and timed
lines of other cores that its acquires have shown it and that were still on their way (R170, R172), `loadAfter` those that its loads wait for
(R168), `tails` the lines by which the tail of a ring has advanced since the oldest work that drains was committed (ring, cycle, lines; R143),
`gaps` the parts of the code space that no loaded .text holds (R36), `drainHold` that an RGN.COMMIT holds until the committed work has drained (R350),
`snapD` the register of a SNAP whose barrier has counted its last arrival and is still to fire (R357), and `atom` the operands of an atomic that has passed its checks and waits for the committed work to drain (R195, R196). -/
structure Core where
  id : CoreId
  ctx : Nat
  slot : Nat
  row : Nat
  col : Nat
  binds : Nat
  run : Run
  pc : Word
  arch : Arch
  ckpt : Arch
  cause : Word
  tval : Word
  epc : Word
  trapvec : Word
  regpc : Word
  regcnt : Nat
  reglim : Nat
  skip : Bool
  anchor : Option (Nat × Nat)
  anchored : Bool
  iseq : Nat
  landX : Vector Nat 32
  landV : Vector Nat 16
  landK : Vector Nat 8
  heldX : List Word
  heldV : List Lane
  nextIssue : Nat
  flights : List Flight
  raisedAt : Nat
  raised : BitVec 8
  bankUse : List BankUse
  mem : Mem
  code : List Byte
  gaps : List (Nat × Nat)
  sbuf : List Buf
  drainq : List Drain
  nextDrain : Nat
  rings : Vector Ring 8
  erings : Vector Ring 8
  tails : List (Nat × Nat × Nat)
  eseq : Vector Nat 5
  issued : Vector Nat 5
  cycles : Nat
  window : Option Nat
  winFirst : Nat
  winCount : Nat
  slotFirst : Nat
  slotCount : Nat
  slaved : Bool
  drainHold : Bool
  forwards : List Forward
  mma : List MmaCmd
  mmaErr : Bool
  mmaFail : Nat
  mmaLast : Nat
  copies : List Inflight
  shfs : List Inflight
  colls : List Inflight
  graphs : List (Nat × List (List Nat × RedBlk))
  stops : List StopRec
  tours : List (Nat × Nat)
  scan : Scan
  armed : Vector (Option Nat) 16
  msgDrop : Nat
  logDrop : Nat
  log : List LogEntry
  arrivedAt : List (Nat × Nat)
  credits : List (Nat × Nat)
  ownItins : List Nat
  firstAt : Nat
  seen : List Nat
  loadAfter : List Nat
  snapD : Option XReg
  atom : Option (Word × Word × Word)
  traceBase : Word
  traceXb : Word
  traceSeq : Nat
  failed : List (EngClass × Nat × Nat)
  undo : List (Nat × List Byte)
  undoSent : Nat
  staged : List DevWrite
  stagedBytes : Nat
  image : Option SnapImage
  mirror : List MirrorItem
  mirrorN : Nat
  deriving DecidableEq, Repr

/-- A group barrier of a launch, R275: generation, arrivals, the cycle of the last one and, once every member has arrived,
the cycle for which its firing was set. `early` lists the members whose barrier of this generation has returned already, as a vacate had arrived for them
(R256), and `next` those of them that have arrived for the generation after it. -/
structure GBar where
  group : Nat
  gen : Nat
  arrived : List Nat
  lastAt : Nat
  firing : Option Nat
  early : List Nat
  next : List Nat
  deriving DecidableEq, Repr

/-- A launch record, R238. -/
structure LaunchRec where
  kind : Nat
  gang : Nat
  grid : Nat
  image : Nat
  kernel : Nat
  prio : Nat
  follow : Bool
  mirror : Bool
  umbra : Bool
  timed : Bool
  flagEn : Bool
  flagScope : Nat
  argAddr : Nat
  argLen : Nat
  seed : BitVec 32
  quantum : Nat
  tick : Nat
  wd : List Nat
  depA : Option (Nat × Nat)
  depB : Option (Nat × Nat)
  glean : Nat
  flagAddr : Nat
  park : Nat
  parkSize : Nat
  deriving DecidableEq, Repr

/-- A .rgn record, R70, R75: the code address of the kernel's .text, start and end in it, limit, and the declared store spans (local
address and length). -/
structure RgnRec where
  base : Nat
  start : Nat
  stop : Nat
  limit : Nat
  spans : List (Nat × Nat)
  deriving DecidableEq, Repr

/-- What the loader placed for a launch, R73: resolved code and the gaps between its images (from and up to), local image, entry and tables, the .rgn records as they are kept for
tools (R75), and the images' size in bytes. -/
structure Kernel where
  text : List Byte
  gaps : List (Nat × Nat)
  lmem : List (Nat × List Byte)
  entry : Nat
  groups : List (List Nat)
  itins : List Itin
  slots : List SlotEnt
  rgn : List RgnRec
  size : Nat
  deriving DecidableEq, Repr

/-- The life of a launch record, R240, R241. -/
inductive LStatus where
  | taken
  | eligible
  | started
  | complete (status : Nat)
  deriving DecidableEq, Repr

/-- An aggregate on the carry network, R155, R255: the chain's epoch, generation, member, the twin that sent it, the cycle it was sent,
configuration and bytes; `whole` says that it is folded: at once, or in a mirror launch when both twins have sent the same (R362). -/
structure Aggregate where
  group : Nat
  epoch : Nat
  gen : Nat
  member : Nat
  twin : Bool
  at_ : Nat
  cfg : ScanCfg
  bytes : List Byte
  whole : Bool
  deriving DecidableEq, Repr

/-- A carry on its way to a member of a chain, or held for it, R24, R255: its core, chain, epoch, generation and place in the chain, the cycle
in which it arrives, and the parts of its time (R386). -/
structure CarryMsg where
  core : CoreId
  group : Nat
  epoch : Nat
  gen : Nat
  k : Nat
  due : Nat
  legs : List Leg
  deriving DecidableEq, Repr

/-- By how much the cores of an Umbra launch have changed the count of an event line of a cluster in an epoch, R355. -/
structure EvChange where
  cluster : Nat
  line : Nat
  by_ : Int
  deriving DecidableEq, Repr

/-- The block of a timed launch, R305: the position of its logical core 0 now and as it was bound at first, and the quarantined routers that
the routes of the first dispatch avoid. -/
structure Block where
  origin : Nat × Nat
  first : Nat × Nat
  routers : List (Nat × Nat)
  deriving DecidableEq, Repr

/-- A launch. `doomed` holds the cycle of the firmware's kill, `residentNs` the time counted by the watchdog, `quantumNs` that
counted by the quantum, loads included (R74, R251);
in a mirror launch `tidsB` and `itinsB` are the tables as the second twins have written them (R361); `args` and `startNs` are the
argument block and TIME as its launch page has them (R32). `evict` says that the firmware vacates every core of it (R250), and `recorded`
holds what has been recorded of it for the firmware: a logical core, or none for the whole launch, CAUSE and TVAL (R246, R250, R334).
While an Umbra launch rolls back, `rolling` holds the TIME, in 1/66,000 ns, at which its cores have stopped, or, once `rolled` says that
they have been put back into their snapshots, at which they go on (R360), `rollAt` being the cycle in which their undo lines are written back; `snapGbars`, `snapTids` and `snapItins` are its group barriers and
tables at the last snapshot, `snapTour` is the identity from which on a tour has begun after it, and `evs` what its cores have changed event
counts by since (R355). -/
structure Launch where
  h : Nat
  queue : Nat
  seq : Nat
  ctx : Nat
  lrec : LaunchRec
  kern : Kernel
  status : LStatus
  effPrio : Nat
  eligibleAt : Nat
  startedAt : Nat
  residentNs : Nat
  quantumNs : Nat
  quantumOut : Bool
  wdLevel : Nat
  doomed : Option Nat
  tids : List (Nat × BitVec 256)
  tidsB : List (Nat × BitVec 256)
  itins : List (Nat × Itin)
  itinsB : List (Nat × Itin)
  gbars : List GBar
  epoch : Nat
  snapFiring : Bool
  snapGbars : List GBar
  snapTids : List (Nat × BitVec 256)
  snapItins : List (Nat × Itin)
  snapTour : Nat
  evs : List EvChange
  rollbacks : Nat
  rolling : Option Nat
  rolled : Bool
  rollAt : Option Nat
  aggs : List Aggregate
  carries : List CarryMsg
  block : Option Block
  halted : List Nat
  vacatedCores : List Nat
  args : List Byte
  startNs : Nat
  evict : Bool
  recorded : List (Option Nat × Cause × Nat)
  deriving DecidableEq, Repr

/-- A launch queue's registers, R236, R237. -/
structure LQueue where
  base : Word
  size : Word
  tail : Word
  head : Word
  done : Word
  ctx : Nat
  err : Bool
  enable : Bool
  lima : Nat
  limb : Nat
  limc : Nat
  deriving DecidableEq, Repr

/-- The states of a slot record, R243. -/
inductive SlotState where
  | empty | bind | run | vacate | saving | fenced
  deriving DecidableEq, Repr

/-- A slot-table record, R243. -/
structure SlotRec where
  quant : Nat
  lhandle : Nat
  entry : Nat
  lcore : Nat
  ctx : Nat
  state : SlotState
  deriving DecidableEq, Repr

/-- What is known of one physical core beside its slot record: suspect score, quarantine, position once substituted, R7, R364, and the
cycle in which its last scrub completes, R321. -/
structure Phys where
  score : Nat
  quarantined : Bool
  exposed : Option (Nat × Nat)
  scrubbed : Nat
  deriving DecidableEq, Repr

/-- Cores held for a launch until it takes them, R248: the units they are for, each with the places chosen for it. -/
structure Request where
  lh : Nat
  places : List (List Nat × List (List Nat))
  deriving DecidableEq, Repr

/-- An access waiting on a fault entry, R318, R319: the core and, for a later page, the class and ticket. -/
structure FaultWait where
  core : CoreId
  cmd : Option (EngClass × Nat)
  deriving DecidableEq, Repr

/-- An outstanding fault-queue entry, R318. -/
structure FaultEnt where
  fseq : Nat
  va : Nat
  kind : Nat
  wr : Bool
  path : Nat
  first : Bool
  lcore : Nat
  slotAt : Nat
  queued : Bool
  waits : List FaultWait
  deriving DecidableEq, Repr

/-- A cached translation, R317: cluster (none for the die's second level), context, page, size and entry. -/
structure TlbEnt where
  cluster : Option Nat
  die : Nat
  ctx : Nat
  va : Nat
  size : Nat
  pte : Word
  deriving DecidableEq, Repr

/-- A binding of an address group, R220, R231; `lingers` is the cycle from on which none of its packets is in a switch any more, once a
reduction on it has ended early. -/
structure AgBind where
  agid : Nat
  gen : Nat
  members : List Nat
  myidx : Nat
  staledrop : Nat
  lingers : Nat
  deriving DecidableEq, Repr

/-- A context's control block and tables, R30, R311. -/
structure Ctx where
  enable : Bool
  part : Nat
  fqbase : Word
  fqsize : Word
  fqtail : Word
  fqhead : Word
  tlbinvst : Word
  invPending : List Nat
  roots : Vector Word 16
  tids : List (Nat × BitVec 256)
  faults : List FaultEnt
  nextFseq : Nat
  agids : List AgBind
  deriving DecidableEq, Repr

/-- A mutex line, R271: holder and requests in order, as (launch, logical core). -/
structure MutexLine where
  holder : Option (Nat × Nat)
  queue : List (Nat × Nat)
  deriving DecidableEq, Repr

/-- A barrier line, R270, R273. -/
structure BarLine where
  gen : BitVec 16
  arrived : List (Nat × Nat)
  gbind : Bool
  group : BitVec 8
  count : Nat
  deriving DecidableEq, Repr

/-- One context's set of lines in a cluster's event unit, R269. -/
structure EvSet where
  cluster : Nat
  ctx : Nat
  bars : Vector BarLine 16
  mutexes : Vector MutexLine 16
  events : Vector Nat 32
  deriving DecidableEq, Repr

/-- What happens when a delivery's last line has landed, R148, R210, R212, R214, R252, R288. -/
inductive DoneAct where
  | none
  | cmd (c : CoreId) (p : EngClass) (ticket : Nat)
  | tour (tour stop outcome : Nat)
  | reread (tour stop ticket : Nat)
  | mcast (sender : CoreId) (ticket bit : Nat) (bobj : Option Nat)
  deriving DecidableEq, Repr

/-- What follows the last line of an access of an engine to a scratchpad: nothing; a copy command has read its source; the forward of an SHF.REL has read its lines; a command of a class
has written its status record; a chunk of a reduction is written. -/
inductive AccAct where
  | none
  | read (ticket : Nat)
  | forward (ticket : Nat)
  | record (p : EngClass) (ticket : Nat)
  | chunk (ticket k : Nat)
  deriving DecidableEq, Repr

/-- An access of an engine to the scratchpad of a logical core that is no delivery, R14, R15: the lines still to be accessed in order, each
with its local address and the cells that it writes (none for a read). -/
structure Access where
  id : Nat
  core : CoreId
  lines : List (Nat × List Host.Cell)
  act : AccAct
  deriving DecidableEq, Repr

/-- A delivery in progress into a scratchpad, R15, R148: the lines still to land in order, `ring` or a local address; `ready` is
the cycle in which its last line is due, `failed` a receiver of a multicast that faults (R214). -/
structure Delivery where
  id : Nat
  core : CoreId
  ring : Option Nat
  addr : Nat
  total : Nat
  lines : List (List Byte)
  begun : Bool
  ready : Nat
  failed : Bool
  act : DoneAct
  deriving DecidableEq, Repr

/-- A message or log entry on its way, R193, R197, with the cycle of its commit. -/
structure Packet where
  id : Nat
  at_ : Nat
  src : Nat
  lh : Nat
  dst : Nat
  addr : Nat
  due : Nat
  body : MsgKind ⊕ LogEntry
  deriving DecidableEq, Repr

/-- A timed line on its way, R186, R278, with the logical core that sent it and the cycle of its issue. -/
structure TLine where
  id : Nat
  src : Nat
  at_ : Nat
  core : CoreId
  addr : Nat
  bytes : List Byte
  due : Nat
  deriving DecidableEq, Repr

/-- The state of a tour's stop, R287. -/
inductive TourStop where
  | pending | served | deferred | missed
  deriving DecidableEq, Repr

/-- A sheaf tour, R252 to R254, R287, R295 to R299: its reader and ticket, the tensor word, descriptor and itinerary it took,
the tile's lines, and for each stop its state, the cycle its tile arrived, and whether it has been forwarded, is late, or is
being served by gleaning (1) or from the parking area (2). `slot` is its place in the parking area, `parking` says that the tile is being written there, `parkFault`
names the fault entry that the write or a read waits on, `parkPage` counts the pages of the write that are done, and `gleanAt` keeps what a read
that has faulted has read: its stop, the pages done and their bytes (R319). -/
structure Tour where
  id : Nat
  core : CoreId
  ticket : Nat
  ix : Nat
  tw : Word
  desc : BitVec 256
  itin : Itin
  tile : List (List Byte)
  stops : List TourStop
  arrived : List (Option Nat)
  forwarded : List Bool
  late : List Bool
  glean : List Nat
  slot : Option Nat
  read : Bool
  gleaning : Bool
  parking : Bool
  parked : Bool
  parkFault : Option Nat
  parkPage : Nat
  gleanAt : Option (Nat × Nat × List Byte)
  parkrd : Nat
  status : Nat
  ended : Bool
  deriving DecidableEq, Repr

/-- What the package keeps for a vacated core outside its segments, in the order in which it reached the core, R246, R344: a message or log
entry, bytes that an engine or a timed line wrote, and flags that an engine raised. -/
inductive Kept where
  | packet (p : Packet)
  | cells (cs : List Host.Cell)
  | flags (fl : BitVec 8)
  deriving DecidableEq, Repr

/-- A saved logical core, R245, R342: TIME at its entry to SAVING, the place of its segments in device memory and their number, the trace SEQ
that they hold, and what reached it after that. -/
structure Saved where
  id : CoreId
  ctx : Nat
  lhandle : Nat
  time : Nat
  place : Nat
  count : Nat
  seq : Nat
  kept : List Kept
  deriving DecidableEq, Repr

/-- A write of device memory on the CTX path whose translation has faulted: it is performed when its fault entry is resumed with RETRY,
R318, R319. -/
structure CtxWrite where
  ctx : Nat
  fseq : Nat
  va : Nat
  bytes : List Byte
  deriving DecidableEq, Repr

/-- A management log record, R379: TIME, kind, source and detail. -/
structure LogRec where
  time : Nat
  kind : Nat
  source : Nat
  detail : Nat
  deriving DecidableEq, Repr

/-- A key slot, R326. -/
structure KeySlot where
  key : List Byte
  mask : BitVec 3
  deriving DecidableEq, Repr

/-- A hardware partition of the signed configuration, R310, R331, R388. -/
structure Partition where
  clusters : List Nat
  base : Nat
  limit : Nat
  chans : List Nat
  unsignedOk : Bool
  testOk : Bool
  deriving DecidableEq, Repr

/-- The signed configuration, R310, R316, R364, R373, R384. -/
structure SignedConfig where
  parts : List Partition
  threshold : Nat
  exports : List (Nat × Nat × Nat)
  package : Nat
  portERoot : Bool
  appPower : Bool
  cap : Nat
  deriving DecidableEq, Repr

/-- An SPDM response, R327. -/
inductive Spdm where
  | version
  | capabilities
  | algorithms (asym hash : BitVec 32)
  | digests (d : List (List Byte))
  | certificate (b : List Byte)
  | challengeAuth (sig : List Byte)
  | measurements (ms : List (Nat × List Byte))
  | error
  deriving DecidableEq, Repr

/-- One corrected HBM error remembered, R367. -/
structure HbmErr where
  ch : Nat
  bank : Nat
  row : Nat
  col : Nat
  time : Nat
  deriving DecidableEq, Repr

/-- The repairs of R367: a bank that is being copied or has been, a column, and rows and cells, softly until the next reboot and then hard. -/
inductive Repair where
  | bankCopy (ch bank : Nat)
  | bank (ch bank : Nat)
  | column (ch bank col : Nat)
  | rowSoft (ch bank row : Nat)
  | cellSoft (ch bank row col : Nat)
  | row (ch bank row : Nat)
  | cell (ch bank row col : Nat)
  deriving DecidableEq, Repr

/-- The management complex and its window, R368, R378 to R387. `rebring` marks the partitions in re-bring-up, `nextConfig` and
`nextKeys` wait for the next reboot, `cleared` lists the cores whose quarantine has been cleared while their spare is still bound. `seals`
holds the signature of each sealed block of the log; `fwTries` counts the failed boots of a new firmware slot, until it has booted;
`configSigs` holds the key slot, message and signature of each part of the configuration record, and `appSig` the key slot and signature of the
application die's boot image; `spdmA` and `spdmB` gather what a CHALLENGE signs; `retired` lists the 4 KiB pages retired; `portChans` is
the channel list of each partition as the management port reports it (R388); `withhold` counts the cycles that each die is still to lose for CAP,
`heldNow` those that it has lost in this millisecond, and `lost` names the dies that lose the current one (R385); `dieScrub` is the cycle in
which the scrub of each die's cores at bring-up ends (R321). -/
structure Mgmt where
  spares : Vector Nat 4
  retire : Bool
  hbmex : Bool
  spareex : Bool
  ready : BitVec 64
  pready : BitVec 4
  toffset : Int
  tsrc : Nat
  tport : Nat
  slewing : Int
  freerun : Bool
  lock : Bool
  tdomain : BitVec 8
  srcsel : BitVec 2
  cap : Nat
  power : Nat
  whelp : Nat
  throt : Bool
  hot : BitVec 4
  capped : BitVec 4
  withhold : Vector Nat 4
  heldNow : Vector Nat 4
  lost : BitVec 4
  dieScrub : Vector Nat 4
  dieOff : BitVec 4
  sensors : List Nat
  log : List LogRec
  overwritten : Nat
  seals : List (List Byte)
  fwB : Bool
  fwImages : List Byte × List Byte
  fwPending : Bool
  fwTries : Option Nat
  keys : Vector KeySlot 16
  config : SignedConfig
  configSigs : List (Nat × List Byte × List Byte)
  cert : List Byte
  spdm : List Spdm
  spdmA : List Byte
  spdmB : List Byte
  hbmErrs : List HbmErr
  repairs : List Repair
  retired : List Nat
  portChans : List (List Nat)
  rebring : BitVec 4
  bootDone : Bool
  nextConfig : Option (SignedConfig × List (Nat × List Byte × List Byte))
  nextKeys : Option (Vector KeySlot 16)
  cleared : List Nat
  appImage : List Byte
  appSig : Nat × List Byte
  deriving DecidableEq, Repr

/-- What carries a release that a core acquires, R171: a line of an event unit, by its offset, or a group's barrier. -/
inductive SyncAt where
  | line (cluster ctx off : Nat)
  | group (lh g : Nat)
  deriving DecidableEq, Repr

/-- A scheduled step of the machine's own: its cycle, whether it follows the cycle's issues, the event, and the parts of its latency when
it spans dies, R386. -/
structure Due where
  at_ : Nat
  post : Bool
  ev : Instr
  legs : List Leg
  deriving DecidableEq, Repr

/-- The whole package. `core` is the logical core that issues next, `others` the rest; `poison` lists the 64-byte lines of device
memory that hold an uncorrectable error (R322); `dynUse` names the banks that dynamic requesters have used in this cycle (R14); `walks` holds the walks under way, each with its die and the cycle in which it ends (R317); `requests` names the cores that are held for a launch until it takes them, R248; `timers` holds the steps that are due at a TIME, in
1/66,000 ns (R2), and `carried` the packets still on their way that the releases at a line or a group barrier have ordered (R172, R173). -/
structure State where
  core : Core
  others : List Core
  now : Nat
  timeFine : Nat
  agenda : List Due
  timers : List (Nat × Instr)
  inputs : List (Nat × Instr)
  fresh : Nat
  nextId : Nat
  launches : List Launch
  queues : List (Nat × LQueue)
  slots : List (Nat × SlotRec)
  phys : List (Nat × Phys)
  ctxs : List (Nat × Ctx)
  tlb : List TlbEnt
  walks : List (Nat × Nat)
  hbm : Mem
  poison : List Nat
  evsets : List EvSet
  packets : List Packet
  tlines : List TLine
  carried : List (SyncAt × List Nat)
  delivs : List Delivery
  accs : List Access
  ctxWrites : List CtxWrite
  dynUse : List (CoreId × Nat)
  tours : List Tour
  saved : List Saved
  hostReads : List (Nat × List Byte)
  interrupts : List Nat
  peerWrites : List (Nat × Nat × List Byte)
  completions : List (Nat × Nat × Nat)
  peerReplies : List (Nat × Option (List Byte))
  requests : List Request
  mgmt : Mgmt
  deriving DecidableEq, Repr

/-- Why a step stops with a fault: every error that the spec describes is a trap, a status or a kill instead. -/
inductive Fault where
  /-- Raised by HOST_PATH_ACCESS alone: the address lies outside the 512 GB of device memory, where the spec puts nothing. Safe. -/
  | outsideMemory
  deriving DecidableEq, Repr

/-- Why a step is refused. -/
inductive Refusal where
  /-- An arm of Dispatch that has no meaning yet. Safe: nothing is claimed of the instruction. -/
  | notModelled (mnemonic : String)
  /-- Raised by CTX_ECMD in management mode only: R48 gives no list of those commands. Safe: the step claims nothing. -/
  | ctxCommandNotGiven
  deriving DecidableEq, Repr

/-- An unconfigured ring, R33. -/
def Ring.none : Ring := ⟨false, 0, 0, 0, 0, 0, 0, 0, 0, 0, 0⟩
/-- An unconfigured stream, R128. -/
def Stream.none : Stream := ⟨false, false, 0, 0, 0, 0, 0, false, 0⟩

/-- The registers as a scrub leaves them (R321), every register live and every seed 1 (log entry 1). -/
def Arch.clear : Arch where
  x := Vector.replicate 32 0
  v := Vector.replicate 16 0
  k := Vector.replicate 8 0
  livex := BitVec.allOnes 32
  livev := BitVec.allOnes 16
  lc := Vector.replicate 2 0
  ls := Vector.replicate 2 0
  le := Vector.replicate 2 0
  streams := Vector.replicate 4 Stream.none
  seed := Vector.replicate 16 1
  status := 0
  fflags := 0

/-- A scan engine never configured, R293. -/
def Scan.idle : Scan := ⟨Option.none, 0, 0, 0, 0, false, 0, false, [], Option.none, 0, [], 0, false, [], [], 0, Option.none⟩

/-- A scrubbed core to which nothing is bound, R243 state EMPTY, R321. -/
def Core.empty : Core where
  id := ⟨0, 0, false⟩
  ctx := 0
  slot := 0
  row := 0
  col := 0
  binds := 1
  run := .empty
  pc := 0
  arch := Arch.clear
  ckpt := Arch.clear
  cause := 0
  tval := 0
  epc := 0
  trapvec := 0
  regpc := 0
  regcnt := 0
  reglim := 8
  skip := false
  anchor := none
  anchored := false
  iseq := 0
  landX := Vector.replicate 32 0
  landV := Vector.replicate 16 0
  landK := Vector.replicate 8 0
  heldX := []
  heldV := []
  nextIssue := 0
  flights := []
  raisedAt := 0
  raised := 0
  bankUse := []
  mem := []
  code := []
  gaps := []
  sbuf := []
  drainq := []
  nextDrain := 0
  rings := Vector.replicate 8 Ring.none
  erings := Vector.replicate 8 Ring.none
  tails := []
  eseq := Vector.replicate 5 0
  issued := Vector.replicate 5 0
  cycles := 0
  window := none
  winFirst := 0
  winCount := 0
  slotFirst := 0
  slotCount := 0
  slaved := false
  drainHold := false
  forwards := []
  mma := []
  mmaErr := false
  mmaFail := 0
  mmaLast := 0
  copies := []
  shfs := []
  colls := []
  graphs := []
  stops := []
  tours := []
  scan := Scan.idle
  armed := Vector.replicate 16 none
  msgDrop := 0
  logDrop := 0
  log := []
  arrivedAt := []
  credits := []
  ownItins := []
  firstAt := 0
  seen := []
  loadAfter := []
  snapD := none
  atom := none
  traceBase := 0
  traceXb := 0
  traceSeq := 0
  failed := []
  undo := []
  undoSent := 0
  staged := []
  stagedBytes := 0
  image := none
  mirror := []
  mirrorN := 0

/-- The bytes of device memory: 512 GB, R1, R3. -/
def deviceBytes : Nat := 512 * 10 ^ 9
/-- The default configuration, R388: one partition holds the whole package, up to the last multiple of 1 GiB that 512 GB hold (R310), and all
256 channels in stack order; test is not permitted, the quarantine threshold is 2 (R364), nothing is exported (log entry 4). -/
def SignedConfig.default : SignedConfig where
  parts := [⟨List.range 144, 0, 476 * 2 ^ 30, List.range 256, false, false⟩]
  threshold := 2
  exports := []
  package := 0
  portERoot := false
  appPower := false
  cap := 2800

/-- The management registers at power-on, R368, R378, R381, R382, R384, R387. -/
def Mgmt.reset : Mgmt where
  spares := Vector.replicate 4 24
  retire := false
  hbmex := false
  spareex := false
  ready := 0
  pready := 0
  toffset := 0
  tsrc := 0
  tport := 0
  slewing := 0
  freerun := false
  lock := false
  tdomain := 0
  srcsel := 0
  cap := 2800
  power := 0
  whelp := 0
  throt := false
  hot := 0
  capped := 0
  withhold := Vector.replicate 4 0
  heldNow := Vector.replicate 4 0
  lost := 0
  dieScrub := Vector.replicate 4 0
  dieOff := 0
  sensors := []
  log := []
  overwritten := 0
  seals := []
  fwB := false
  fwImages := ([], [])
  fwPending := false
  fwTries := none
  keys := Vector.replicate 16 ⟨[], 0⟩
  config := SignedConfig.default
  configSigs := []
  cert := []
  spdm := []
  spdmA := []
  spdmB := []
  hbmErrs := []
  repairs := []
  retired := []
  portChans := []
  rebring := 0
  bootDone := false
  nextConfig := none
  nextKeys := none
  cleared := []
  appImage := []
  appSig := (0, [])

/-- The package right after power-on: no core bound, no launch taken, memory with nothing listed. -/
def State.reset : State where
  core := Core.empty
  others := []
  now := 0
  timeFine := 0
  agenda := []
  timers := []
  inputs := []
  fresh := 0
  nextId := 0
  launches := []
  queues := []
  slots := []
  phys := []
  ctxs := []
  tlb := []
  walks := []
  hbm := []
  poison := []
  evsets := []
  packets := []
  tlines := []
  carried := []
  delivs := []
  accs := []
  ctxWrites := []
  dynUse := []
  tours := []
  saved := []
  hostReads := []
  interrupts := []
  peerWrites := []
  completions := []
  peerReplies := []
  requests := []
  mgmt := Mgmt.reset

end Sys2Proof.Machine
end

