-- ==== Sys2Proof/Machine/Basic.lean ====
section
/-! DEFINITION. Bytes, sparse memory, and the look-up and update of the parts of the state. -/

namespace Sys2Proof.Machine

/-- The outcome of a meaning. -/
abbrev Out := Host.Outcome State Fault Refusal

/-! ### Bytes, little-endian (R6, R78) -/

/-- The number of a byte string. -/
def leNat : List Byte → Nat
  | [] => 0
  | b :: bs => b.toNat + 256 * leNat bs

/-- The `n` bytes of a number, modulo 256^n. -/
def leBytes : Nat → Nat → List Byte
  | 0, _ => []
  | n + 1, v => BitVec.ofNat 8 v :: leBytes n (v / 256)

/-- Bits hi … lo of a number (R6). -/
def bitsOf (v hi lo : Nat) : Nat := v / 2 ^ lo % 2 ^ (hi - lo + 1)
/-- Bit i of a number. -/
def bitOf (v i : Nat) : Bool := v / 2 ^ i % 2 == 1

/-- The elements of a list of pairs under a key. -/
def alGet {α : Type} (l : List (Nat × α)) (k : Nat) : Option α :=
  match l with
  | [] => none
  | (j, v) :: t => if j = k then some v else alGet t k

/-- A list of pairs in rising order of keys, with a key set. -/
def alSet {α : Type} (l : List (Nat × α)) (k : Nat) (v : α) : List (Nat × α) :=
  match l with
  | [] => [(k, v)]
  | (j, w) :: t => if k < j then (k, v) :: (j, w) :: t else if k = j then (k, v) :: t else (j, w) :: alSet t k v

/-- A list of pairs without a key. -/
def alDel {α : Type} (l : List (Nat × α)) (k : Nat) : List (Nat × α) := l.filter (fun p => p.1 != k)

/-- The n-th element of a list, or a default. -/
def nth {α : Type} (l : List α) (n : Nat) (d : α) : α :=
  match l, n with
  | [], _ => d
  | a :: _, 0 => a
  | _ :: t, k + 1 => nth t k d

/-- The position of the first element a test accepts. -/
def indexOf? {α : Type} (p : α → Bool) (l : List α) : Option Nat :=
  match l with
  | [] => none
  | a :: t => if p a then some 0 else (indexOf? p t).map (· + 1)

/-- A list cut into pieces of n, by the number of pieces. -/
def pieces {α : Type} (n : Nat) : Nat → List α → List (List α)
  | 0, _ => []
  | k + 1, l => l.take n :: pieces n k (l.drop n)

/-- A list filled or cut to n bytes. -/
def padTo (n : Nat) (l : List Byte) : List Byte := (l ++ List.replicate (n - l.length) 0).take n

/-! ### Sparse memory in canonical form -/

/-- The byte at an address; an unlisted address reads as 0 (R321; log entry 5 for device memory). -/
def Mem.get (m : Mem) (a : Nat) : Byte :=
  match m with
  | [] => 0
  | (k, v) :: t => if a = k then v else Mem.get t a

/-- The memory without the bytes of the addresses a test names. -/
def Mem.dropIf (m : Mem) (p : Nat → Bool) : Mem := m.filter (fun c => !p c.1)

/-- The memory with one entry put in its place. -/
def Mem.put (m : Mem) (a : Nat) (b : Byte) : Mem :=
  match m with
  | [] => [(a, b)]
  | (k, v) :: t => if a < k then (a, b) :: (k, v) :: t else (k, v) :: Mem.put t a b

/-- The memory with one byte written; writing what an unlisted address reads as removes the entry. -/
def Mem.set (m : Mem) (a : Nat) (b : Byte) : Mem :=
  if b = 0 then m.dropIf (· == a) else (m.dropIf (· == a)).put a b

/-- The canonical form: addresses strictly rising, from `lo` on, and no byte that an unlisted address would read as. -/
def Mem.wfFrom (lo : Nat) (m : Mem) : Bool :=
  match m with
  | [] => true
  | (k, v) :: t => decide (lo ≤ k) && v != 0 && Mem.wfFrom (k + 1) t
/-- The canonical form of a memory. -/
def Mem.wf (m : Mem) : Bool := Mem.wfFrom 0 m

/-- `n` bytes from an address on. -/
def Mem.getN (m : Mem) (a : Nat) : Nat → List Byte
  | 0 => []
  | n + 1 => m.get a :: Mem.getN m (a + 1) n

/-- The memory with bytes written from an address on. -/
def Mem.setN (m : Mem) (a : Nat) (bs : List Byte) : Mem :=
  match bs with
  | [] => m
  | b :: t => Mem.setN (m.set a b) (a + 1) t

/-- The memory with listed bytes written in order. -/
def Mem.setCells (m : Mem) (cs : List Host.Cell) : Mem := cs.foldl (fun m c => m.set c.1 c.2) m

/-- The number in `n` bytes at an address. -/
def Mem.num (m : Mem) (a n : Nat) : Nat := leNat (m.getN a n)

/-- Bytes of a peer package read through the aperture. -/
def peerBytes (pkg pa n fresh : Nat) : List Byte := (List.range n).map (fun i => Config.peerByte pkg (pa + i) fresh)

/-- Bytes written to physical device memory; a line that is wholly rewritten is poisoned no more, R322. -/
def State.hbmWrite (s : State) (pa : Nat) (bs : List Byte) : State :=
  { s with
    hbm := s.hbm.setN pa bs
    poison := s.poison.filter (fun l => !(decide (pa ≤ 64 * l) && decide (64 * l + 64 ≤ pa + bs.length))) }

/-! ### Cores -/

/-- The default launch record. -/
def LaunchRec.zero : LaunchRec :=
  ⟨2, 1, 1, 0, 0, 0, false, false, false, false, false, 5, 0, 0, 0, 0, 0, [0, 0, 0], none, none, 0, 0, 0, 0⟩
/-- An empty kernel. -/
def Kernel.zero : Kernel := ⟨[], [], [], 0, [], [], [], [], 0⟩

/-- Every core of the package, the one that issues next first. -/
def State.cores (s : State) : List Core := s.core :: s.others

/-- The core of an identity. -/
def State.core? (s : State) (id : CoreId) : Option Core := s.cores.find? (fun c => c.id == id)

/-- A change of every core a test names. -/
def State.mapCores (s : State) (p : Core → Bool) (f : Core → Core) : State :=
  { s with core := if p s.core then f s.core else s.core, others := s.others.map (fun c => if p c then f c else c) }

/-- A change of the core of an identity. -/
def State.updCore (s : State) (id : CoreId) (f : Core → Core) : State := s.mapCores (fun c => c.id == id) f

/-- A core brought forward to issue next; without such a core, no change. -/
def State.focus (s : State) (id : CoreId) : State :=
  if s.core.id = id then s else
  match s.others.find? (fun c => c.id == id) with
  | some c => { s with core := c, others := s.others.filter (fun d => d.id != id) ++ [s.core] }
  | none => s

/-- The cores of a launch. -/
def State.coresOf (s : State) (lh : Nat) : List Core := s.cores.filter (fun c => c.id.lh == lh)

/-- Whether a core is bound and neither stops nor has halted: it issues, sleeps, or is held by the firmware. -/
def Core.resident (c : Core) : Bool :=
  match c.run with
  | .ready | .waiting _ | .onFault _ | .resetting | .rolling | .trapped => true
  | .empty | .halted | .stopping | .saving | .vacated | .fenced => false

/-- What reaches a vacated logical core kept with its saved context, behind what has reached it before, R246, R344. -/
def State.keepAct (s : State) (id : CoreId) (k : Kept) : State :=
  { s with saved := s.saved.map (fun (v : Saved) =>
      if v.lhandle == id.lh && v.id.lc == id.lc && !v.id.twin then { v with kept := v.kept ++ [k] } else v) }

/-! ### Launches, contexts, queues -/

/-- The launch of a handle. -/
def State.launch? (s : State) (h : Nat) : Option Launch := s.launches.find? (fun l => l.h == h)
/-- A change of the launch of a handle. -/
def State.updLaunch (s : State) (h : Nat) (f : Launch → Launch) : State :=
  { s with launches := s.launches.map (fun l => if l.h == h then f l else l) }
/-- An unset context block, R311. -/
def Ctx.zero : Ctx := ⟨false, 0, 0, 0, 0, 0, 0, [], Vector.replicate 16 0, [], [], 1, []⟩
/-- The block of a context. -/
def State.ctx (s : State) (n : Nat) : Ctx := (alGet s.ctxs n).getD Ctx.zero
/-- A change of a context's block. -/
def State.updCtx (s : State) (n : Nat) (f : Ctx → Ctx) : State := { s with ctxs := alSet s.ctxs n (f (s.ctx n)) }
/-- A launch queue at its reset values, R237. -/
def LQueue.zero : LQueue := ⟨0, 0, 0, 0, 0, 0, false, false, 1000, 10000, 11000⟩
/-- The registers of a launch queue. -/
def State.queue (s : State) (q : Nat) : LQueue := (alGet s.queues q).getD LQueue.zero
/-- A change of a launch queue. -/
def State.updQueue (s : State) (q : Nat) (f : LQueue → LQueue) : State := { s with queues := alSet s.queues q (f (s.queue q)) }
/-- A slot record at reset, R243. -/
def SlotRec.zero : SlotRec := ⟨0, 0, 0, 0, 0, .empty⟩
/-- The record of a physical core. -/
def State.slotRec (s : State) (i : Nat) : SlotRec := (alGet s.slots i).getD SlotRec.zero
/-- Whether a core is resident: one that a bind record names in state VACATE is not, whether it has stopped or not, R243. -/
def State.isResident (s : State) (c : Core) : Bool := c.resident && (s.slotRec c.slot).state == .run
/-- A change of a slot record. -/
def State.updSlot (s : State) (i : Nat) (f : SlotRec → SlotRec) : State := { s with slots := alSet s.slots i (f (s.slotRec i)) }

/-- The groups that hold a logical core, in ascending order, R23. -/
def Kernel.groupsWith (k : Kernel) (lc : Nat) : List Nat :=
  (List.range k.groups.length).filter (fun g => (nth k.groups g []).contains lc)
/-- Whether a logical core is bound and not dispatched yet: it is in BIND for the first time, R243, R259. -/
def State.bindingCore (s : State) (id : CoreId) : Bool :=
  s.slots.any (fun p => p.2.lhandle == id.lh && p.2.lcore == id.lc && p.2.state == .bind)
/-- The kernel a core runs. -/
def State.kernOf (s : State) (lh : Nat) : Kernel := ((s.launch? lh).map (·.kern)).getD Kernel.zero
/-- The record of a core's launch. -/
def State.recOf (s : State) (lh : Nat) : LaunchRec := ((s.launch? lh).map (·.lrec)).getD LaunchRec.zero
/-- Whether a core's launch uses Umbra, R356. -/
def State.umbra (s : State) (lh : Nat) : Bool := (s.recOf lh).umbra

/-- TIME in ns, R376, from a count in 1/66,000 ns (a cycle is 20,000 of them at the nominal rate). -/
def State.ns (s : State) : Nat := s.timeFine / 66000
/-- TIME as the offset of TIMECTL has it, R378. -/
def State.timeNs (s : State) : Nat := s.ns
/-- The most cycles that surely fit a number of ns of TIME, however TIME is slewed (R2, R377). -/
def cyclesIn (ns : Nat) : Nat := ns * 3298 / 1000
/-- A number of ns in the unit of TIME's count. -/
def fineOf (ns : Nat) : Nat := ns * 66000

/-- Half of the cycles of a millisecond, the most that a die withholds, R385. -/
def halfPeriod : Nat := 1650000
/-- One count for each die. -/
def perDie (f : Fin 4 → Nat) : Vector Nat 4 := #v[f 0, f 1, f 2, f 3]
/-- Whether a die loses the current cycle, R385. -/
def State.withheld (s : State) (die : Nat) : Bool := s.mgmt.lost.getLsbD die

/-- An event scheduled for a cycle that a latency over several dies leads to, R386. -/
def State.schedLegs (s : State) (at_ : Nat) (post : Bool) (ev : Instr) (legs : List Leg) : State :=
  { s with agenda := s.agenda ++ [⟨at_, post, ev, legs⟩] }
/-- An event scheduled for a cycle. -/
def State.sched (s : State) (at_ : Nat) (post : Bool) (ev : Instr) : State := s.schedLegs at_ post ev []
/-- An event scheduled for a TIME, in 1/66,000 ns, R2. -/
def State.schedTime (s : State) (fine : Nat) (ev : Instr) : State := { s with timers := s.timers ++ [(fine, ev)] }
/-- An event scheduled unless it already is. -/
def State.schedOnce (s : State) (at_ : Nat) (post : Bool) (ev : Instr) : State :=
  if s.agenda.any (fun d => d.ev == ev) then s else s.sched at_ post ev
/-- An event put before the others that are due, behind none. -/
def State.schedFirst (s : State) (at_ : Nat) (post : Bool) (ev : Instr) : State :=
  { s with agenda := ⟨at_, post, ev, []⟩ :: s.agenda }
/-- The next free value's argument. -/
def State.tickFresh (s : State) : State := { s with fresh := s.fresh + 1 }

end Sys2Proof.Machine
end

