-- ==== Sys2Proof/Machine/Phys.lean ====
section
/-! DEFINITION. The physical cores: their places, suspect scores, quarantine and substitution (spec/01_machine.md R7;
spec/18_recovery.md R364, R369), and the management log (spec/20_attachment.md R379). -/

namespace Sys2Proof.Machine

/-- The kinds of the management log's records; R379 gives them no codes (log entry 24). -/
inductive LogKind where
  | badSlotWrite | header | uncorrectable | quarantine | noSpare | hbmClass | hbmRepair | retire | configuration | firmware | thermal | overwritten
  deriving DecidableEq, Repr
/-- The code of a kind. -/
def LogKind.code : LogKind → Nat
  | .badSlotWrite => 1
  | .header => 2
  | .uncorrectable => 3
  | .quarantine => 4
  | .noSpare => 5
  | .hbmClass => 6
  | .retire => 7
  | .configuration => 8
  | .firmware => 9
  | .thermal => 10
  | .hbmRepair => 11
  | .overwritten => 12

/-- The 64 bytes of a record, R379: TIME, kind, source and detail, whose widths are the model's (log entry 24). -/
def LogRec.bytes (r : LogRec) : List Byte := leBytes 8 r.time ++ leBytes 4 r.kind ++ leBytes 4 r.source ++ leBytes 48 r.detail
/-- The seal of the block of a log that holds its last record: an Ed448 signature under the identity key, R379. -/
def sealLast (l : List LogRec) : List Byte :=
  leBytes 114 (Config.ed448Sign ((l.drop ((l.length - 1) / 64 * 64)).flatMap LogRec.bytes)).toNat
/-- A record written to the management log; a 4 KiB block of 64 records is sealed when it fills, and the oldest sealed
block is overwritten when the region of 64 MiB is full, and the newest block begins with a record of their count, R379. -/
def State.log (s : State) (k : LogKind) (source detail : Nat) : State :=
  let m := s.mgmt
  let full := m.log.length ≥ 2 ^ 20
  let gone := if full then m.overwritten + 1 else m.overwritten
  let l := (if full then m.log.drop 64 ++ [⟨s.timeNs, LogKind.overwritten.code, 0, gone⟩] else m.log) ++ [⟨s.timeNs, k.code, source, detail⟩]
  let old := if full then m.seals.drop 1 else m.seals
  { s with mgmt := { m with
    log := l
    overwritten := gone
    seals := if l.length % 64 = 0 then old.take (l.length / 64 - 1) ++ [sealLast l] else old } }

/-- The record of a physical core. -/
def State.physOf (s : State) (ix : Nat) : Phys := (alGet s.phys ix).getD ⟨0, false, none, 0⟩
/-- The die of a physical core's index, R243. -/
def physDie (ix : Nat) : Nat := ix / 600
/-- Its row on the die. -/
def physRow (ix : Nat) : Nat := ix % 600 / 25
/-- Its column on the die; column 24 is the row's spare, R7. -/
def physCol (ix : Nat) : Nat := ix % 25

/-- The exposed position of a physical core: its own, or the one it was substituted into, R7; none for a free spare. -/
def State.exposedOf (s : State) (ix : Nat) : Option (Nat × Nat) :=
  let p := s.physOf ix
  if p.quarantined then none else
  match p.exposed with
  | some e => some e
  | none => if physCol ix = 24 then none
            else some (physDie ix / 2 * 24 + physRow ix, physDie ix % 2 * 24 + physCol ix)

/-- A free spare of a die: in service, substituted nowhere and empty. -/
def State.freeSpare (s : State) (ix : Nat) : Bool :=
  !(s.physOf ix).quarantined && (s.exposedOf ix).isNone && (s.slotRec ix).state == .empty

/-- A physical core enters EMPTY, or FENCED when it is quarantined (R243, R364): it is scrubbed in the 1,024 cycles that follow, R321.
One that is FENCED stays so. -/
def State.enterEmpty (s : State) (ix : Nat) : State :=
  if (s.slotRec ix).state == .fenced then s else
  let p := s.physOf ix
  let s := s.updSlot ix (fun _ => { SlotRec.zero with state := if p.quarantined then .fenced else .empty })
  { s with phys := alSet s.phys ix { p with scrubbed := s.now + 1024 } }
/-- Whether a physical core is EMPTY and scrubbed, since it entered EMPTY and since bring-up, so that BIND may be written to it, R321. -/
def State.scrubbed (s : State) (ix : Nat) : Bool :=
  (s.slotRec ix).state == .empty && decide ((s.physOf ix).scrubbed ≤ s.now) && decide (nth s.mgmt.dieScrub.toList (physDie ix) 0 ≤ s.now)

/-- The spare that takes a core's place: of its row when there is one, else of its die, R7. Among the free spares of the die, R7 leaves
the choice to the firmware; the model takes the one of the lowest row (DESIGN CHOICE, log entry 53). -/
def State.spareFor (s : State) (ix : Nat) : Option Nat :=
  let d := physDie ix
  let row := d * 600 + physRow ix * 25 + 24
  if s.freeSpare row then some row else
  ((List.range 24).map (fun r => d * 600 + r * 25 + 24)).find? (fun i => s.freeSpare i)

/-- A core quarantined: an EMPTY one is FENCED at once, one that is bound as soon as it has left (R243); a spare takes its position, or the position stays unavailable, with SPAREEX and a record, R364, R369. -/
def State.quarantine (s : State) (ix : Nat) : State :=
  if (s.physOf ix).quarantined then s else
  let pos := s.exposedOf ix
  let spare := s.spareFor ix
  let s := { s with phys := alSet s.phys ix { s.physOf ix with quarantined := true, exposed := none } }
  let s := if (s.slotRec ix).state == .empty then s.updSlot ix (fun r => { r with state := .fenced }) else s
  let s := s.log .quarantine ix (s.physOf ix).score
  let d := physDie ix
  let fewer : Vector Nat 4 := if h : d < 4 then s.mgmt.spares.set d (s.mgmt.spares[d] - 1) else s.mgmt.spares
  match pos with
  | none => { s with mgmt := { s.mgmt with spares := fewer } }
  | some e =>
    match spare with
    | some j => { s with phys := alSet s.phys j { s.physOf j with exposed := some e }, mgmt := { s.mgmt with spares := fewer } }
    | none => { s with mgmt := { s.mgmt with spareex := true } }.log .noSpare ix 0

/-- A blame, or an escalation: the suspect score rises by 1 up to 15, and at the threshold the core is quarantined, R364. -/
def State.blame (s : State) (ix : Nat) : State :=
  let p := s.physOf ix
  let n := Nat.min 15 (p.score + 1)
  let s := { s with phys := alSet s.phys ix { p with score := n } }
  if n ≥ s.mgmt.config.threshold then s.quarantine ix else s

end Sys2Proof.Machine
end

