-- ==== Sys2Proof/Machine/Fp.lean ====
section
/-! DEFINITION. Floating-point values, exact until one rounding (spec/04_number_formats.md R77 to R93,
spec/05_isa_integer_lane.md R113 to R123). A finite value is a sign, a natural number and an exponent of two. -/

namespace Sys2Proof.Machine

/-- A float format, R77, R80. `maxMag` encodes the largest finite magnitude; `ieee` says that the top exponent holds the
infinity and the NaNs; `nan` is the canonical NaN. -/
structure FloatFmt where
  e : Nat
  m : Nat
  bias : Nat
  maxMag : Nat
  ieee : Bool
  nan : Option Nat
  negZero : Bool
  deriving DecidableEq, Repr

/-- FP4, R80. -/
def fmtFp4 : FloatFmt := ⟨2, 1, 1, 0x7, false, none, false⟩
/-- FP6A. -/
def fmtFp6a : FloatFmt := ⟨2, 3, 1, 0x1F, false, none, false⟩
/-- FP6B. -/
def fmtFp6b : FloatFmt := ⟨3, 2, 3, 0x1F, false, none, false⟩
/-- FP8A. -/
def fmtFp8a : FloatFmt := ⟨4, 3, 7, 0x7E, false, some 0x7F, true⟩
/-- FP8B. -/
def fmtFp8b : FloatFmt := ⟨5, 2, 15, 0x7B, true, some 0x7E, true⟩
/-- FP16. -/
def fmtFp16 : FloatFmt := ⟨5, 10, 15, 0x7BFF, true, some 0x7E00, true⟩
/-- BF16. -/
def fmtBf16 : FloatFmt := ⟨8, 7, 127, 0x7F7F, true, some 0x7FC0, true⟩
/-- FP19, the top 19 bits of its container. -/
def fmtFp19 : FloatFmt := ⟨8, 10, 127, 0x3FBFF, true, some 0x3FE00, true⟩
/-- FP32. -/
def fmtFp32 : FloatFmt := ⟨8, 23, 127, 0x7F7FFFFF, true, some 0x7FC00000, true⟩
/-- FP64. -/
def fmtFp64 : FloatFmt := ⟨11, 52, 1023, 0x7FEFFFFFFFFFFFFF, true, some 0x7FF8000000000000, true⟩

/-- The width in bits. -/
def FloatFmt.width (f : FloatFmt) : Nat := 1 + f.e + f.m
/-- The exponent of the last place of subnormals. -/
def FloatFmt.qmin (f : FloatFmt) : Int := 1 - (f.bias : Int) - (f.m : Int)
/-- The sign bit. -/
def FloatFmt.signBit (f : FloatFmt) (neg : Bool) : Nat := nbit neg * 2 ^ (f.e + f.m)
/-- The canonical NaN; 0 where there is none. -/
def FloatFmt.nanCode (f : FloatFmt) : Nat := f.nan.getD 0
/-- The infinity of a sign. -/
def FloatFmt.infCode (f : FloatFmt) (neg : Bool) : Nat := f.signBit neg + (2 ^ f.e - 1) * 2 ^ f.m
/-- The largest finite value of a sign. -/
def FloatFmt.maxCode (f : FloatFmt) (neg : Bool) : Nat := f.signBit neg + f.maxMag
/-- The zero of a sign, R89. -/
def FloatFmt.zeroCode (f : FloatFmt) (neg : Bool) : Nat := f.signBit (neg && f.negZero)

/-- A decoded value: a NaN, which may signal, an infinity, or (−1)^neg × m × 2^e. -/
inductive Fv where
  | nan (sig : Bool)
  | inf (neg : Bool)
  | num (neg : Bool) (m : Nat) (e : Int)
  deriving DecidableEq, Repr

/-- The value of a code, R77, R80. -/
def decodeF (f : FloatFmt) (c : Nat) : Fv :=
  let mag := c % 2 ^ (f.e + f.m)
  let neg := c / 2 ^ (f.e + f.m) % 2 == 1
  let ex := mag / 2 ^ f.m
  let fr := mag % 2 ^ f.m
  if f.ieee && ex == 2 ^ f.e - 1 then
    if fr = 0 then .inf neg else .nan (fr < 2 ^ (f.m - 1))
  else if !f.ieee && f.nan == some mag then .nan false
  else if mag = 0 then .num (neg && f.negZero) 0 0
  else if ex = 0 then .num neg fr f.qmin
  else .num neg (fr + 2 ^ f.m) ((ex : Int) + f.qmin - 1)

/-- Whether the value is a NaN. -/
def Fv.isNan : Fv → Bool
  | .nan _ => true
  | .inf _ | .num _ _ _ => false
/-- Whether the value is a signalling NaN. -/
def Fv.isSig : Fv → Bool
  | .nan s => s
  | .inf _ | .num _ _ _ => false
/-- Whether the value is zero. -/
def Fv.isZero : Fv → Bool
  | .num _ m _ => m == 0
  | .nan _ | .inf _ => false
/-- Whether the value is an infinity. -/
def Fv.isInf : Fv → Bool
  | .inf _ => true
  | .nan _ | .num _ _ _ => false
/-- The negation of a value. -/
def Fv.neg : Fv → Fv
  | .nan s => .nan s
  | .inf n => .inf (!n)
  | .num n m e => .num (!n) m e

/-- A dyadic number m × 2^e. -/
structure Dy where
  m : Int
  e : Int
  deriving DecidableEq, Repr

/-- m × 2^(e − q) as an integer, for q at most e. -/
def Dy.at (d : Dy) (q : Int) : Int := d.m * (2 : Int) ^ (d.e - q).toNat
/-- The exact sum. -/
def Dy.add (a b : Dy) : Dy :=
  if a.m = 0 then b else if b.m = 0 then a else
  let q := if a.e ≤ b.e then a.e else b.e
  ⟨a.at q + b.at q, q⟩
/-- The exact product. -/
def Dy.mul (a b : Dy) : Dy := ⟨a.m * b.m, a.e + b.e⟩
/-- The negation. -/
def Dy.neg (a : Dy) : Dy := ⟨-a.m, a.e⟩
/-- The exact comparison a < b. -/
def Dy.lt (a b : Dy) : Bool :=
  let q := if a.e ≤ b.e then a.e else b.e
  a.at q < b.at q
/-- The number of a finite value; 0 for the others. -/
def Fv.dy : Fv → Dy
  | .num n m e => ⟨if n then -(m : Int) else (m : Int), e⟩
  | .nan _ | .inf _ => ⟨0, 0⟩

/-- The number of bits of a natural number. -/
def bitLen (m : Nat) : Nat := if m = 0 then 0 else Nat.log2 m + 1

/-- m × 2^−shift rounded to an integer, with the bits lost; `sticky` says that the value lies strictly between m and m + 1. R86, R92.
Under stochastic rounding d counts every bit position of m below the last place of the result, leading zeros included, also where the
whole significand lies below it: R92 does not say (the model's choice, log entry 93). -/
def quantize (rm : Rnd) (neg : Bool) (m : Nat) (shift : Int) (sticky : Bool) : Nat × Bool :=
  if shift ≤ 0 then (m * 2 ^ (-shift).toNat, sticky)
  else
    let k := shift.toNat
    let q := m / 2 ^ k
    let rem := m % 2 ^ k
    let inex := rem != 0 || sticky
    let up := match rm with
      | .rne => rem * 2 > 2 ^ k || (rem * 2 == 2 ^ k && (sticky || q % 2 == 1))
      | .rtz => false
      | .rup => inex && !neg
      | .rdn => inex && neg
      | .stoch s c =>
        let r := if k ≤ c then k else c
        rem / 2 ^ (k - r) + s % 2 ^ r ≥ 2 ^ r
    (q + nbit up, inex)

/-- A rounded magnitude: its code without a sign, which may pass `maxMag`; whether it is inexact; whether it is tiny (R85). -/
structure Rounded where
  mag : Nat
  inexact : Bool
  tiny : Bool
  deriving DecidableEq, Repr

/-- Rounds (−1)^neg × m × 2^e into the format as though the exponent had no upper bound (R85, R88): the code of the magnitude
grows by one from each value to the next. Whether a result is tiny after rounding under stochastic rounding, R92 does not say: the
model rounds it stochastically as if the exponent were unbounded, with the same state (the model's choice, log entry 93). -/
def roundMag (f : FloatFmt) (rm : Rnd) (neg : Bool) (m : Nat) (e : Int) (sticky : Bool) : Rounded :=
  let qu : Int := (bitLen m : Int) + e - (f.m : Int) - 1
  let q := if m = 0 ∨ qu < f.qmin then f.qmin else qu
  let r := quantize rm neg m (q - e) sticky
  let u := quantize rm neg m (qu - e) sticky
  let tiny := m != 0 && qu + bitLen u.1 ≤ f.qmin + f.m
  ⟨(q - f.qmin).toNat * 2 ^ f.m + r.1, r.2, tiny⟩

/-- The flags of a result in range: NX, and UF when it is tiny, R85. -/
def inexactFlags (r : Rounded) : Flags := fIf r.inexact fNX ||| fIf (r.inexact && r.tiny) fUF

/-- The overflow of lane arithmetic, R85. -/
def laneOverflow (f : FloatFmt) (rm : Rnd) (neg : Bool) : Nat :=
  match rm, neg with
  | .rtz, _ | .rup, true | .rdn, false => f.maxCode neg
  | .rne, _ | .rup, false | .rdn, true | .stoch _ _, _ => f.infCode neg

/-- A result rounded under STATUS.RM, R85. -/
def roundLane (f : FloatFmt) (rm : Rnd) (neg : Bool) (m : Nat) (e : Int) (sticky : Bool) : Nat × Flags :=
  let r := roundMag f rm neg m e sticky
  if r.mag > f.maxMag then (laneOverflow f rm neg, fOF ||| fNX)
  else (f.signBit neg + r.mag, inexactFlags r)

/-- An exact sum rounded; an exact zero takes the sign given. -/
def roundDy (f : FloatFmt) (rm : Rnd) (zeroNeg : Bool) (d : Dy) : Nat × Flags :=
  if d.m = 0 then (f.zeroCode zeroNeg, 0) else roundLane f rm (d.m < 0) d.m.natAbs d.e false

/-- The overflow table of R88 for a float target. -/
def narrowOverflow (f : FloatFmt) (sat neg : Bool) : Nat :=
  if sat then f.maxCode neg
  else if f.ieee then f.infCode neg
  else match f.nan with
    | some n => n
    | none => f.maxCode neg

/-- A narrowing conversion to a float format, R88, R89. -/
def narrowF (f : FloatFmt) (rm : Rnd) (sat : Bool) (v : Fv) : Nat × Flags :=
  match v with
  | .nan sig =>
    match f.nan with
    | some n => (n, fIf sig fNV)
    | none => (0, fNV)
  | .inf neg => (narrowOverflow f sat neg, fOF)
  | .num neg m e =>
    if m = 0 then (f.zeroCode neg, 0) else
    let r := roundMag f rm neg m e false
    if r.mag > f.maxMag then (narrowOverflow f sat neg, fOF ||| fNX)
    else if r.mag = 0 then (f.zeroCode neg, inexactFlags r)
    else (f.signBit neg + r.mag, inexactFlags r)

/-- The bounds of a w-bit integer. -/
def intBounds (w : Nat) (signed : Bool) : Int × Int :=
  if signed then (-(2 : Int) ^ (w - 1), (2 : Int) ^ (w - 1) - 1) else (0, (2 : Int) ^ w - 1)

/-- The w-bit pattern of an integer. -/
def intCode (w : Nat) (v : Int) : Nat := (v % (2 : Int) ^ w).toNat

/-- A narrowing conversion to an integer format, R88: rounded first, then held to the range. -/
def narrowI (w : Nat) (signed : Bool) (rm : Rnd) (v : Fv) : Nat × Flags :=
  let b := intBounds w signed
  match v with
  | .nan _ => (0, fNV)
  | .inf neg => (intCode w (if neg then b.1 else b.2), fOF)
  | .num neg m e =>
    let r := quantize rm neg m (-e) false
    let x : Int := if neg then -(r.1 : Int) else (r.1 : Int)
    if x > b.2 then (intCode w b.2, fOF ||| fNX)
    else if x < b.1 then (intCode w b.1, fOF ||| fNX)
    else (intCode w x, fIf r.2 fNX)

/-- The value of an SC8 code as (8 + f) × 2^(e − 18); none for 0xFF, R83. -/
def sc8Value (c : Nat) : Option (Nat × Int) :=
  if c % 256 = 255 then none else some (8 + c % 8, (c % 256 / 8 : Nat) - 18)

/-- A conversion to SC8, R88, R90. A value clamped to 0x00 sets SCLAMP and no NX: whether R88's NX for an inexact result holds of it too,
the rules do not say (the model's choice, log entry 93). -/
def narrowSc8 (rm : Rnd) (v : Fv) : Nat × Flags :=
  match v with
  | .nan sig => (0xFF, fIf sig fNV)
  | .inf neg => if neg then (0, fSCLAMP) else (0xFE, fOF)
  | .num neg m e =>
    if neg || m == 0 || (bitLen m : Int) - 1 + e < -15 then (0, fSCLAMP) else
    let q : Int := (bitLen m : Int) + e - 4
    let r := quantize rm neg m (q - e) false
    let code := (q + 18).toNat * 8 + r.1 - 8
    if code > 0xFE then (0xFE, fOF ||| fNX) else (code, fIf r.2 fNX)

/-! ### Arithmetic of R113 -/

/-- A NaN result: the canonical NaN, with NV when an operand signals or the operation is invalid. -/
def nanResult (f : FloatFmt) (nv : Bool) : Nat × Flags := (f.nanCode, fIf nv fNV)

/-- c + a × b on decoded values, rounded once; R113's NV for 0 × ∞ stands even beside a quiet NaN. -/
def fmaV (f : FloatFmt) (rm : Rnd) (c a b : Fv) : Nat × Flags :=
  let sig := a.isSig || b.isSig || c.isSig
  let zinf := (a.isZero && b.isInf) || (a.isInf && b.isZero)
  if a.isNan || b.isNan || c.isNan || zinf then nanResult f (sig || zinf) else
  let neg (v : Fv) : Bool := match v with | .num n _ _ => n | .inf n => n | .nan _ => false
  let pn := neg a != neg b
  if a.isInf || b.isInf then
    match c with
    | .inf cn => if cn = pn then (f.infCode pn, 0) else nanResult f true
    | .num _ _ _ | .nan _ => (f.infCode pn, 0)
  else match c with
    | .inf cn => (f.infCode cn, 0)
    | .num _ _ _ | .nan _ =>
      let bothZero := (a.isZero || b.isZero) && c.isZero
      let zn := if bothZero && pn == neg c then pn else rm == .rdn
      roundDy f rm zn ((a.dy.mul b.dy).add c.dy)

/-- The value 1. -/
def Fv.one : Fv := .num false 1 0

/-- a + b on codes. -/
def fadd (f : FloatFmt) (rm : Rnd) (a b : Nat) : Nat × Flags := fmaV f rm (decodeF f a) (decodeF f b) .one
/-- a − b on codes. -/
def fsub (f : FloatFmt) (rm : Rnd) (a b : Nat) : Nat × Flags := fmaV f rm (decodeF f a) (decodeF f b).neg .one
/-- a × b on codes: the zero added takes the product's sign. -/
def fmul (f : FloatFmt) (rm : Rnd) (a b : Nat) : Nat × Flags :=
  let x := decodeF f a
  let y := decodeF f b
  let neg (v : Fv) : Bool := match v with | .num n _ _ => n | .inf n => n | .nan _ => false
  fmaV f rm (.num (neg x != neg y) 0 0) x y
/-- c + a × b on codes, R113 VFMA. -/
def ffma (f : FloatFmt) (rm : Rnd) (c a b : Nat) : Nat × Flags := fmaV f rm (decodeF f c) (decodeF f a) (decodeF f b)
/-- c − a × b, R113 VFMS. -/
def ffms (f : FloatFmt) (rm : Rnd) (c a b : Nat) : Nat × Flags :=
  fmaV f rm (decodeF f c) (decodeF f a).neg (decodeF f b)
/-- −(c + a × b) rounded once, R113 VFNMA; an exact zero takes the sign of (−c) + (−a) × b (log entry 30). -/
def ffnma (f : FloatFmt) (rm : Rnd) (c a b : Nat) : Nat × Flags :=
  fmaV f rm (decodeF f c).neg (decodeF f a).neg (decodeF f b)

/-- a < b as numbers, −0 below +0 (R113). -/
def fvLess (a b : Fv) : Bool :=
  match a, b with
  | .inf n, .inf m => n && !m
  | .inf n, .num _ _ _ => n
  | .num _ _ _, .inf m => !m
  | .num n x e, .num m y g =>
    if x = 0 ∧ y = 0 then n && !m else (Fv.num n x e).dy.lt (Fv.num m y g).dy
  | .nan _, _ => false
  | .num _ _ _, .nan _ | .inf _, .nan _ => false

/-- minimumNumber or maximumNumber, R113. -/
def fminmax (f : FloatFmt) (wantMax : Bool) (a b : Nat) : Nat × Flags :=
  let x := decodeF f a
  let y := decodeF f b
  let nv := fIf (x.isSig || y.isSig) fNV
  if x.isNan && y.isNan then (f.nanCode, nv)
  else if x.isNan then (b, nv)
  else if y.isNan then (a, nv)
  else (if (if wantMax then fvLess x y else fvLess y x) then b else a, nv)

/-- Sign-only operations, R113: VFABS, and VFNEG when `flip`. -/
def fsign (f : FloatFmt) (flip : Bool) (a : Nat) : Nat × Flags :=
  let v := decodeF f a
  if v.isNan then nanResult f v.isSig else
  let s := 2 ^ (f.e + f.m)
  let mag := a % s
  (if flip && a / s % 2 == 0 then mag + s else mag, 0)

/-- The equality of numbers, −0 equal to +0. -/
def fvEq (a b : Fv) : Bool :=
  match a, b with
  | .inf n, .inf m => n == m
  | .num n x e, .num m y g =>
    if x = 0 ∧ y = 0 then true
    else !(Fv.num n x e).dy.lt (Fv.num m y g).dy && !(Fv.num m y g).dy.lt (Fv.num n x e).dy
  | .inf _, .num _ _ _ | .num _ _ _, .inf _ => false
  | .nan _, _ | .inf _, .nan _ | .num _ _ _, .nan _ => false

/-- a < b as numbers, −0 equal to +0 (R114). -/
def fvLt (a b : Fv) : Bool := if a.isZero && b.isZero then false else fvLess a b

/-- The compares of R114. -/
inductive FCmp where
  | eq | lt | le
  deriving DecidableEq, Repr

/-- A compare, with its flags. -/
def fcmp (f : FloatFmt) (k : FCmp) (a b : Nat) : Bool × Flags :=
  let x := decodeF f a
  let y := decodeF f b
  if x.isNan || y.isNan then
    (false, match k with | .eq => fIf (x.isSig || y.isSig) fNV | .lt | .le => fNV)
  else (match k with | .eq => fvEq x y | .lt => fvLt x y | .le => fvLt x y || fvEq x y, 0)

/-- The class of a value as a one-hot integer, R115. -/
def fclass (f : FloatFmt) (a : Nat) : Nat :=
  match decodeF f a with
  | .nan sig => if sig then 2 ^ 8 else 2 ^ 9
  | .inf neg => if neg then 2 ^ 0 else 2 ^ 7
  | .num neg m _ =>
    if m = 0 then (if neg then 2 ^ 3 else 2 ^ 4)
    else if m ≥ 2 ^ f.m then (if neg then 2 ^ 1 else 2 ^ 6)
    else (if neg then 2 ^ 2 else 2 ^ 5)

/-- VCVTI, R120. -/
def cvtFI (f : FloatFmt) (rm : Rnd) (w : Nat) (a : Nat) : Nat × Flags :=
  let b := intBounds w true
  match decodeF f a with
  | .nan _ => (0, fNV)
  | .inf neg => (intCode w (if neg then b.1 else b.2), fNV)
  | .num neg m e =>
    let r := quantize rm neg m (-e) false
    let x : Int := if neg then -(r.1 : Int) else (r.1 : Int)
    if x > b.2 then (intCode w b.2, fNV) else if x < b.1 then (intCode w b.1, fNV)
    else (intCode w x, fIf r.2 fNX)

/-- The integer of a w-bit two's complement pattern. -/
def signedOf (w : Nat) (c : Nat) : Int :=
  let x := c % 2 ^ w
  if x ≥ 2 ^ (w - 1) then (x : Int) - (2 : Int) ^ w else (x : Int)

/-- VCVTF, R120. -/
def cvtIF (f : FloatFmt) (rm : Rnd) (w : Nat) (a : Nat) : Nat × Flags := roundDy f rm false ⟨signedOf w a, 0⟩

/-- A rational m × 2^e / d with more than 64 quotient bits, truncated, and whether it is inexact. -/
def divDy (m : Nat) (e : Int) (d : Nat) : Nat × Int × Bool :=
  let k := 80 + bitLen d
  (m * 2 ^ k / d, e - k, m * 2 ^ k % d != 0)

/-! ### The special functions of R125, by enclosure at rising precision -/

/-- The integer square root, by `fuel` binary digits. -/
def isqrtAux (n : Nat) : Nat → Nat → Nat
  | 0, acc => acc
  | k + 1, acc =>
    let t := acc + 2 ^ k
    isqrtAux n k (if t * t ≤ n then t else acc)
/-- The integer square root. -/
def isqrt (n : Nat) : Nat := isqrtAux n (bitLen n / 2 + 1) 0

/-- An enclosure lo ≤ x × 2^P ≤ hi. -/
structure Iv where
  lo : Nat
  hi : Nat
  deriving DecidableEq, Repr

/-- An enclosure of the product at scale 2^P. -/
def Iv.mul (P : Nat) (a b : Iv) : Iv := ⟨a.lo * b.lo / 2 ^ P, a.hi * b.hi / 2 ^ P + 1⟩
/-- An enclosure of the quotient at scale 2^P. -/
def Iv.div (P : Nat) (a b : Iv) : Iv := ⟨a.lo * 2 ^ P / b.hi, a.hi * 2 ^ P / b.lo + 1⟩
/-- An enclosure of the quotient by a natural number. -/
def Iv.divN (a : Iv) (d : Nat) : Iv := ⟨a.lo / d, a.hi / d + 1⟩
/-- The sum. -/
def Iv.add (a b : Iv) : Iv := ⟨a.lo + b.lo, a.hi + b.hi⟩

/-- The sum of 1/(k × 2^k) for k from 1 to n: ln 2 at scale 2^P, without its tail. -/
def ln2Sum (P : Nat) : Nat → Iv
  | 0 => ⟨0, 0⟩
  | k + 1 => (ln2Sum P k).add ⟨2 ^ P / ((k + 1) * 2 ^ (k + 1)), 2 ^ P / ((k + 1) * 2 ^ (k + 1)) + 1⟩
/-- ln 2: the tail after n terms is below 2^−n. -/
def ivLn2 (P : Nat) : Iv := (ln2Sum P P).add ⟨0, 1⟩

/-- The sum of t^k / k! from the k-th term on, for t at most 1: the tail is below twice the next term. -/
def expSum (P : Nat) (t : Iv) : Nat → Nat → Iv → Iv
  | 0, _, term => ⟨0, 2 * term.hi⟩
  | n + 1, k, term => term.add (expSum P t n (k + 1) ((term.mul P t).divN (k + 1)))
/-- e^t for 0 ≤ t ≤ 1. -/
def ivExp (P : Nat) (t : Iv) : Iv := expSum P t (P / 3 + 12) 0 ⟨2 ^ P, 2 ^ P⟩

/-- e^−y for y at least 0, as an enclosure within 1/2 to 1 and a power of two n: y is n ln 2 + r. -/
def ivExpNeg (P : Nat) (y : Iv) : Iv × Nat :=
  let l := ivLn2 P
  let n := y.lo / l.hi
  let rlo := y.lo - n * l.hi
  let rhi := y.hi - n * l.lo
  let ex := ivExp P ⟨rlo, rhi⟩
  (Iv.div P ⟨2 ^ P, 2 ^ P⟩ ex, n)

/-- The enclosure of m × 2^e at scale 2^P. -/
def ivOf (P : Nat) (m : Nat) (e : Int) : Iv :=
  if e + P ≥ 0 then ⟨m * 2 ^ (e + P).toNat, m * 2 ^ (e + P).toNat⟩
  else ⟨m / 2 ^ (-(e + P)).toNat, m / 2 ^ (-(e + P)).toNat + 1⟩

/-- The rounding both ends of an enclosure of an irrational number share, if they do; the value is x × 2^e. -/
def roundIv (f : FloatFmt) (rm : Rnd) (neg : Bool) (x : Iv) (e : Int) : Option (Nat × Flags) :=
  if x.lo < 2 ^ (f.m + 4) then none else
  let a := roundLane f rm neg x.lo e true
  let b := roundLane f rm neg (x.hi - 1) e true
  if a = b then some a else none

/-- Precisions tried in turn. -/
def precisions : List Nat := [72, 144, 288, 576]

/-- The first precision whose enclosure decides the rounding; the last one decides in any case. -/
def tryPrec (f : FloatFmt) (rm : Rnd) (neg : Bool) (g : Nat → Iv × Int) : List Nat → Nat × Flags
  | [] => let r := g 1024; roundLane f rm neg r.1.lo r.2 true
  | P :: ps => match roundIv f rm neg (g P).1 (g P).2 with
    | some r => r
    | none => tryPrec f rm neg g ps

/-- 2^x for x = ± m × 2^e, R125. -/
def fexp2 (f : FloatFmt) (rm : Rnd) (v : Fv) : Nat × Flags :=
  match v with
  | .nan sig => nanResult f sig
  | .inf neg => (if neg then f.zeroCode false else f.infCode false, 0)
  | .num neg m e =>
    let lim : Nat := 2 * 2 ^ f.e + 64
    let whole : Nat := if e ≥ 0 then m * 2 ^ e.toNat else m / 2 ^ (-e).toNat
    let exact : Bool := e ≥ 0 || m % 2 ^ (-e).toNat == 0
    if whole ≥ lim then roundLane f rm false 1 (if neg then -(lim : Int) else (lim : Int)) false
    else if exact then roundLane f rm false 1 (if neg then -(whole : Int) else (whole : Int)) false
    else
      tryPrec f rm false (fun P =>
        let x := ivOf P m e
        let l := ivLn2 P
        if neg then
          let frac : Iv := ⟨(whole + 1) * 2 ^ P - x.hi, (whole + 1) * 2 ^ P - x.lo⟩
          (ivExp P (frac.mul P l), -(P : Int) - (whole : Int) - 1)
        else
          let frac : Iv := ⟨x.lo - whole * 2 ^ P, x.hi - whole * 2 ^ P⟩
          (ivExp P (frac.mul P l), (whole : Int) - (P : Int))) precisions

/-- The sum of z^(2k+1) / (2k+1): atanh z for z at most 1/3. -/
def atanhSum (P : Nat) (z2 : Iv) : Nat → Nat → Iv → Iv
  | 0, _, term => ⟨0, term.hi⟩
  | n + 1, k, term => (term.divN (2 * k + 1)).add (atanhSum P z2 n (k + 1) (term.mul P z2))

/-- log2 x, R125. A value close to 1 is taken with exponent 0, so that the logarithm keeps its precision. -/
def flog2 (f : FloatFmt) (rm : Rnd) (v : Fv) : Nat × Flags :=
  match v with
  | .nan sig => nanResult f sig
  | .inf neg => if neg then nanResult f true else (f.infCode false, 0)
  | .num neg m e =>
    if m = 0 then (f.infCode true, fDZ)
    else if neg then nanResult f true
    else
      let k := bitLen m - 1
      if m = 2 ^ k then roundDy f rm false ⟨(k : Int) + e, 0⟩
      else
        -- x = m / 2^j × 2^E with m / 2^j between 3/4 and 3/2
        let j := if 2 * m ≥ 3 * 2 ^ k then k + 1 else k
        let E : Int := (j : Int) + e
        let below : Bool := m < 2 ^ j
        let res (P : Nat) : Iv × Bool :=
          let a := m
          let b := 2 ^ j
          let d := if below then b - a else a - b
          let z : Iv := ⟨d * 2 ^ P / (a + b), d * 2 ^ P / (a + b) + 1⟩
          let s := atanhSum P (z.mul P z) (P / 3 + 4) 0 z
          let l := Iv.div P ⟨2 * s.lo, 2 * s.hi⟩ (ivLn2 P)
          let w := E.natAbs * 2 ^ P
          if E = 0 then (l, below)
          else if (E < 0) = below then (⟨w + l.lo, w + l.hi⟩, below)
          else (⟨w - l.hi, w - l.lo⟩, E < 0)
        tryPrec f rm (res 72).2 (fun P => ((res P).1, -(P : Int))) precisions

/-- 1/x, R125. -/
def frcp (f : FloatFmt) (rm : Rnd) (v : Fv) : Nat × Flags :=
  match v with
  | .nan sig => nanResult f sig
  | .inf neg => (f.zeroCode neg, 0)
  | .num neg m e =>
    if m = 0 then (f.infCode neg, fDZ) else
    let d := divDy 1 (-e) m
    roundLane f rm neg d.1 d.2.1 d.2.2

/-- 1/√x, R125. -/
def frsqrt (f : FloatFmt) (rm : Rnd) (v : Fv) : Nat × Flags :=
  match v with
  | .nan sig => nanResult f sig
  | .inf neg => if neg then nanResult f true else (f.zeroCode false, 0)
  | .num neg m e =>
    if m = 0 then (f.infCode neg, fDZ)
    else if neg then nanResult f true
    else
      let odd : Bool := e % 2 == 1
      let m' := if odd then 2 * m else m
      let h : Int := (if odd then e - 1 else e) / 2
      let K := 100 + bitLen m'
      let s := isqrt (2 ^ (2 * K) / m')
      roundLane f rm false s (-(K : Int) - h) (s * s * m' != 2 ^ (2 * K))

/-- A magnitude m × 2^e held at `lim`, beyond which the rounded result is the same. -/
def heldAt (lim m : Nat) (e : Int) : Nat × Int :=
  let big : Bool := if e ≥ 0 then m * 2 ^ e.toNat ≥ lim else m / 2 ^ (-e).toNat ≥ lim
  if big then (lim, 0) else (m, e)

/-- 1/(1 + e^−x), R125. -/
def fsigm (f : FloatFmt) (rm : Rnd) (v : Fv) : Nat × Flags :=
  match v with
  | .nan sig => nanResult f sig
  | .inf neg => if neg then (f.zeroCode false, 0) else roundLane f rm false 1 0 false
  | .num neg m e =>
    if m = 0 then roundLane f rm false 1 (-1) false else
    let y := heldAt (3 * 2 ^ f.e) m e
    tryPrec f rm false (fun P =>
      let r := ivExpNeg P (ivOf P y.1 y.2)
      let tail : Iv := ⟨r.1.lo / 2 ^ r.2, r.1.hi / 2 ^ r.2 + 1⟩
      let den : Iv := ⟨2 ^ P + tail.lo, 2 ^ P + tail.hi⟩
      if neg then (Iv.div P r.1 den, -(P : Int) - (r.2 : Int))
      else (Iv.div P ⟨2 ^ P, 2 ^ P⟩ den, -(P : Int))) precisions

/-- tanh x, R125. Below 2^−27 it lies within one part in 2^54 under x. -/
def ftanh (f : FloatFmt) (rm : Rnd) (v : Fv) : Nat × Flags :=
  match v with
  | .nan sig => nanResult f sig
  | .inf neg => roundLane f rm neg 1 0 false
  | .num neg m e =>
    if m = 0 then (f.zeroCode neg, 0)
    else if (bitLen m : Int) + e < -28 then roundLane f rm neg (m * 2 ^ 30 - 1) (e - 30) true
    else
      let y := heldAt 64 m e
      tryPrec f rm neg (fun P =>
        let r := ivExpNeg P (ivOf P y.1 (y.2 + 1))
        let u : Iv := ⟨r.1.lo / 2 ^ r.2, r.1.hi / 2 ^ r.2 + 1⟩
        (Iv.div P ⟨2 ^ P - u.hi, 2 ^ P - u.lo⟩ ⟨2 ^ P + u.lo, 2 ^ P + u.hi⟩, -(P : Int))) precisions

/-- The alternating sum of arctan(1/d) at scale 2^P: its terms are 1/(d^(2k+1) (2k+1)). -/
def atanSum (P d : Nat) : Nat → Nat → Int
  | 0, _ => 0
  | n + 1, k => (2 : Int) ^ P / ((d : Int) ^ (2 * k + 1) * (2 * k + 1)) - atanSum P d n (k + 1)
/-- An enclosure of π by Machin's formula. -/
def ivPi (P : Nat) : Iv :=
  let s := 16 * atanSum P 5 (P / 4 + 4) 0 - 4 * atanSum P 239 (P / 8 + 4) 0
  ⟨(s - 40 * (P : Int)).toNat, (s + 40 * (P : Int)).toNat⟩
/-- An enclosure of 2/√π. -/
def ivTwoRootPi (P : Nat) : Iv :=
  let p := ivPi P
  Iv.div P ⟨2 * 2 ^ P, 2 * 2 ^ P⟩ ⟨isqrt (p.lo * 2 ^ P), isqrt (p.hi * 2 ^ P) + 1⟩

/-- The sum of (2 x²)^n / (1 · 3 ⋯ (2n + 1)); each factor is at most 1/2 where the sum ends. -/
def erfSum (P : Nat) (x2 : Iv) : Nat → Nat → Iv → Iv
  | 0, _, term => ⟨0, 2 * term.hi⟩
  | n + 1, k, term => term.add (erfSum P x2 n (k + 1) ((term.mul P ⟨2 * x2.lo, 2 * x2.hi⟩).divN (2 * k + 3)))

/-- erf x = 2/√π · x · e^−x² · Σ, R125. From 6 on it lies within 2^−50 under 1. -/
def ferf (f : FloatFmt) (rm : Rnd) (v : Fv) : Nat × Flags :=
  match v with
  | .nan sig => nanResult f sig
  | .inf neg => roundLane f rm neg 1 0 false
  | .num neg m e =>
    if m = 0 then (f.zeroCode neg, 0)
    else if (heldAt 6 m e) = (6, 0) then roundLane f rm neg (2 ^ 50 - 1) (-50) true
    else
      tryPrec f rm neg (fun P =>
        let x2 := ivOf P (m * m) (2 * e)
        let s := erfSum P x2 (P + 90) 0 ⟨2 ^ P, 2 ^ P⟩
        let g := ivExpNeg P x2
        let w := ((s.mul P g.1).mul P (ivTwoRootPi P))
        (⟨m * w.lo, m * w.hi⟩, e - (P : Int) - (g.2 : Int))) precisions

/-! ### Block scales, R94, R95 -/

/-- An element format of the block instructions, R121: a float or a mantissa or integer of n bits. -/
inductive BlockElem where
  | flt (f : FloatFmt)
  | int (n : Nat)
  | bfp (n : Nat)
  deriving DecidableEq, Repr

/-- M_F of R94: the largest finite value, 2^(n−1) − 1 for integers and mantissas. -/
def BlockElem.max (b : BlockElem) : Dy :=
  match b with
  | .flt f => (decodeF f f.maxMag).dy
  | .int n => ⟨(2 : Int) ^ (n - 1) - 1, 0⟩
  | .bfp n => ⟨(2 : Int) ^ (n - 1) - 1, 0⟩

/-- The dyadic value of an SC8 code below 0xFF. -/
def sc8Dy (c : Nat) : Dy := ⟨8 + (c % 8 : Nat), (c / 8 : Nat) - 18⟩

/-- u(E) of R95. -/
def bfpUnit (n : Nat) (E : Nat) : Dy := ⟨1, (E : Int) - 127 - ((n : Int) - 1)⟩

/-- The smallest code from c on, within the fuel, that `ok` accepts. -/
def firstCode (ok : Nat → Bool) : Nat → Nat → Option Nat
  | 0, _ => none
  | n + 1, c => if ok c then some c else firstCode ok n (c + 1)

/-- The scale code or block exponent for a block of magnitude amax, R94, R95, with its flags. -/
def blockScale (b : BlockElem) (v : Fv) : Nat × Flags :=
  match v with
  | .nan _ | .inf _ => (0xFF, fNV)
  | .num _ m e =>
    if m = 0 then (0, fZEROBLK) else
    let amax : Dy := ⟨m, e⟩
    match b with
    | .flt _ | .int _ =>
      if amax.lt (b.max.mul ⟨1, -15⟩) then (0, fSCLAMP) else
      match firstCode (fun c => !((sc8Dy c).mul b.max).lt amax) 255 0 with
      | some c => (c, 0)
      | none => (0xFE, fOF)
    | .bfp n =>
      if !((bfpUnit n 0).mul ⟨b.max.m, -1⟩).lt amax then (0, fSCLAMP) else
      match firstCode (fun c => !((bfpUnit n c).mul b.max).lt amax) 255 0 with
      | some c => (c, 0)
      | none => (254, fOF)

end Sys2Proof.Machine
end

