-- ==== Sys2Proof/Machine/Net.lean ====
section
/-! DEFINITION. Positions on the mesh and the latencies of the networks (spec/01_machine.md R7, R8, R10, R24;
spec/08_isa_memory_engines.md R388, R389), and peer addresses. -/

namespace Sys2Proof.Machine

/-- The die of an exposed position, spec/01_machine.md The mesh. -/
def dieOf (row col : Nat) : Nat := row / 24 * 2 + col / 24
/-- The cluster of an exposed position, R8. -/
def clusterOf (row col : Nat) : Nat := row / 4 * 12 + col / 4
/-- The cluster of a core. -/
def Core.cluster (c : Core) : Nat := clusterOf c.row c.col
/-- The die of a core. -/
def Core.die (c : Core) : Nat := dieOf c.row c.col

/-- The distance of two coordinates. -/
def absDiff (a b : Nat) : Nat := (a - b) + (b - a)
/-- The Manhattan distance of two exposed positions. -/
def manhattan (a b : Nat × Nat) : Nat := absDiff a.1 b.1 + absDiff a.2 b.2
/-- The die crossings between two exposed positions. -/
def crossings (a b : Nat × Nat) : Nat := absDiff (a.1 / 24) (b.1 / 24) + absDiff (a.2 / 24) (b.2 / 24)

/-- The router of a physical core in the exposed mesh, none for the spares' column: column 24 lies outside it (R7; log entry 4). -/
def routerOf (ix : Nat) : Option (Nat × Nat) :=
  if ix % 25 = 24 then none else some (ix / 600 / 2 * 24 + ix % 600 / 25, ix / 600 % 2 * 24 + ix % 25)
/-- Whether a position lies in the rectangle that every shortest route between two positions stays in. -/
def between (a b p : Nat × Nat) : Bool :=
  decide (Nat.min a.1 b.1 ≤ p.1) && decide (p.1 ≤ Nat.max a.1 b.1) && decide (Nat.min a.2 b.2 ≤ p.2) && decide (p.2 ≤ Nat.max a.2 b.2)
/-- The quarantined routers. -/
def State.routersOut (s : State) : List (Nat × Nat) := (s.phys.filter (fun p => p.2.quarantined)).filterMap (fun p => routerOf p.1)
/-- The hops of a route, R24: the Manhattan distance where it can cross no quarantined router, else with a free detour of at most 2
hops a die that stays the same for the route (log entry 19). Which shortest route is taken, no rule says. -/
def hopsPast (out : List (Nat × Nat)) (a b : Nat × Nat) : Nat :=
  let n := (out.filter (between a b)).length
  manhattan a b + (if n = 0 then 0 else
    Config.detour (((a.1 * 48 + a.2) * 2304 + b.1 * 48 + b.2) * 2401 + n) % (2 * (crossings a b + 1) + 1))

/-- The hops of a route now. -/
def State.hops (s : State) (a b : Nat × Nat) : Nat := hopsPast s.routersOut a b

/-- The exposed position of a core. -/
def Core.pos (c : Core) : Nat × Nat := (c.row, c.col)
/-- The exposed position that a logical core has been bound at and not dispatched at yet. -/
def State.bindPos (s : State) (lh lc : Nat) : Option (Nat × Nat) :=
  (s.slots.find? (fun p => p.2.state == .bind && p.2.lhandle == lh && p.2.lcore == lc)).bind (fun p => s.exposedOf p.1)
/-- The exposed position of a logical core of a launch: that of the core, or the one it is bound at. -/
def State.posOf (s : State) (lh lc : Nat) : Nat × Nat :=
  match s.core? ⟨lh, lc, false⟩ with
  | some c => if c.run == .vacated then (s.bindPos lh lc).getD c.pos else c.pos
  | none => (s.bindPos lh lc).getD (0, 0)

/-- T_msg, R24. -/
def State.tMsg (s : State) (a b : Nat × Nat) : Nat := 8 + 2 * s.hops a b + 24 * crossings a b
/-- The row and the column of a logical core in the block of a timed launch, R305. -/
def blockOffset (grid lc : Nat) : Nat × Nat := let w := Nat.max 1 (Nat.min grid 24); (lc / w, lc % w)
/-- The position of a logical core in a block that stands at a position. -/
def blockPos (origin : Nat × Nat) (grid lc : Nat) : Nat × Nat :=
  (origin.1 + (blockOffset grid lc).1, origin.2 + (blockOffset grid lc).2)
/-- T_tsend between two logical cores, R24: each die crossing counts as 12 hops. It is that of the first dispatch (R305). -/
def State.tTsend (s : State) (lh src dst : Nat) : Nat :=
  match (s.launch? lh).bind (fun l => l.block.map (fun b => (l.lrec.grid, b))) with
  | some (n, b) =>
    let x := blockPos b.first n src
    let y := blockPos b.first n dst
    4 + 2 * (hopsPast b.routers x y + 12 * crossings x y)
  | none => 4 + 2 * (s.hops (s.posOf lh src) (s.posOf lh dst) + 12 * crossings (s.posOf lh src) (s.posOf lh dst))
/-- T_hop for a tile of a number of bytes, R24. -/
def State.tHop (s : State) (a b : Nat × Nat) (bytes : Nat) : Nat := 16 + 2 * s.hops a b + (bytes + 63) / 64 + 24 * crossings a b

/-- The place of a position on the carry path: row by row, the odd rows backwards (log entry 20). -/
def snake (p : Nat × Nat) : Nat := p.1 * 48 + (if p.1 % 2 = 0 then p.2 else 47 - p.2)
/-- The hops along the carry path. -/
def pathHops (a b : Nat × Nat) : Nat := absDiff (snake a) (snake b)

/-- The exposed position beside the port of a channel, R389. -/
def portOf (ch : Nat) : Nat × Nat :=
  let stack := ch / 32
  let die := stack / 2
  let r0 := die / 2 * 24
  let c0 := die % 2 * 24
  let k := 4 + ch % 32 / 2
  if stack % 2 = 0 then (if die < 2 then (r0, c0 + k) else (r0 + 23, c0 + k))
  else (if die % 2 = 0 then (r0 + k, c0) else (r0 + k, c0 + 23))

/-- The partition of a context, R310. -/
def State.partOf (s : State) (ctx : Nat) : Partition := nth s.mgmt.config.parts (s.ctx ctx).part ⟨[], 0, 0, [], false, false⟩

/-- The channel that holds a physical address of a partition, R388. -/
def channelOf (p : Partition) (pa : Nat) : Nat := nth p.chans ((pa - p.base) / 256 % p.chans.length) 0

/-- The port farthest from a position, of those of the channels of a list of physical addresses, R389. -/
def State.farPort (s : State) (p : Partition) (pas : List Nat) (pos : Nat × Nat) : Nat × Nat :=
  pas.foldl (fun b pa => let q := portOf (channelOf p pa); if s.tMsg pos b < s.tMsg pos q then q else b) pos

/-- The largest distance and the most crossings from the channels of a list of physical addresses to a position, R389. -/
def State.farthest (s : State) (p : Partition) (pas : List Nat) (pos : Nat × Nat) : Nat × Nat :=
  pas.foldl (fun acc pa =>
    let ch := channelOf p pa
    let port := portOf ch
    let h := s.hops port pos + 1
    let c := absDiff (ch / 32 / 2 / 2) (pos.1 / 24) + absDiff (ch / 32 / 2 % 2) (pos.2 / 24)
    (if acc.1 < h then h else acc.1, if acc.2 < c then c else acc.2)) (0, 0)

/-- The largest distance and the most crossings from a position to a list of positions. -/
def State.farOf (s : State) (a : Nat × Nat) (ps : List (Nat × Nat)) : Nat × Nat :=
  ps.foldl (fun acc b => (if acc.1 < s.hops a b then s.hops a b else acc.1,
    if acc.2 < crossings a b then crossings a b else acc.2)) (0, 0)

/-- The one of a list of positions that is farthest from a position. -/
def State.farPos (s : State) (a : Nat × Nat) (ps : List (Nat × Nat)) : Nat × Nat :=
  ps.foldl (fun b p => if s.tMsg a b < s.tMsg a p then p else b) a

/-! ### The parts of a latency that spans dies, R386 -/

/-- One coordinate from a value to another: the halves of the mesh passed, each with its hops; the hop that crosses is counted in the
half that it leaves. -/
def halves (x y : Nat) : List (Nat × Nat) :=
  if x = y then []
  else if x / 24 = y / 24 then [(x / 24, absDiff x y)]
  else if x < y then [(0, 24 - x), (1, y - 24)] else [(1, x - 23), (0, 23 - y)]
/-- The dies of a route between the clusters of a partition, each with its hops: first over the rows, then over the columns, or the other way
round where only that way's dies have clusters of the partition, R310 (log entry 91). -/
def routeOf (own : List Nat) (a b : Nat × Nat) : List (Nat × Nat) :=
  let rows (col : Nat) := (halves a.1 b.1).map (fun p => (2 * p.1 + col / 24, p.2))
  let cols (row : Nat) := (halves a.2 b.2).map (fun p => (2 * (row / 24) + p.1, p.2))
  let on (die : Nat) : Bool := own.any (fun c => dieOf (c / 12 * 4) (c % 12 * 4) == die)
  if on (dieOf b.1 a.2) || !on (dieOf a.1 b.2) then rows a.2 ++ cols b.1 else cols a.1 ++ rows b.2
/-- The clusters of the partition of a launch. -/
def State.ownOf (s : State) (lh : Nat) : List Nat := ((s.launch? lh).map (fun l => (s.partOf l.ctx).clusters)).getD []
/-- The dies of a route of a launch's packets. -/
def State.route (s : State) (lh : Nat) (a b : Nat × Nat) : List (Nat × Nat) := routeOf (s.ownOf lh) a b
/-- The dies of the route from the farthest port of the channels of a list of physical addresses to a position, with the hop from the port into
the mesh, R389. -/
def State.portRoute (s : State) (lh : Nat) (p : Partition) (pas : List Nat) (pos : Nat × Nat) : List (Nat × Nat) :=
  let port := s.farPort p pas pos
  if pas.isEmpty then [] else (dieOf port.1 port.2, 1) :: s.route lh port pos
/-- The die of a stretch of 24 places of the carry path. -/
def snakeDie (q : Nat) : Nat := 2 * (q / 48) + (if q / 2 % 2 = 0 then q % 2 else 1 - q % 2)
/-- The dies of the carry path between two positions, each with its hops. -/
def pathOf (a b : Nat × Nat) : List (Nat × Nat) :=
  let x := snake a
  let y := snake b
  if x ≤ y then
    (List.range (y / 24 - x / 24 + 1)).map (fun i =>
      let q := x / 24 + i
      (snakeDie q, Nat.min y (24 * q + 24) - Nat.max x (24 * q)))
  else
    (List.range (x / 24 - y / 24 + 1)).map (fun i =>
      let q := x / 24 - i
      (snakeDie q, Nat.min x (24 * q + 23) + 1 - Nat.max (y + 1) (24 * q)))
/-- The parts of a latency that ends at a cycle, from its route taken backwards, put before a list of parts: 2 cycles a hop on its die, and a
number of cycles a crossing, which neither die may lose; what comes before the route counts on the die `home`. -/
def legsTo (home cross : Nat) : List (Nat × Nat) → Nat → List Leg → List Leg
  | [], till, acc => ⟨[home], till⟩ :: acc
  | [(d, h)], till, acc => ⟨[home], till - 2 * h⟩ :: ⟨[d], till⟩ :: acc
  | (d, h) :: (e, n) :: t, till, acc =>
    let acc := ⟨[d], till⟩ :: acc
    let till := till - 2 * h
    if e = d then legsTo home cross ((e, n) :: t) till acc
    else legsTo home cross ((e, n) :: t) (till - cross) (⟨[e, d], till⟩ :: acc)
/-- The parts of a latency over a route that ends at a cycle; its other terms count on the die `home`. -/
def legsOf (home : Nat) (route : List (Nat × Nat)) (till : Nat) : List Leg := legsTo home 24 route.reverse till []
/-- The parts of a latency over the carry path that ends at a cycle, which has no term for a crossing. -/
def carryLegs (a b : Nat × Nat) (till : Nat) : List Leg := legsTo (dieOf a.1 a.2) 0 (pathOf a b).reverse till []
/-- The part of a latency that a cycle belongs to: the first that ends after it, or the last. -/
def legAt (now : Nat) : List Leg → Option Leg
  | [] => none
  | [l] => some l
  | l :: t => if now < l.till then some l else legAt now t
/-- Whether a cycle that some dies lose puts a latency off. -/
def legsLate (lost : BitVec 4) (now : Nat) (ls : List Leg) : Bool :=
  match legAt now ls with
  | some l => l.dies.any (fun d => lost.getLsbD d)
  | none => false
/-- The parts that have not ended put off by a cycle. -/
def legsOff (now : Nat) (ls : List Leg) : List Leg := ls.map (fun l => if l.till < now then l else { l with till := l.till + 1 })

/-! ### Peer addresses, R10 -/

/-- The size of the scratchpad, R13. -/
def lmemSize : Nat := 0x100000
/-- The logical core of a peer address. -/
def peerCore (a : Word) : Nat := a.toNat / 2 ^ 32 % 4096
/-- The local part of a peer address. -/
def peerLocal (a : Word) : Nat := a.toNat % 2 ^ 32
/-- A peer address that R10 allows in a grid of n. -/
def peerOk (a : Word) (n : Nat) : Bool := a.toNat / 2 ^ 44 == 0 && decide (a.toNat / 2 ^ 32 < n)

end Sys2Proof.Machine
end

