-- ==== Sys2Proof/Machine/Trans.lean ====
section
/-! DEFINITION. Translation of device virtual addresses and the fault queues (spec/16_isolation.md R311 to R320). -/

namespace Sys2Proof.Machine

/-- The kinds of R315, and SERVICE of R336. -/
inductive FKind where
  | notMapped | perm | malformed | partition | service
  deriving DecidableEq, Repr

/-- The code of a kind. -/
def FKind.code : FKind → Nat
  | .notMapped => 1
  | .perm => 2
  | .malformed => 3
  | .partition => 4
  | .service => 5

/-- The bytes of a page of a SIZE code, R314. -/
def pageBytes (size : Nat) : Nat := 4096 * 4 ^ size
/-- The level of a leaf of a SIZE code, R314. -/
def leafLevel (size : Nat) : Nat := if size ≤ 4 then 0 else if size ≤ 8 then 1 else 2
/-- The replicas of a leaf, R314. -/
def replicas (size : Nat) : Nat := if size ≤ 4 then 4 ^ size else if size ≤ 8 then 2 * 4 ^ (size - 5) else 1

/-- PA of an entry, R313. -/
def ptePa (pte : Nat) : Nat := bitsOf pte 45 12 * 4096
/-- SIZE of an entry. -/
def pteSize (pte : Nat) : Nat := bitsOf pte 11 8
/-- ORD of an entry. -/
def pteOrd (pte : Nat) : Nat := bitsOf pte 7 6

/-- A physical address of a partition. -/
def inPart (p : Partition) (pa : Nat) : Bool := decide (p.base ≤ pa ∧ pa < p.limit)

/-- The entries a replica group starts at: the index of the first replica. -/
def firstReplica (ix size : Nat) : Nat := ix - ix % replicas size

/-- The malformed leaves of R315, given the entry, its level, the first replica's bits and the package's own number. -/
def leafMalformed (pte lvl first own : Nat) : Bool :=
  bitsOf pte 53 46 != 0 || bitOf pte 2 || pteOrd pte == 3 || lvl == 3 || decide (pteSize pte ≥ 10) ||
  leafLevel (pteSize pte) != lvl || ptePa pte % pageBytes (pteSize pte) != 0 || (bitOf pte 4 && bitOf pte 5) ||
  (!bitOf pte 63 && bitsOf pte 62 54 != 0) || (bitOf pte 63 && bitsOf pte 62 54 == own) || first != pte

/-- The checks of a leaf in the order of R315. -/
def leafCheck (p : Partition) (pte lvl first own : Nat) (wr : Bool) : Option FKind :=
  if (if wr then !bitOf pte 4 else !bitOf pte 3) then some .perm
  else if leafMalformed pte lvl first own then some .malformed
  else if !bitOf pte 63 && !inPart p (ptePa pte) then some .partition
  else none

/-- A walk from a table at a level, R312: the leaf, or the kind of the fault. -/
def walk (mem : Mem) (p : Partition) (own va : Nat) (wr : Bool) : Nat → Nat → Except FKind Nat
  | 0, table =>
    let ix := bitsOf va 20 12
    let pte := mem.num (table + 8 * ix) 8
    if !bitOf pte 0 then .error .notMapped
    else if !bitOf pte 1 then .error .malformed
    else match leafCheck p pte 0 (mem.num (table + 8 * firstReplica ix (pteSize pte)) 8) own wr with
      | some k => .error k
      | none => .ok pte
  | lvl + 1, table =>
    let ix := bitsOf va (29 + 9 * lvl) (21 + 9 * lvl)
    let pte := mem.num (table + 8 * ix) 8
    if !bitOf pte 0 then .error .notMapped
    else if bitOf pte 1 then
      match leafCheck p pte (lvl + 1) (mem.num (table + 8 * firstReplica ix (pteSize pte)) 8) own wr with
      | some k => .error k
      | none => .ok pte
    else if bitsOf pte 63 46 != 0 || bitsOf pte 11 2 != 0 then .error .malformed
    else if !inPart p (ptePa pte) then .error .partition
    else walk mem p own va wr lvl (ptePa pte)

/-- The walk of a context's address, R312. -/
def State.walkVa (s : State) (ctx va : Nat) (wr : Bool) : Except FKind Nat :=
  let p := s.partOf ctx
  let root := (nth (s.ctx ctx).roots.toList (bitsOf va 51 48) 0).toNat
  if root = 0 then .error .notMapped
  else if !inPart p root then .error .partition
  else walk s.hbm p s.mgmt.config.package va wr 3 root

/-- The entries that a walk from a table at a level reads: their physical addresses. -/
def walkReads (mem : Mem) (p : Partition) (va : Nat) : Nat → Nat → List Nat
  | 0, table =>
    let ix := bitsOf va 20 12
    [table + 8 * ix, table + 8 * firstReplica ix (pteSize (mem.num (table + 8 * ix) 8))]
  | lvl + 1, table =>
    let ix := bitsOf va (29 + 9 * lvl) (21 + 9 * lvl)
    let pte := mem.num (table + 8 * ix) 8
    (table + 8 * ix) :: (if !bitOf pte 0 then [] else if bitOf pte 1 then [table + 8 * firstReplica ix (pteSize pte)]
      else if !inPart p (ptePa pte) then [] else walkReads mem p va lvl (ptePa pte))
/-- The poisoned line that a run of physical bytes meets, R322. -/
def State.poisonIn (s : State) (pa n : Nat) : Option Nat :=
  s.poison.find? (fun l => decide (pa < 64 * l + 64) && decide (64 * l < pa + n))
/-- A poisoned line consumed by an access of a context: it ends the context, R322. -/
def State.consume (s : State) (ctx : Nat) (l : Option Nat) : State :=
  match l with
  | some l => s.sched s.now false (.consumedUncorrectableError (.hbm ctx (64 * l)))
  | none => s
/-- The poisoned line that the walk of a context's address reads. -/
def State.walkPoison (s : State) (ctx va : Nat) : Option Nat :=
  if s.poison.isEmpty then none else
  let p := s.partOf ctx
  let root := (nth (s.ctx ctx).roots.toList (bitsOf va 51 48) 0).toNat
  if root = 0 || !inPart p root then none else (walkReads s.hbm p va 3 root).findSome? (fun a => s.poisonIn a 8)
/-- The walk of an access that is not made through the TLBs: it consumes what it reads. -/
def State.walkFor (s : State) (ctx va : Nat) (wr : Bool) : State × Except FKind Nat :=
  (s.consume ctx (s.walkPoison ctx va), s.walkVa ctx va wr)

/-- A translated address: the peer package for an aperture page, the physical address, and the cycles of the walk (R215). -/
structure Xlat where
  peer : Option Nat
  pa : Nat
  ord : Nat
  walk : Nat
  deriving DecidableEq, Repr

/-- The translation that an entry gives. -/
def xlatOf (pte va cycles : Nat) : Xlat :=
  ⟨if bitOf pte 63 then some (bitsOf pte 62 54) else none, ptePa pte + va % pageBytes (pteSize pte), pteOrd pte, cycles⟩

/-- A cached entry of a context that covers an address. -/
def TlbEnt.covers (t : TlbEnt) (ctx va : Nat) : Bool := t.ctx == ctx && va / pageBytes t.size * pageBytes t.size == t.va

/-- The entry cached for an address in a cluster's TLB, while it is kept, R317. -/
def State.tlbAt (s : State) (cluster die ctx va : Nat) : Option (TlbEnt × Nat) :=
  match s.tlb.find? (fun t => t.covers ctx va && t.cluster == some cluster) with
  | some t => if Config.tlbKept s.fresh then some (t, 0) else none
  | none =>
    match s.tlb.find? (fun t => t.covers ctx va && t.cluster == none && t.die == die) with
    | some t => if Config.tlbKept s.fresh then some (t, 40) else none
    | none => none

/-- An entry put into one level of the TLBs, of a number of entries: in a full one it takes the place of another, a free choice, R317. -/
def tlbPut (l : List TlbEnt) (e : TlbEnt) (size victim : Nat) : List TlbEnt :=
  let same (t : TlbEnt) : Bool := t.cluster == e.cluster && (e.cluster.isSome || t.die == e.die)
  let own := l.filter (fun t => same t && !(t.ctx == e.ctx && t.va == e.va && t.size == e.size))
  let own := if own.length < size then own else own.eraseIdx (victim % own.length)
  e :: own ++ l.filter (fun t => !same t)
/-- The cycles until a page walker of a die is free, R317: each die has 32. -/
def State.walkerWait (s : State) (die : Nat) : Nat :=
  let ends := (s.walks.filter (fun (w : Nat × Nat) => w.1 == die && decide (s.now < w.2))).map (·.2)
  if ends.length < 32 then 0
  else (ends.filter (fun t => decide ((ends.filter (fun u => decide (t < u))).length < 32))).foldl Nat.min (ends.foldl Nat.max 0) - s.now
/-- The translation of an access of a context by the engines of a core's cluster, and the state with the TLBs filled, R312 to R317: 256 entries
a cluster and 16,384 a die. A walk waits for one of its die's walkers, and consumes the lines that it reads, R322. -/
def State.translate (s : State) (c : Core) (va : Nat) (wr : Bool) : State × Except FKind Xlat :=
  let s := s.tickFresh
  let miss : State × Except FKind Xlat :=
    let s := s.consume c.ctx (s.walkPoison c.ctx va)
    let wait := s.walkerWait c.die
    let cycles := Config.walkTime s.fresh % 601
    let s := { s with walks := s.walks.filter (fun (w : Nat × Nat) => decide (s.now < w.2)) ++ [(c.die, s.now + wait + cycles)] }
    match s.walkVa c.ctx va wr with
    | .error k => (s, .error k)
    | .ok pte =>
      let size := pteSize pte
      let base := va / pageBytes size * pageBytes size
      let ent (cl : Option Nat) : TlbEnt := ⟨cl, c.die, c.ctx, base, size, BitVec.ofNat 64 pte⟩
      let victim := Config.tlbVictim s.fresh
      ({ s with tlb := tlbPut (tlbPut s.tlb (ent none) 16384 victim) (ent (some c.cluster)) 256 victim }, .ok (xlatOf pte va (wait + cycles)))
  match s.tlbAt c.cluster c.die c.ctx va with
  | some (t, cycles) =>
    let pte := t.pte.toNat
    if (if wr then bitOf pte 4 else bitOf pte 3) then (s, .ok (xlatOf pte va cycles)) else miss
  | none => miss

/-- Whether a peer package may reach a physical address of this one, R316. -/
def State.exported (s : State) (pkg pa : Nat) : Bool :=
  s.mgmt.config.exports.any (fun e => e.1 == pkg && decide (e.2.1 ≤ pa) && decide (pa < e.2.2))

/-! ### Faults, R318 -/

/-- The bytes of a fault-queue entry, R318. -/
def faultBytes (va kind : Nat) (dir : Byte) (path : Nat) (first : Byte) (fseq lcore waiting w18 : Nat) : List Byte :=
  leBytes 8 va ++ [BitVec.ofNat 8 kind, dir, BitVec.ofNat 8 path, first] ++
  leBytes 4 fseq ++ leBytes 2 lcore ++ leBytes 2 0 ++ leBytes 4 waiting ++ leBytes 8 w18

/-- Whether the fault queue has space, R318. -/
def Ctx.fqSpace (c : Ctx) : Bool := decide (c.fqtail.toNat - c.fqhead.toNat < c.fqsize.toNat)

/-- The entry written to the queue at its tail; the interrupt is raised. `w18` is the word at offset 0x18. It is written at whatever FQBASE holds,
also outside the partition's range (DESIGN CHOICE, log entry 107). -/
def State.writeFault (s : State) (ctx : Nat) (e : FaultEnt) (w18 : Nat) : State :=
  let c := s.ctx ctx
  let at_ := c.fqbase.toNat + 32 * (c.fqtail.toNat % c.fqsize.toNat)
  let s := s.tickFresh
  let dir : Byte := if e.kind = 5 then Config.serviceDir s.fresh else if e.wr then 1 else 2
  let first : Byte := if e.kind = 5 then Config.serviceFirst s.fresh else if e.first then 1 else 0
  let s := s.hbmWrite at_ (faultBytes e.va e.kind dir e.path first e.fseq e.lcore e.waits.length w18)
  let s := s.updCtx ctx (fun c => { c with
    fqtail := c.fqtail + 1
    faults := c.faults.map (fun f => if f.fseq == e.fseq then { f with queued := true, slotAt := at_ } else f) })
  { s with interrupts := s.interrupts ++ [ctx] }

/-- A fault joins the outstanding entry of its page and kind, or makes one: the sequence number it waits on, R318. -/
def State.fault (s : State) (ctx va kind : Nat) (wr : Bool) (path : Nat) (first : Bool) (w : FaultWait) (w18 : Nat) : State × Nat :=
  let page := if kind = 5 then va else va / 4096 * 4096
  let c := s.ctx ctx
  match (if kind = 5 then none else c.faults.find? (fun f => f.va == page && f.kind == kind)) with
  | some f =>
    let n := f.waits.length + 1
    let s := s.updCtx ctx (fun c => { c with
      faults := c.faults.map (fun g => if g.fseq == f.fseq then { g with waits := g.waits ++ [w] } else g) })
    (if f.queued then s.hbmWrite (f.slotAt + 0x14) (leBytes 4 n) else s, f.fseq)
  | none =>
    let e : FaultEnt := ⟨c.nextFseq, page, kind, wr, path, first, w.core.lc, w18, false, [w]⟩
    let s := s.updCtx ctx (fun c => { c with faults := c.faults ++ [e], nextFseq := c.nextFseq + 1 })
    (if c.fqSpace then s.writeFault ctx e w18 else s, e.fseq)

end Sys2Proof.Machine
end

