-- ==== Sys2Proof/Machine/Tensor.lean ====
section
/-! DEFINITION. Tensor descriptors and the matrix operand formats (spec/06_matrix_arithmetic.md R133, R150, R151;
spec/04_number_formats.md R79), and the tensor words of the engines (spec/08_isa_memory_engines.md R209). -/

namespace Sys2Proof.Machine

/-- BASE, R150. -/
def dBase (d : BitVec 256) : Nat := (d.extractLsb' 192 64).toNat
/-- SBASE. -/
def dSbase (d : BitVec 256) : Nat := (d.extractLsb' 128 64).toNat
/-- STRIDE. -/
def dStride (d : BitVec 256) : Nat := (d.extractLsb' 96 32).toNat
/-- COLS. -/
def dCols (d : BitVec 256) : Nat := (d.extractLsb' 72 24).toNat
/-- ROWS. -/
def dRows (d : BitVec 256) : Nat := (d.extractLsb' 48 24).toNat
/-- KSLICE. -/
def dKslice (d : BitVec 256) : Nat := (d.extractLsb' 35 13).toNat
/-- VALID. -/
def dValid (d : BitVec 256) : Bool := d.getLsbD 23
/-- ACCI. -/
def dAcci (d : BitVec 256) : Bool := d.getLsbD 19
/-- ACC. -/
def dAcc (d : BitVec 256) : Bool := d.getLsbD 18
/-- SLOCAL. -/
def dSlocal (d : BitVec 256) : Bool := d.getLsbD 17
/-- LOCAL. -/
def dLocal (d : BitVec 256) : Bool := d.getLsbD 16
/-- SFMT. -/
def dSfmt (d : BitVec 256) : Nat := (d.extractLsb' 8 8).toNat
/-- FMT. -/
def dFmt (d : BitVec 256) : Nat := (d.extractLsb' 0 5).toNat

/-- The width in bits of an element of a format code, its container for FP19, R79. -/
def fmtBits (code : Nat) : Nat :=
  if code ≤ 6 then code + 2 else
  match code with
  | 7 => 1
  | 8 | 9 => 2
  | 10 | 11 => 4
  | 12 | 13 => 8
  | 14 => 16
  | 15 => 4
  | 16 | 17 => 6
  | 18 | 19 => 8
  | 20 | 21 => 16
  | 22 | 23 => 32
  | 24 => 4
  | 25 | 26 => 6
  | 27 | 28 => 8
  | 29 => 4
  | 30 => 8
  | _ => 64

/-- Whether a format carries a block factor, R133. -/
def fmtFactor (code : Nat) : Bool := decide (code ≤ 6) || (decide (24 ≤ code) && decide (code ≤ 30))

/-- The passes w_A of a format, R79. -/
def fmtPasses (code : Nat) : Nat :=
  if code ≤ 6 then code + 2 else
  match code with
  | 7 => 1
  | 8 | 9 => 2
  | 10 => 4
  | 11 => 5
  | 12 => 8
  | 13 => 9
  | 14 => 16
  | 15 => 3
  | 16 => 5
  | 17 => 4
  | 18 => 5
  | 19 => 4
  | 20 => 12
  | 21 => 9
  | 22 => 12
  | 23 => 25
  | 24 => 3
  | 25 => 5
  | 26 => 4
  | 27 => 5
  | 28 => 4
  | 29 => 4
  | 30 => 8
  | _ => 54

/-- The lines of a tile of rows of k elements in the ring layout, R133. -/
def tileLines (rows k code : Nat) : Nat := (rows * k * fmtBits code + 511) / 512 + nbit (fmtFactor code)

/-- The first rule of R151 that a descriptor breaks, as the reason of its trap. VALID is read-only, so that a descriptor's own bit 23 is
ignored (R4, R150). -/
def tidFault (d : BitVec 256) : Option Nat :=
  let fmt := dFmt d
  let w := fmtBits fmt
  let ks := dKslice d
  let cols := dCols d
  let rows := dRows d
  let rowBytes := (cols * w + 7) / 8
  if (d.extractLsb' 24 11).toNat != 0 || (d.extractLsb' 20 3).toNat != 0 || (d.extractLsb' 5 3).toNat != 0 then
    some 0x42
  else if dSfmt d != (if fmt ≤ 6 then 2 else if 24 ≤ fmt ∧ fmt ≤ 30 then 1 else 0) then some 0x43
  else if !(ks == 0 || (ks % 8 == 0 && decide (8 ≤ ks ∧ ks ≤ 4096))) || (fmtFactor fmt && (ks == 0 || cols % ks != 0)) then some 0x44
  else if rows == 0 || cols == 0 || cols * w % 8 != 0 || decide (dStride d < rowBytes) then some 0x45
  else if (!dAcc d && !dLocal d && decide (dBase d ≥ 2 ^ 52)) || (!dSlocal d && decide (dSbase d ≥ 2 ^ 52)) ||
      (!dAcc d && dLocal d && decide (dBase d + (rows - 1) * dStride d + rowBytes > lmemSize)) ||
      (fmtFactor fmt && dSlocal d && decide (dSbase d + rows * (cols / ks) > lmemSize)) then some 0x46
  else if (dAcci d && !dAcc d) ||
      (dAcc d && !(fmt == 31 && dSfmt d == 0 && ks == 0 && dLocal d && decide (rows ≤ 64) && decide (cols ≤ 64) &&
        dStride d % 8 == 0 && decide (dStride d ≥ 8 * cols))) then some 0x47
  else none

/-! ### The words of R209 -/

/-- CBLK. -/
def twCblk (x : Word) : Nat := bitsOf x.toNat 63 42
/-- The number of rows. -/
def twRows (x : Word) : Nat := bitsOf x.toNat 41 36 + 1
/-- ROW. -/
def twRow (x : Word) : Nat := bitsOf x.toNat 35 12
/-- TID. -/
def twTid (x : Word) : Nat := bitsOf x.toNat 11 0
/-- FSCOPE. -/
def lwFscope (x : Word) : Nat := bitsOf x.toNat 51 48
/-- FLAGEN. -/
def lwFlagen (x : Word) : Bool := bitOf x.toNat 47
/-- FLAGIX. -/
def lwFlagix (x : Word) : Nat := bitsOf x.toNat 46 36
/-- FLAGTID. -/
def lwFlagtid (x : Word) : Nat := bitsOf x.toNat 35 24
/-- TORING. -/
def lwToring (x : Word) : Bool := bitOf x.toNat 23
/-- RING. -/
def lwRing (x : Word) : Nat := bitsOf x.toNat 22 20
/-- LADDR. -/
def lwLaddr (x : Word) : Nat := bitsOf x.toNat 19 0

/-- K of R210: KSLICE, or COLS when KSLICE is 0. -/
def dK (d : BitVec 256) : Nat := if dKslice d = 0 then dCols d else dKslice d
/-- The bytes of one row of a column block. -/
def rowBytes (d : BitVec 256) : Nat := (dK d * fmtBits (dFmt d) + 7) / 8
/-- The address of a row in a column block, R209. -/
def rowAddr (d : BitVec 256) (cblk row : Nat) : Nat := dBase d + row * dStride d + cblk * rowBytes d
/-- The address of a row's block factor, R150. -/
def factorAddr (d : BitVec 256) (cblk row : Nat) : Nat := dSbase d + row * (dCols d / dK d) + cblk
/-- The flag word of a copy command, R209. -/
def flagAddr (fd : BitVec 256) (xb : Word) : Nat := dBase fd + 8 * lwFlagix xb

end Sys2Proof.Machine
end

