-- ==== Sys2Proof/Machine/Ops.lean ====
section
/-! DEFINITION. The shared operations of one core: registers and writes in flight, rings, banks, the store buffer, the
next instruction, opening and discarding a region; then taking a trap and returning from the handler. -/

namespace Sys2Proof.Machine

/-- Why an instruction ends before its own effect: a trap, a hold at issue for a cycle, a hold while lines of the scratchpad are copied
(R358), or another next state (a page fault at its commit). -/
inductive Stop where
  | trap (t : Trap)
  | hold
  | copy (addrs : List Nat)
  | goto (s : State)
  deriving DecidableEq, Repr

/-- The result of an operation that may stop the instruction. -/
abbrev Res (α : Type) := Except Stop α

/-- A trap with its cause and TVAL. -/
def trapR {α : Type} (c : Cause) (v : Word) : Res α := .error (.trap ⟨c, v⟩)
/-- An ACCESS trap with its reason code. -/
def access {α : Type} (n : Nat) : Res α := .error (.trap ⟨.access, wd n⟩)
/-- The instruction is held at issue. -/
def holdR {α : Type} : Res α := .error .hold
/-- A check that traps unless it holds. -/
def need (b : Bool) (c : Cause) (v : Word) : Res Unit := if b then .ok () else trapR c v
/-- A hold unless a condition holds. -/
def needIdle (b : Bool) : Res Unit := if b then .ok () else holdR

/-! ### Code space (R36) -/

/-- The loaded code from a code address on, up to the end of the .text that holds it; none where no loaded .text does. -/
def Core.codeAt (c : Core) (pc : Nat) : List Byte :=
  match c.gaps.find? (fun g => decide (pc < g.2)) with
  | some g => if g.1 ≤ pc then [] else (c.code.drop pc).take (g.1 - pc)
  | none => c.code.drop pc
/-- The loaded code from the program counter on. -/
def Core.codeFrom (c : Core) : List Byte := c.codeAt c.pc.toNat
/-- The instruction word at the program counter. -/
def Core.instrWord (c : Core) : Word := wd (leNat (c.codeFrom.take 4))

/-! ### Registers (R43, R44, R45) -/

/-- STATUS.DCHK. -/
def Core.dchk (c : Core) : Bool := c.arch.status.getLsbD 2
/-- STATUS.INH: the core is in its trap handler. -/
def Core.inh (c : Core) : Bool := c.arch.status.getLsbD 12
/-- STATUS.RM. -/
def Core.rm (c : Core) : Rnd := rmOf c.arch.status
/-- STATUS.NSAT. -/
def Core.nsat (c : Core) : Bool := c.arch.status.getLsbD 5

/-- Whether an integer register is live; x0 always is, R43. -/
def Core.liveX (c : Core) (r : XReg) : Bool := r == 0 || c.arch.livex.getLsbD r
/-- Whether a lane register is bound as a stream register, R12. -/
def Core.bound (c : Core) (r : VReg) : Bool := decide (r.val < 4) && (nth c.arch.streams.toList r.val Stream.none).bound
/-- The stream of a register v0 to v3. -/
def Core.stream (c : Core) (n : Nat) : Stream := nth c.arch.streams.toList n Stream.none
/-- Whether a lane register is live; a bound stream register always is. -/
def Core.liveV (c : Core) (r : VReg) : Bool := c.bound r || c.arch.livev.getLsbD r

/-- The value of a read of a dead integer register with DCHK = 0: zero, or one that a register has held, R43. -/
def Core.deadX (c : Core) (r : XReg) : Word :=
  match Config.deadPick c.id.lh c.id.lc c.iseq r.val with
  | 0 => 0
  | n + 1 => nth c.heldX n 0
/-- The value of a read of a dead lane register with DCHK = 0. -/
def Core.deadV (c : Core) (r : VReg) : Lane :=
  match Config.deadPick c.id.lh c.id.lc c.iseq (32 + r.val) with
  | 0 => 0
  | n + 1 => nth c.heldV n 0

/-- The value an integer register reads as, R11, R43. -/
def Core.xval (c : Core) (r : XReg) : Word :=
  if r = 0 then 0 else if c.liveX r then c.arch.x[r] else c.deadX r
/-- The value a mask register reads as: k0 reads all ones, R11. -/
def Core.kval (c : Core) (k : KReg) : Word := if k = 0 then BitVec.allOnes 64 else c.arch.k[k]

/-- A read of an integer register, R43. -/
def Core.readX (c : Core) (r : XReg) : Res Word :=
  if !c.liveX r && c.dchk then trapR .deadread (wd r.val) else .ok (c.xval r)

/-- The kill of a last-use mark, R43. -/
def Core.killX (c : Core) (r : XReg) (last : Bool) : Core :=
  if last && r != 0 then { c with arch := { c.arch with livex := c.arch.livex &&& ~~~(1#32 <<< r.val) } } else c
/-- The kill of a last-use mark on a lane register; without effect on a bound one, R43. -/
def Core.killV (c : Core) (r : VReg) (last : Bool) : Core :=
  if last && !c.bound r then { c with arch := { c.arch with livev := c.arch.livev &&& ~~~(1#16 <<< r.val) } } else c

/-- A write that becomes visible `lat` cycles after its issue, with the flags it raises then, R44, R96. -/
def Core.write (c : Core) (now lat : Nat) (d : Dst) (fl : Flags) : Core :=
  { c with flights := c.flights ++ [⟨c.iseq, now, now + lat, c.pc, d, fl, false⟩] }
/-- A write of an integer register; one of x0 is discarded, R11. -/
def Core.writeX (c : Core) (now lat : Nat) (d : XReg) (v : Word) : Core :=
  if d = 0 then c else c.write now lat (.x d v) 0
/-- A write of a mask register; one of k0 is discarded, R11. -/
def Core.writeK (c : Core) (now lat : Nat) (d : KReg) (v : Word) (fl : Flags) : Core :=
  if d = 0 then (if fl = 0 then c else c.write now lat .none fl) else c.write now lat (.k d v) fl

/-- A value remembered as one that a register of the core has held, R43. -/
def Core.remember (c : Core) (w : Word) : Core := if c.heldX.contains w then c else { c with heldX := c.heldX ++ [w] }
/-- A lane value remembered. -/
def Core.rememberV (c : Core) (v : Lane) : Core := if c.heldV.contains v then c else { c with heldV := c.heldV ++ [v] }

/-- An integer register set at once, for results written at commit or at wake; x0 discards, R11, R44. -/
def Core.setX (c : Core) (d : XReg) (v : Word) : Core :=
  if d = 0 then c else
  { c.remember v with
    arch := { c.arch with x := c.arch.x.set d v, livex := c.arch.livex ||| (1#32 <<< d.val) }
    landX := c.landX.set d c.iseq }

/-- The flags of an instruction ORed into FFLAGS in a cycle, R96; a write of FFLAGS in that cycle comes first (R97). -/
def Core.raise (c : Core) (now : Nat) (fl : Flags) : Core :=
  if fl = 0 then c else
  { c with
    arch := { c.arch with fflags := c.arch.fflags ||| zx fl }
    raisedAt := now
    raised := (if c.raisedAt = now then c.raised else 0) ||| fl }

/-- The flags of an engine ORed into FFLAGS: they stay through a discard (R98), and a SYSR of this cycle sees them (R97). -/
def Core.engineFlags (c : Core) (now : Nat) (fl : Flags) : Core :=
  if fl = 0 then c else
  { (c.raise now fl) with
    ckpt := { c.ckpt with fflags := c.ckpt.fflags ||| zx fl }
    flights := c.flights.map (fun f => if f.ffTap && f.issued == now then
      (match f.dst with | .x r w => { f with dst := .x r (w ||| zx fl) } | _ => f) else f) }

/-- The bytes of a lane value. -/
def laneBytes (v : Lane) : List Byte := (List.range 64).map (fun i => v.extractLsb' (8 * i) 8)
/-- The lane value of 64 bytes. -/
def laneOf (bs : List Byte) : Lane := BitVec.ofNat 512 (leNat (bs.take 64))
/-- Every bit of the bytes a mask of bytes names. -/
def byteMask (bytes : BitVec 64) : Lane :=
  laneOf ((List.range 64).map (fun i => if bytes.getLsbD i then (0xFF : Byte) else 0))
/-- A lane value with the named bytes replaced. -/
def laneMerge (old new : Lane) (bytes : BitVec 64) : Lane :=
  if bytes = BitVec.allOnes 64 then new else (old &&& ~~~byteMask bytes) ||| (new &&& byteMask bytes)

/-- A write in flight that lands, but for a push: discarded when a later-issued write has landed, R45. -/
def Core.landReg (c : Core) (f : Flight) : Core :=
  match f.dst with
  | .none => c
  | .x r w => if c.landX[r] > f.seq then c else
    { c.remember w with
      arch := { c.arch with x := c.arch.x.set r w, livex := c.arch.livex ||| (1#32 <<< r.val) }
      landX := c.landX.set r f.seq }
  | .v r v _ => if c.landV[r] > f.seq then c else
    { c.rememberV v with
      arch := { c.arch with v := c.arch.v.set r v, livev := c.arch.livev ||| (1#16 <<< r.val) }
      landV := c.landV.set r f.seq }
  | .k r w => if c.landK[r] > f.seq then c else
    { c.remember w with
      arch := { c.arch with k := c.arch.k.set r w }
      landK := c.landK.set r f.seq }

/-- A flight in the order of landing: by cycle, then by issue. -/
def insertFlight (f : Flight) : List Flight → List Flight
  | [] => [f]
  | g :: t => if f.due < g.due || (f.due == g.due && decide (f.seq < g.seq)) then f :: g :: t else g :: insertFlight f t
/-- The flights in the order of landing. -/
def byLanding (l : List Flight) : List Flight := l.foldr insertFlight []

/-- Whether a flight is a push to a bound write stream. -/
def Core.isPush (c : Core) (f : Flight) : Bool :=
  match f.dst with
  | .v r _ _ => c.bound r && (c.stream r.val).write
  | _ => false

/-- The registers as every write in flight leaves them: what the checkpoint of a commit point that is not held for
writes in flight records (R196, R346; log entry 21). -/
def Core.settled (c : Core) : Arch :=
  ((byLanding c.flights).foldl (fun c f => (c.landReg f).raise 0 f.flags) c).arch

/-! ### Rings (R16, R17, R147, R149) -/

/-- The local address of the head. -/
def Ring.headAddr (r : Ring) : Nat := if r.conf then r.base + 64 * r.head else 0
/-- The local address of the committed tail. -/
def Ring.tailAddr (r : Ring) : Nat := if r.conf then r.base + 64 * ((r.head + r.held) % r.size) else 0
/-- Whether a line (its address divided by 64) lies in the held span. -/
def Ring.holds (r : Ring) (ln : Nat) : Bool :=
  r.conf && decide (r.base / 64 ≤ ln) && decide (ln < r.base / 64 + r.size) &&
    decide ((ln - r.base / 64 + r.size - r.head) % r.size < r.held)
/-- The free lines. -/
def Ring.free (r : Ring) : Nat := r.size - r.held - r.appended
/-- The local address of the n-th line after the head, modulo the ring. -/
def Ring.lineAt (r : Ring) (n : Nat) : Nat := r.base + 64 * ((r.head + n) % r.size)
/-- A ring with lines popped. -/
def Ring.pop (r : Ring) (n : Nat) : Ring := { r with head := (r.head + n) % r.size, held := r.held - n }
/-- A ring with a ring instruction applied, as the engines see it, R149: their own counts (deliveries, claims, stops and lines appended)
stay, RINGCLR's appended lines aside. -/
def Ring.apply (r : Ring) : RingOp → Ring
  | .set base size => { r with conf := true, base := base, size := size, head := 0, held := 0, gapAt := 0, gap := 0 }
  | .push n => { r with held := r.held + n }
  | .pop n => r.pop n
  | .clear => { r with head := 0, held := 0, appended := 0 }
/-- The ring of a number in a view. -/
def ringAt (rs : Vector Ring 8) (n : Nat) : Ring := nth rs.toList n Ring.none
/-- A view with one ring changed. -/
def ringUpd (rs : Vector Ring 8) (n : Nat) (f : Ring → Ring) : Vector Ring 8 :=
  if h : n < 8 then rs.set n (f rs[n]) else rs
/-- A change that an engine makes to a ring: seen in the core's own view as well (R149). -/
def Core.engRing (c : Core) (n : Nat) (f : Ring → Ring) : Core :=
  { c with rings := ringUpd c.rings n f, erings := ringUpd c.erings n f }
/-- A tail advanced as the engines see it, remembered while work that was committed before drains: a matrix command that drains later starts no
earlier than its lines were committed, R143. -/
def Core.tailed (c : Core) (now n lines : Nat) : Core :=
  { c with tails := c.tails.filter (fun t => (c.drainq.head?.map (fun d => decide (d.at_ ≤ t.2.1))).getD (t.2.1 == now)) ++ [(n, now, lines)] }
/-- The cycle in which the first k lines behind the head of a ring had been committed, of those remembered; 0 before. -/
def Core.readyBy (c : Core) (n k : Nat) : Nat :=
  let held := (ringAt c.erings n).held
  ((c.tails.filter (fun t => t.1 == n)).reverse.foldl (fun (acc : Nat × Nat) t =>
    (acc.1 + t.2.2, if k + acc.1 ≤ held && decide (held < k + acc.1 + t.2.2) then t.2.1 else acc.2)) (0, 0)).2
/-- A ring instruction: the core's own view changes at once, the engines' with the region's commit, in program order, R149. -/
def Core.ringOp (c : Core) (n : Nat) (op : RingOp) : Core :=
  { c with rings := ringUpd c.rings n (fun r => r.apply op), sbuf := c.sbuf ++ [.ring n op] }
/-- The lowest ring that holds the line of an address. -/
def heldBy (rs : Vector Ring 8) (a : Nat) : Option Nat := indexOf? (fun r => r.holds (a / 64)) rs.toList
/-- The first of a list of byte addresses that is held, with its ring. -/
def firstHeld (rs : Vector Ring 8) : List Nat → Option (Nat × Nat)
  | [] => none
  | a :: t => match heldBy rs a with
    | some n => some (a, n)
    | none => firstHeld rs t
/-- The trap of an access to a held span, R17, R334. -/
def checkHeld (rs : Vector Ring 8) (as : List Nat) : Res Unit :=
  match firstHeld rs as with
  | some (a, n) => trapR .ringheld (wd (a + n * 2 ^ 60))
  | none => .ok ()
/-- The addresses of n bytes. -/
def span (a n : Nat) : List Nat := (List.range n).map (a + ·)
/-- The first byte of each of n lines. -/
def lineSpan (a n : Nat) : List Nat := (List.range n).map (fun i => a + 64 * i)

/-! ### Banks (R14, R15, R196) -/

/-- The bank of an address. -/
def bankOf (a : Nat) : Nat := a / 64 % 16
/-- A claim added, and the claims that are past dropped. -/
def Core.claim (c : Core) (now : Nat) (u : BankUse) : Core :=
  { c with bankUse := c.bankUse.filter (fun v => decide (now ≤ v.hi)) ++ [u] }
/-- Whether a bank is claimed in a cycle, and by which requester. -/
def Core.claimed (c : Core) (now b : Nat) : Option Nat :=
  (c.bankUse.find? (fun u => u.bank == b && decide (u.lo ≤ now) && decide (now ≤ u.hi))).map (·.code)
/-- A dynamic requester takes a bank of a core for this cycle, R14. -/
def State.useBank (s : State) (id : CoreId) (a : Nat) : State := { s with dynUse := s.dynUse ++ [(id, bankOf a)] }
/-- Whether a dynamic requester finds the bank of an address taken in this cycle: by a static request, an atomic slot, a timed landing
(R15) or another dynamic requester (R14). -/
def State.bankBusy (s : State) (c : Core) (a : Nat) : Bool :=
  (c.claimed s.now (bankOf a)).isSome || s.dynUse.contains (c.id, bankOf a)
/-- A static request in a cycle: it takes the bank, or traps BANKCONF when the bank is claimed. -/
def Core.request (c : Core) (now a code : Nat) : Res Core :=
  match c.claimed now (bankOf a) with
  | some q => trapR .bankconf (wd (bankOf a + 16 * code + 256 * q))
  | none => .ok (c.claim now ⟨bankOf a, now, now, code⟩)
/-- The reads of a lane load: one line of a bank a cycle, from its issue cycle on, R15, R190. A pop of this cycle is one of
the same instruction, and does not conflict. -/
def Core.laneReads (c : Core) (now : Nat) (lns : List Nat) : Res Core :=
  (List.range 16).foldlM (fun c b =>
    let k := (lns.filter (fun l => l % 16 == b)).length
    if k = 0 then .ok c else
    match c.bankUse.find? (fun u => u.bank == b && decide (u.lo ≤ now + k - 1) && decide (now ≤ u.hi) &&
        !(u.code == 2 && u.lo == now)) with
    | some u => trapR .bankconf (wd (b + 16 + 256 * u.code))
    | none => .ok (c.claim now ⟨b, now, now + k - 1, 1⟩)) c
/-- The most lines of a list in one bank, at least 1, R44. -/
def maxPerBank (lns : List Nat) : Nat :=
  (List.range 16).foldl (fun m b => Nat.max m (lns.filter (fun l => l % 16 == b)).length) 1

/-! ### The store buffer (R160, R348) -/

/-- The cells that a buffered line writes: those of its own 64 bytes. -/
def lineCells (ln : Nat) (bs : List Host.Cell) : List Host.Cell := bs.filter (fun x => x.1 / 64 == ln)
/-- The cells that the lines of a list of buffered items write, oldest first. -/
def bufCells : List Buf → List Host.Cell
  | [] => []
  | .line ln bs :: t => lineCells ln bs ++ bufCells t
  | _ :: t => bufCells t
/-- The last value a list of cells gives an address. -/
def lastCell (cs : List Host.Cell) (a : Nat) : Option Byte := cs.foldl (fun r x => if x.1 = a then some x.2 else r) none
/-- The bytes that a BOSET with an EXPECT writes to its object: ARRIVED and BSTAT are 0, GEN rises, R217. -/
def bosetBytes (expect : BitVec 32) (gen : Nat) : List Byte :=
  leBytes 4 expect.toNat ++ leBytes 4 0 ++ leBytes 2 ((gen + 1) % 2 ^ 16) ++ leBytes 2 0
/-- The bytes of a scratchpad behind a piece of committed work: a store, or the object that a BOSET writes as a store of the commit does,
R160, R217. -/
def behind (m : Nat → Byte) : Buf → Nat → Byte
  | .line ln bs, a => (lastCell (lineCells ln bs) a).getD (m a)
  | .cmd _ _ (.boset o (some e)), a =>
    if o ≤ a ∧ a < o + 12 then nth (bosetBytes e (leNat [m (o + 8), m (o + 9)])) (a - o) 0 else m a
  | _, a => m a
/-- The work that a core has committed and that is still to be performed: what the twin of a mirror launch has offered, and what drains. -/
def Core.committed (c : Core) : List Drain := c.mirror.map (·.item) ++ c.drainq
/-- The byte that the core's own loads read at a scratchpad address, R160. -/
def Core.byteAt (c : Core) (a : Nat) : Byte :=
  (lastCell (bufCells c.sbuf) a).getD (c.committed.foldl (fun m d => behind m d.item) c.mem.get a)
/-- The bytes that the core's own loads read from an address on. -/
def Core.bytesAt (c : Core) (a n : Nat) : List Byte := (span a n).map c.byteAt
/-- The number in bytes that the core's own loads read. -/
def Core.numAt (c : Core) (a n : Nat) : Nat := leNat (c.bytesAt a n)

/-- The distinct lines of a list of buffered items. -/
def bufLines : List Buf → List Nat
  | [] => []
  | .line ln _ :: t => if (bufLines t).contains ln then bufLines t else ln :: bufLines t
  | _ :: t => bufLines t
/-- Whether an item takes a store-buffer line of its own. -/
def Buf.takesLine : Buf → Bool
  | .msg _ _ _ | .log _ _ => true
  | _ => false
/-- Whether an item takes a command slot. -/
def Buf.isCmd : Buf → Bool
  | .cmd _ _ _ => true
  | _ => false
/-- The lines a list of buffered items takes, R348. -/
def linesOf (l : List Buf) : Nat := (bufLines l).length + (l.filter Buf.takesLine).length
/-- The command slots it takes. -/
def cmdsOf (l : List Buf) : Nat := (l.filter Buf.isCmd).length

/-- The lines a list of byte addresses touches, in order, without repeats. -/
def linesTouched (as : List Nat) : List Nat :=
  as.foldl (fun r a => if r.contains (a / 64) then r else r ++ [a / 64]) []

/-- The lines that committed work occupies until it drains: each line of each region, and each message and log append, R348. -/
def committedLines : List Drain → Nat
  | [] => 0
  | d :: t => committedLines t + (match d.item with
    | .line ln _ => nbit (!t.any (fun e => e.at_ == d.at_ && (match e.item with | .line l _ => l == ln | _ => false)))
    | b => nbit b.takesLine)
/-- The room for new lines in the region's buffer: REGION_OVF for the 129th line, a hold while the lines of earlier
regions occupy the rest, R348, R352. `addrs` holds the local address of each new line, or 0. -/
def Core.room (c : Core) (addrs : List Nat) : Res Unit :=
  let used := linesOf c.sbuf
  if used + addrs.length > 128 then trapR .regionOvf (wd (nth addrs (128 - used) 0 % 2 ^ 20))
  else if addrs.length ≠ 0 && decide (used + addrs.length + committedLines c.drainq > 128) then holdR
  else .ok ()
/-- The lines of a list of addresses that the region does not yet hold, as local addresses. -/
def Core.newLines (c : Core) (as : List Nat) : List Nat :=
  ((linesTouched as).filter (fun l => !(bufLines c.sbuf).contains l)).map (· * 64)

/-- A buffered line with one more byte, joined to the line's entry when no message, log append or command follows it. -/
def putByte (l : List Buf) (a : Nat) (b : Byte) : List Buf :=
  let rec go : List Buf → Option (List Buf)
    | [] => none
    | .line ln bs :: t => if ln = a / 64 then some (.line ln (bs ++ [(a, b)]) :: t) else (go t).map (.line ln bs :: ·)
    | _ :: _ => none
  match go l.reverse with
  | some r => r.reverse
  | none => l ++ [.line (a / 64) [(a, b)]]
/-- The buffer with stored bytes. -/
def putBytes (l : List Buf) (cs : List Host.Cell) : List Buf := cs.foldl (fun l c => putByte l c.1 c.2) l

/-- The undo lines of a core with the old contents of each 256-byte line of some addresses, R358. -/
def Core.undoWith (c : Core) (l : List Nat) : List (Nat × List Byte) :=
  l.foldl (fun u a => if u.any (fun p => p.1 == a / 256) then u else u ++ [(a / 256, c.mem.getN (a / 256 * 256) 256)]) c.undo
/-- Scratchpad bytes written, the old contents of each 256-byte line logged first in an Umbra launch, R358. -/
def Core.poke (c : Core) (umbra : Bool) (cs : List Host.Cell) : Core :=
  { c with mem := c.mem.setCells cs, undo := if umbra then c.undoWith (cs.map (·.1)) else c.undo }
/-- The hold of an instruction that is the first in an epoch of an Umbra launch to write to the 256-byte line of one of some addresses,
R358. -/
def Core.copyFirst (c : Core) (umbra : Bool) (l : List Nat) : Res Unit :=
  if umbra && l.any (fun a => !c.undo.any (fun u => u.1 == a / 256)) then .error (.copy l) else .ok ()
/-- The first write of an epoch to a 256-byte line, in some cores of an Umbra launch: the old contents are copied, and the write is
held for the 4 cycles of R358; none when nothing has to be copied. -/
def State.undoHold (s : State) (lh : Nat) (p : Core → Bool) (l : List Nat) : Option State :=
  if s.umbra lh && s.cores.any (fun c => p c && l.any (fun a => !c.undo.any (fun u => u.1 == a / 256))) then
    some (s.mapCores p (fun c => { c with undo := c.undoWith l }))
  else none
/-- Bytes at an address as cells. -/
def cellsAt (a : Nat) (bs : List Byte) : List Host.Cell := (List.range bs.length).map (fun i => (a + i, nth bs i 0))

/-- Whether committed work still has to be performed onto a line: a line of stores, or a BOSET of an object in it, R160, R217. -/
def Core.draining (c : Core) (ln : Nat) : Bool :=
  c.committed.any (fun d => match d.item with
    | .line l _ => l == ln
    | .cmd _ _ (.boset a (some _)) => a / 64 == ln
    | _ => false)
/-- Whether the core's committed work on its own scratchpad is performed: nothing drains, and no BOSET of a mirror launch is still to be
compared. -/
def Core.drained (c : Core) : Bool :=
  c.drainq.isEmpty && !c.mirror.any (fun m => match m.item.item with | .cmd _ _ (.boset ..) => true | _ => false)
/-- The writes of a register in flight put behind one that has to wait: a push that is held lets none overtake it, R129. -/
def Core.waitPush (c : Core) (r : VReg) (n : Nat) : List Flight :=
  c.flights.map (fun g => match g.dst with | .v q _ _ => if q = r then { g with due := g.due + n } else g | _ => g)

/-- The claim of a line's bank by a store that is performed at issue: it meets what claimed the bank before this instruction, `c` the core
before it, and neither its own lines nor a pop of its own, R15. -/
def Core.storeClaim (d c : Core) (now code l : Nat) : Res Core :=
  match c.bankUse.find? (fun u => u.bank == l % 16 && decide (u.lo ≤ now) && decide (now ≤ u.hi) && !(u.code == 2 && u.lo == now)) with
  | some u => trapR .bankconf (wd (l % 16 + 16 * code + 256 * u.code))
  | none => .ok (if (d.claimed now (l % 16)).isSome then d else d.claim now ⟨l % 16, now, now, code⟩)
/-- The region's stores of a list of bytes: buffered, or performed at issue in the trap handler (R335), after every
committed store to the same line (log entry 22). -/
def Core.store (c : Core) (now code : Nat) (umbra : Bool) (cs : List Host.Cell) : Res Core := do
  if c.inh then
    needIdle (!(linesTouched (cs.map (·.1))).any c.draining)
    c.copyFirst umbra (cs.map (·.1))
    let c' ← (linesTouched (cs.map (·.1))).foldlM (fun d l => d.storeClaim c now code l) c
    .ok (c'.poke umbra cs)
  else
    c.room (c.newLines (cs.map (·.1)))
    .ok { c with sbuf := putBytes c.sbuf cs }

/-- A message or log append buffered, R193, R197. -/
def Core.buffer (c : Core) (b : Buf) : Res Core := do
  c.room [0]
  .ok { c with sbuf := c.sbuf ++ [b] }

/-- A command buffered: REGION_OVF for the 17th slot, R352. -/
def Core.command (c : Core) (d : XReg) (cmd : Cmd) : Res Core :=
  if cmdsOf c.sbuf ≥ 16 then trapR .regionOvf (1 <<< 63)
  else .ok { c with sbuf := c.sbuf ++ [.cmd c.iseq d cmd] }

/-! ### Streams (R127, R129, R130) -/

/-- The transfers of a stream. -/
def Stream.total (s : Stream) : Nat := s.icount.toNat * s.ocount.toNat
/-- The address of a transfer, R127. -/
def Stream.addr (s : Stream) (i : Nat) : Word :=
  s.base + wd (i % s.icount.toNat) * s.istride + wd (i / s.icount.toNat) * s.ostride
/-- The lines of the pushes in flight, in landing order, for the write stream n. -/
def Core.pendingPushes (c : Core) (n : Nat) : List Nat :=
  let st := c.stream n
  if !(st.bound && st.write) then [] else
  let fs := byLanding (c.flights.filter (fun f => match f.dst with | .v r _ _ => r.val == n | _ => false))
  let kept := (fs.foldl (fun (acc : Nat × List Flight) f => if acc.1 > f.seq then acc else (f.seq, acc.2 ++ [f]))
    (nth c.landV.toList n 0, [])).2
  (List.range kept.length).map (fun i => (st.addr (st.pos + i)).toNat / 64)
/-- REGION_WAR: a read of a line to which a push is in flight, R352. -/
def Core.checkWar (c : Core) (lns : List Nat) (first : Word) : Res Unit :=
  if lns.any (fun l => (List.range 4).any (fun n => (c.pendingPushes n).contains l)) then trapR .regionWar first else .ok ()

/-- A stream with its generator moved on. -/
def Core.setStream (c : Core) (n : Nat) (s : Stream) : Core :=
  if h : n < 4 then { c with arch := { c.arch with streams := c.arch.streams.set n s } } else c

/-- Whether the core's loads wait for a fence: one is still among its committed work, or messages that one waits for are on their way,
R168, R169. -/
def Core.loadHeld (c : Core) : Bool :=
  c.drainq.any (fun d => match d.item with | .fence f => f.loads | _ => false) || !c.loadAfter.isEmpty
/-- The hold of a load at issue behind a fence. -/
def Core.mayLoad (c : Core) : Res Unit := needIdle (!c.loadHeld)

/-- A pop of the next line of a bound read stream, R129, R130. -/
def Core.popStream (c : Core) (now n : Nat) : Res (Core × Lane) := do
  c.mayLoad
  let s := c.stream n
  need (!s.write) .access (wd (16 * n + 9))
  need (decide (s.pos < s.total)) .access (wd (16 * n + 8))
  let a := s.addr s.pos
  need (decide (a.toNat + 64 ≤ lmemSize)) .localrange a
  c.checkWar [a.toNat / 64] a
  let c' ← if c.claimed now (bankOf a.toNat) = some 2 then .ok c else c.request now a.toNat 2
  .ok (c'.setStream n { s with pos := s.pos + 1 }, laneOf (c.bytesAt a.toNat 64))

/-- A read of a lane register, R43: a bound read stream pops. -/
def Core.readV (c : Core) (now : Nat) (r : VReg) : Res (Core × Lane) :=
  if c.bound r then c.popStream now r.val
  else if c.arch.livev.getLsbD r then .ok (c, c.arch.v[r])
  else if c.dchk then trapR .deadread (wd (32 + r.val))
  else .ok (c, c.deadV r)

/-- A write that lands on a bound stream register: the push into the region's store buffer, R129, R130. -/
def Core.push (c : Core) (umbra : Bool) (f : Flight) (r : VReg) (v : Lane) (bytes : BitVec 64) : Res Core := do
  if c.landV[r] > f.seq then .ok c else
  let s := c.stream r.val
  need s.write .access (wd (16 * r.val + 9))
  need (decide (s.pos < s.total)) .access (wd (16 * r.val + 8))
  let a := s.addr s.pos
  need (decide (a.toNat + 64 ≤ lmemSize)) .localrange a
  let cs := (cellsAt a.toNat (laneBytes v)).filter (fun x => bytes.getLsbD (x.1 % 64))
  checkHeld c.rings (cs.map (·.1))
  let c' := { c.setStream r.val { s with pos := s.pos + 1 } with landV := c.landV.set r f.seq }
  if c.inh then
    needIdle (!c.draining (a.toNat / 64))
    c.copyFirst umbra (cs.map (·.1))
    .ok (c'.poke umbra cs)
  else
  c.room (c.newLines [a.toNat])
  .ok { c' with sbuf := if cs.isEmpty then (if (c.newLines [a.toNat]).isEmpty then c.sbuf else c.sbuf ++ [.line (a.toNat / 64) []])
                        else putBytes c.sbuf cs }

/-! ### The local window (R13, R22, R29) -/

/-- Where a local access falls: the scratchpad, or an offset in the event unit or the engine window. -/
inductive Loc where
  | scratch
  | event (off : Nat)
  | engine (off : Nat)
  deriving DecidableEq, Repr

/-- The checks of R13 on an access of n bytes. -/
def locate (a : Word) (n : Nat) : Res Loc :=
  let x := a.toNat
  if x % n ≠ 0 then trapR .misalign a
  else if x + n ≤ lmemSize then .ok .scratch
  else if x < 0x100000 || x ≥ 0x102000 then trapR .localrange a
  else if x < 0x101000 then
    (let off := x - 0x100000
     if (0x400 ≤ off && decide (off < 0x800)) || decide (0x880 ≤ off) then trapR .localrange a else .ok (.event off))
  else
    (let off := x - 0x101000
     if off < 0x80 || (0x88 ≤ off && decide (off < 0xB0)) || (0x100 ≤ off && decide (off < 0x200)) then .ok (.engine off)
     else trapR .localrange a)

/-- OUTST, BSTAT, BGEN, ARMED and BADDR of an armed slot, R29, from the object of R216. -/
def Core.armedWord (c : Core) (j : Nat) : Nat :=
  match nth c.armed.toList j none with
  | none => 0
  | some a =>
    let o := c.mem.num a 16
    (bitsOf o 31 0 + 2 ^ 64 - bitsOf o 63 32) % 2 ^ 64 * 2 ^ 64 + bitsOf o 95 80 * 2 ^ 48 + bitsOf o 79 64 * 2 ^ 32 + 2 ^ 31 + a

/-- The 16 bytes of the engine window that hold an offset, R29. -/
def Core.engineWord (c : Core) (off : Nat) : Nat :=
  let one (o : Nat) : Nat :=
    if o < 8 then (ringAt c.rings o).headAddr
    else if o < 16 then (ringAt c.rings (o - 8)).tailAddr
    else nth c.eseq.toList (o - 17) 0
  if off < 0x100 then one (off / 16 * 2) + 2 ^ 64 * one (off / 16 * 2 + 1) else c.armedWord ((off - 0x100) / 16)

/-! ### The next instruction (R44, R264, R265) -/

/-- The loop registers and the next address after an instruction of the given size that was no taken transfer, R264. -/
def Core.loopEnd (c : Core) (size : Nat) : Arch × Word :=
  let a := c.arch
  let fall := c.pc + wd size
  if c.inh then (a, fall) else
  let hit1 := a.lc[1] != 0 && c.pc == a.le[1]
  let a1 := if hit1 then { a with lc := a.lc.set 1 (a.lc[1] - 1) } else a
  if hit1 && a1.lc[1] != 0 then (a1, a1.ls[1]) else
  let hit0 := a1.lc[0] != 0 && c.pc == a1.le[0]
  let a0 := if hit0 then { a1 with lc := a1.lc.set 0 (a1.lc[0] - 1) } else a1
  (a0, if hit0 && a0.lc[0] != 0 then a0.ls[0] else fall)

/-- An instruction that completes its issue: the next one issues in the next cycle. -/
def Core.advance (c : Core) (now size : Nat) : Core :=
  { c with arch := (c.loopEnd size).1, pc := (c.loopEnd size).2, nextIssue := now + 1, iseq := c.iseq + 1 }

/-- The loops that a taken transfer to a target leaves, R265; the handler's transfers leave none (log entry 23). -/
def Core.exitLoops (c : Core) (target : Word) : Arch :=
  let a := c.arch
  if c.inh then a else
  let out (i : Fin 2) : Bool := a.lc[i] != 0 && (decide (target < a.ls[i]) || decide (target > a.le[i]))
  if out 0 then { a with lc := (a.lc.set 0 0).set 1 0 } else if out 1 then { a with lc := a.lc.set 1 0 } else a

/-- A taken branch or jump: its target issues three cycles later, R44. -/
def Core.jump (c : Core) (now : Nat) (target : Word) : Core :=
  { c with arch := c.exitLoops target, pc := target, nextIssue := now + 3, iseq := c.iseq + 1 }

/-! ### Regions (R333, R347 to R350) -/

/-- A new region opened at an address with REGCNT = 0; its checkpoint is taken now. -/
def Core.openRegion (c : Core) (pc : Word) : Core :=
  { c with ckpt := c.settled, regpc := pc, regcnt := 0, skip := false, anchor := none, anchored := false, atom := none }

/-- The open region discarded: its work dropped, the checkpoint restored, results in flight discarded, and the stop
record of a tour-anchored region back to not taken (R149, R268, R284, R333, R347). -/
def Core.discard (c : Core) : Core :=
  { c with
    arch := c.ckpt
    sbuf := []
    flights := []
    rings := c.erings
    atom := none
    skip := false
    window := none
    iseq := c.iseq + 2
    bankUse := c.bankUse.filter (fun u => u.code != 1)
    stops := match c.anchor with
      | some (t, i) => c.stops.map (fun r => if r.tour == t && r.stop == i then
          { r with st := match r.st with | .taken o => .ready o | st => st } else r)
      | none => c.stops
    anchor := none
    anchored := false }

/-- The region's re-entry at REGPC; the next instruction issues at a cycle, or is still held behind RGN.COMMIT (R350). -/
def Core.restart (c : Core) (at_ : Nat) : Core :=
  { c with pc := c.regpc, run := if c.drainHold && !c.drainq.isEmpty then .waiting .drain else .ready, nextIssue := at_ }

/-- Whether STATUS delegates a cause to the kernel's handler, R331, R334. -/
def delegates (status : Word) : Cause → Bool
  | .deadread => status.getLsbD 7
  | .misalign => status.getLsbD 8
  | .ebreak => status.getLsbD 9
  | .swtrap => status.getLsbD 10
  | _ => false

/-- The code of a cause, R334. -/
def Cause.code : Cause → Nat
  | .none => 0
  | .illegal => 1
  | .deadread => 2
  | .misalign => 3
  | .localrange => 4
  | .bankconf => 5
  | .ringheld => 6
  | .ringovf => 7
  | .pagefault => 8
  | .access => 9
  | .ecall => 10
  | .ebreak => 11
  | .swtrap => 12
  | .regionLimit => 13
  | .regionOvf => 14
  | .regionWar => 15
  | .slotviol => 16
  | .detected => 17
  | .engine => 18
  | .loopnest => 19
  | .watchdog => 20
  | .preempt => 21

/-- CAUSE, TVAL and EPC written, R332, R333. -/
def Core.record (c : Core) (t : Trap) (epc : Word) : Core := { c with cause := wd t.cause.code, tval := t.tval, epc := epc }
/-- The handler entered: INH set, the next instruction at TRAPVEC, in the next cycle (log entry 106). -/
def Core.enterHandler (c : Core) (now : Nat) : Core :=
  { c with
    arch := { c.arch with status := c.arch.status ||| 0x1000 }
    pc := c.trapvec
    run := .ready
    nextIssue := now + 1 }

/-! ### Writes to translated addresses, and trace records (R340, R341) -/

/-- Bytes written at a translated address: to device memory, or to the peer package of an aperture page. -/
def State.devWrite (s : State) (x : Xlat) (bs : List Byte) : State :=
  match x.peer with
  | none => s.hbmWrite x.pa bs
  | some p => { s with peerWrites := s.peerWrites ++ [(p, x.pa, bs)] }

/-- Bytes of one page written on the CTX path through a context's translation, for a logical core: a fault makes a queue entry as any other,
and the write is performed when that is resumed with RETRY, R318, R319 (log entry 45). -/
def State.ctxWrite (s : State) (ctx va : Nat) (bs : List Byte) (lc : Nat) : State :=
  match s.walkFor ctx va true with
  | (s, .ok pte) => s.devWrite (xlatOf pte va 0) bs
  | (s, .error k) =>
    let (s, n) := s.fault ctx va k.code true 6 false ⟨⟨0, lc, false⟩, none⟩ 0
    { s with ctxWrites := s.ctxWrites ++ [CtxWrite.mk ctx n va bs] }
/-- The writes of the CTX path that wait on a fault entry taken from those that wait. -/
def State.takeWrites (s : State) (ctx fseq : Nat) : List CtxWrite × State :=
  let mine (w : CtxWrite) : Bool := w.ctx == ctx && w.fseq == fseq
  (s.ctxWrites.filter mine, { s with ctxWrites := s.ctxWrites.filter (fun w => !mine w) })

/-- GRIDMAP, R332. -/
def Core.gridmap (c : Core) : Word :=
  wd (Nat.min c.binds 0xFFFF * 2 ^ 48 + c.die * 2 ^ 40 + c.cluster * 2 ^ 32 + c.col * 2 ^ 24 + c.row * 2 ^ 16 + c.id.lc)

/-- The bytes of a trace record, R340. -/
def traceBytes (time seq source ev ctx lcore : Nat) (payload : Word) : List Byte :=
  leBytes 8 time ++ leBytes 4 seq ++ leBytes 2 source ++ leBytes 2 ev ++ leBytes 1 ctx ++ leBytes 1 0 ++ leBytes 2 lcore ++
  leBytes 4 0 ++ leBytes 8 payload.toNat

/-- A trace record of a class written for a core, with a TIME in ns: dropped when its page is not writable, R341. The second twin of a mirror
launch writes none of its own (log entry 41). -/
def State.traceAt (s : State) (time : Nat) (id : CoreId) (cls ev : Nat) (payload : Word) : State :=
  match s.core? id with
  | none => s
  | some c =>
    if c.traceBase = 0 || !bitOf c.traceXb.toNat (8 + cls) then s else
    let seq := (c.traceSeq + 1) % 2 ^ 32
    let at_ := c.traceBase.toNat + 32 * ((seq + 2 ^ 32 - 1) % 2 ^ 32 % 2 ^ bitsOf c.traceXb.toNat 4 0)
    let s := s.updCore id (fun c => { c with traceSeq := seq })
    if id.twin then s else
    let (s, r) := s.translate c at_ true
    match r with
    | .ok x => s.devWrite x (traceBytes time seq c.slot ev c.ctx c.id.lc payload)
    | .error _ => s
/-- A trace record of this cycle. -/
def State.trace (s : State) (id : CoreId) (cls ev : Nat) (payload : Word) : State := s.traceAt s.timeNs id cls ev payload
/-- The class 1 record of a re-entry that does not count: it carries what CAUSE and TVAL hold, R340, R354 (log entry 32). -/
def State.traceReentry (s : State) (id : CoreId) : State :=
  match s.core? id with
  | some c => s.trace id 1 (0x100 + c.cause.toNat) c.tval
  | none => s

/-! ### Taking a trap (R333, R334, R335, R338) -/

/-- The cores of a slaved gang beside a core. -/
def State.gangMates (s : State) (c : Core) : List CoreId :=
  let g := (s.recOf c.id.lh).gang
  if !c.slaved then [] else
  (s.cores.filter (fun d => d.id.lh == c.id.lh && d.id.twin == c.id.twin && d.id != c.id && d.slaved &&
    d.id.lc / g == c.id.lc / g)).map (·.id)

/-- A core, with its slaved gang, stopped for the firmware, which writes the record of the first trap of the launch and then kills it,
R334; the launch's other cores stop with the end of the cycle, so that each may trap in it. -/
def State.stopLaunch (s : State) (id : CoreId) (t : Trap) : State :=
  let first := ((s.launch? id.lh).map (fun l => l.doomed.isNone)).getD true
  let s := if first then s.trace id 1 (0x100 + t.cause.code) t.tval else s
  let mates := ((s.core? id).map s.gangMates).getD []
  let s := s.mapCores (fun c => (c.id == id || mates.contains c.id) && c.resident) (fun c => { c with run := .trapped })
  let s := s.tickFresh
  s.updLaunch id.lh (fun l => { l with doomed := match l.doomed with
    | some n => some n
    | none => some (s.now + 1 + Config.killTime s.fresh % cyclesIn 1000) })

/-- The trap of the core that issues, raised by the instruction at an address: the exception entry of R333. In a slaved gang every member
discards and enters the handler with it; one that did not trap reads CAUSE = 0, but an illegal instruction is raised by every member (R21,
R53). -/
def State.takeTrap (s : State) (t : Trap) (epc : Word) : State :=
  let c := s.core
  if c.inh then ({ s with core := c.record t epc }).stopLaunch c.id t else
  let mates := s.gangMates c
  let c' := { c.discard.record t epc with forwards := [] }
  let tm : Trap := if t.cause = .illegal then t else ⟨.none, 0⟩
  let s := (s.mapCores (fun d => mates.contains d.id) (fun d => { d.discard.record tm epc with forwards := [] }))
  let s := { s with core := c' }
  if delegates c'.arch.status t.cause then
    let s := s.mapCores (fun d => d.id == c.id || mates.contains d.id) (fun d => d.enterHandler s.now)
    s.trace c.id 1 (0x100 + t.cause.code) t.tval
  else s.stopLaunch c.id t

/-- REGION_LIMIT, with the last event: 1 a detected error, 2 ERET, 3 RGN.ABORT, R352. -/
def limitTrap (c : Core) (ev : Nat) : Trap := ⟨.regionLimit, wd (c.regpc.toNat % 2 ^ 32 + c.reglim % 256 * 2 ^ 32 + ev * 2 ^ 40)⟩
/-- A re-entry counted, R352, R354: REGCNT rises, and past REGLIM the launch goes to the firmware, which is an escalation
for the physical core (R364). `c` is the core as the re-entry finds it, `ev` the last event. The re-entry has a trace record of class
1, R340, with what CAUSE and TVAL hold; a detected error has had its own (log entry 32). -/
def State.countReentry (s : State) (c : Core) (ev at_ : Nat) (epc : Word) : State :=
  let c' := { c with regcnt := c.regcnt + 1 }
  if c.regcnt + 1 > c.reglim then
    let t := limitTrap c ev
    (({ s with core := c'.record t epc }).blame c.slot).stopLaunch c.id t
  else
    let s := { s with core := c'.restart at_ }
    if ev = 1 then s else s.trace c.id 1 (0x100 + c.cause.toNat) c.tval

/-- A counting re-entry of the core that issues and of its slaved gang (R21): the region discarded and started again. Each core's re-entry has
its trace record, R340, and one that is past its own REGLIM raises REGION_LIMIT. -/
def State.reenter (s : State) (ev at_ : Nat) (epc : Word) : State :=
  let mates := s.gangMates s.core
  let past := (mates.filterMap s.core?).find? (fun d => decide (d.regcnt + 1 > d.reglim))
  let s := s.mapCores (fun d => mates.contains d.id) (fun d => { d.discard with regcnt := d.regcnt + 1, forwards := [] }.restart at_)
  let s := s.countReentry { s.core.discard with forwards := [] } ev at_ epc
  if s.core.run == .trapped then s else
  match past with
  | some d =>
    let t : Trap := limitTrap d ev
    ((s.updCore d.id (fun d => d.record t epc)).blame d.slot).stopLaunch d.id t
  | none => mates.foldl (fun s id => s.traceReentry id) s

/-- A detected error of the core that issues, real or injected: CAUSE, TVAL and EPC written, then the re-entry once the
unit is reset, which REGION_REENTRY ends (R338, R353, R354, R370). In the handler it goes to the firmware (R335). -/
def State.detect (s : State) (unit : Nat) (injected : Bool) (epc : Word) : State :=
  let t : Trap := ⟨.detected, wd (unit + if injected then 0x100 else 0)⟩
  let c := s.core
  if c.inh then s.takeTrap t epc else
  let s := { s with core := c.record t epc }
  let s := (s.trace c.id 1 0x111 t.tval).tickFresh
  let mates := s.gangMates s.core
  let at_ := s.now + Nat.max 1 (if injected then 64 else Config.resetTime s.fresh % 65)
  let s := s.reenter 1 at_ epc
  if s.core.run != .trapped then
    (s.mapCores (fun d => d.id == c.id || mates.contains d.id) (fun d => { d with run := .resetting })).sched at_ false
      (.regionReentry c.id)
  else s

/-- ERET's return to the region, R335: INH and SKIP cleared, the checkpoint taken from the registers as the handler leaves
them, and a re-entry at REGPC that counts unless the instruction at EPC is skipped. The followers of a slaved gang return through the
leader's stream, each in its own time. -/
def State.eret (s : State) : State :=
  let c := s.core
  let skipping := c.arch.status.getLsbD 11
  let c1 := { c with arch := { c.arch with status := c.arch.status &&& ~~~(0x1800 : Word) } }
  let c2 := { c1 with ckpt := c1.settled }
  let c3 := { c2 with iseq := c2.iseq + 1 }
  if skipping then { s with core := { c3.restart (s.now + 3) with skip := true } }.trace c.id 1 (0x100 + c.cause.toNat) c.tval
  else s.countReentry c3 2 (s.now + 3) c.pc

/-! ### Running a meaning -/

/-- The instruction held at issue for a cycle: nothing changes but the cycle of the next attempt. -/
def State.held (s : State) : State := { s with core := { s.core with nextIssue := s.now + 1 } }

/-- The instruction held at issue for the 4 cycles in which lines are copied, R358. -/
def State.copying (s : State) (l : List Nat) : State :=
  { s with core := { s.core with undo := s.core.undoWith l, nextIssue := s.now + 4 } }

/-- The outcome of a meaning: its state, the trap it raised taken, or the instruction held at issue. -/
def State.run (s : State) (r : Res State) : Out :=
  match r with
  | .ok s' => .next s'
  | .error (.trap t) => .next (s.takeTrap t s.core.pc)
  | .error .hold => .next s.held
  | .error (.copy l) => .next (s.copying l)
  | .error (.goto s') => .next s'

/-- The outcome of a meaning that works on the core alone. -/
def State.runCore (s : State) (r : Res Core) : Out := s.run (r.map (fun c => { s with core := c }))

/-- An instruction that the trap handler may not use: ACCESS with TVAL 0xE0 there, R335. -/
def Core.notInHandler (c : Core) : Res Unit := need (!c.inh) .access 0xE0

end Sys2Proof.Machine
end

