-- ==== Sys2Proof/Machine/Commit.lean ====
section
/-! DEFINITION. Committing a region (spec/18_recovery.md R348; spec/08_isa_memory_engines.md R206): the first pages, the
limits, the tickets and what takes effect at the commit; and the tables as the open region sees them (R153, R282, R291). -/

namespace Sys2Proof.Machine

/-! ### Command classes and first pages -/

/-- The place of a class in the sequence registers. -/
def clsIx : EngClass → Fin 5
  | .mma => 0
  | .copy => 1
  | .sheaf => 2
  | .scan => 3
  | .coll => 4
/-- The path number of a class, R27. -/
def clsPath (p : EngClass) : Nat := (clsIx p).val + 1

/-- The class of a command; none for TID, BOBJ and TRACE commands, which are not sequenced, R28. -/
def Cmd.cls : Cmd → Option EngClass
  | .mma _ _ _ _ _ _ => some .mma
  | .copyIn _ _ _ _ | .copyOut _ _ _ _ | .gather _ _ _ _ _ | .mcast _ _ _ | .copyLoc _ _ => some .copy
  | .shfItin _ _ | .shfHold _ _ | .shfRead _ _ _ _ | .shfRel _ | .shfReread _ => some .sheaf
  | .scnCfg _ _ | .scnRun _ _ | .scnRed _ | .scnApply _ _ _ => some .scan
  | .cagrp _ | .reduce _ | .cgraph _ _ | .crun _ _ | .cabort _ => some .coll
  | .tidDef _ _ | .tidSwap _ _ | .tidInv _ | .boset _ _ | .trcEmit _ _ | .trcCfg _ _ => none

/-- The commands of a class that a core has issued and that have not completed, R143, R206. -/
def Core.inFlight (c : Core) (p : EngClass) : Nat := c.issued[clsIx p] - c.eseq[clsIx p]
/-- The commands of a class in a list of buffered items. -/
def cmdsOfClass (l : List Buf) (p : EngClass) : Nat :=
  (l.filter (fun b => match b with | .cmd _ _ cm => cm.cls == some p | _ => false)).length
/-- Whether a commit stays within 16 matrix, 64 COPY and 16 COLL commands in flight, R143, R206. -/
def Core.fits (c : Core) : Bool :=
  let ok (p : EngClass) (n : Nat) : Bool := cmdsOfClass c.sbuf p == 0 || decide (c.inFlight p + cmdsOfClass c.sbuf p ≤ n)
  ok .mma 16 && ok .copy 64 && ok .coll 16

/-- The first pages of a tile of a tensor: its rows, and its factors where they lie in device memory. -/
def tilePages (xa : Word) (desc : BitVec 256) (row : Nat) (wr : Bool) : List (Nat × Bool) :=
  (rowAddr desc (twCblk xa) row, wr) ::
  (if fmtFactor (dFmt desc) && !dSlocal desc then [(factorAddr desc (twCblk xa) row, wr)] else [])
/-- The first pages of a reduction. -/
def redPages (b : RedBlk) : List (Nat × Bool) :=
  (if b.srcLocal then [] else [(b.src, false)]) ++ (if b.dstLocal then [] else [(b.dst, true)])
/-- The stop record that SHF.REREAD names: the oldest record of the ring, taken as MISSED, R288. -/
def Core.missedRec (c : Core) (ring : Nat) : Option StopRec :=
  match c.stops.find? (fun r => r.ring == ring && r.st != .released) with
  | some r => if r.st == .taken 3 then some r else none
  | none => none
/-- The tour of an identity. -/
def State.tour? (s : State) (id : Nat) : Option Tour := s.tours.find? (fun t => t.id == id)

/-- The device addresses whose first page a command has translated at commit, with the direction, R206, R288. -/
def State.pagesOf (s : State) (c : Core) : Cmd → List (Nat × Bool)
  | .copyIn xa _ d _ => tilePages xa d (twRow xa) false
  | .copyOut xa _ d _ => tilePages xa d (twRow xa) true
  | .gather xa _ d _ rows => tilePages xa d (nth rows 0 0) false
  | .shfRead xa d _ _ => tilePages xa d (twRow xa) false
  | .shfReread ring =>
    match (c.missedRec ring).bind (fun r => s.tour? r.tour) with
    | some t => tilePages t.tw t.desc (twRow t.tw) false
    | none => []
  | .reduce b => redPages b
  | .crun nodes _ => nodes.flatMap (fun (n : List Nat × RedBlk) => redPages n.2)
  | _ => []

/-- The completion flag of a copy command: no flag, a local word, or a word of device memory at its address, R209. -/
def copyFlag (xb : Word) (fd : BitVec 256) : FlagDst × Option Nat :=
  if !lwFlagen xb then (.none, none)
  else if dLocal fd then (.localAt (flagAddr fd xb), none)
  else (.none, some (flagAddr fd xb))
/-- The flag of a command that takes local and tensor words. -/
def Cmd.flag : Cmd → FlagDst × Option Nat
  | .copyIn _ xb _ fd | .copyOut _ xb _ fd | .gather _ xb _ fd _ => copyFlag xb fd
  | .mcast b _ _ => (match b.flag with | some a => .localAt a | none => .none, none)
  | .reduce b => (match b.flag with | some a => .localAt a | none => .none, none)
  | _ => (.none, none)

/-- A fault on a first page. -/
structure PageFault where
  va : Nat
  kind : FKind
  wr : Bool
  path : Nat
  deriving DecidableEq, Repr

/-- A list of pages translated in order. -/
def State.translateAll (s : State) (c : Core) (path : Nat) : List (Nat × Bool) → State × Option PageFault
  | [] => (s, none)
  | (va, wr) :: t =>
    match s.translate c va wr with
    | (s, .ok _) => s.translateAll c path t
    | (s, .error k) => (s, some ⟨va, k, wr, path⟩)

/-- The first pages of a list of buffered items: each command's flag translation, or the first fault. -/
def State.firstPages (s : State) (c : Core) : List Buf → State × Except PageFault (List FlagDst)
  | [] => (s, .ok [])
  | .cmd _ _ cm :: t =>
    let path := match cm.cls with | some p => clsPath p | none => 0
    match s.translateAll c path (s.pagesOf c cm) with
    | (s, some f) => (s, .error f)
    | (s, none) =>
      let (s, fl) : State × Except PageFault FlagDst := match cm.flag with
        | (f, none) => (s, .ok f)
        | (_, some va) => match s.translate c va true with
          | (s, .error k) => (s, .error ⟨va, k, true, path⟩)
          | (s, .ok x) => (s, .ok (match x.peer with | some p => .peer p x.pa | none => .device x.pa))
      match fl with
      | .error f => (s, .error f)
      | .ok f => match s.firstPages c t with
        | (s, .error g) => (s, .error g)
        | (s, .ok l) => (s, .ok (f :: l))
  | _ :: t => match s.firstPages c t with
    | (s, .error g) => (s, .error g)
    | (s, .ok l) => (s, .ok (.none :: l))

/-! ### The tables as the open region sees them -/

/-- One TID write applied to a table, R152. -/
def tidApply (t : List (Nat × BitVec 256)) : Cmd → List (Nat × BitVec 256)
  | .tidDef ix d => alSet t ix (d ||| 0x800000)
  | .tidSwap i j => alSet (alSet t i ((alGet t j).getD 0)) j ((alGet t i).getD 0)
  | .tidInv ix => alSet t ix ((alGet t ix).getD 0 &&& ~~~(0x800000 : BitVec 256))
  | _ => t
/-- The commands of a list of buffered items. -/
def bufCmds : List Buf → List Cmd
  | [] => []
  | .cmd _ _ cm :: t => cm :: bufCmds t
  | _ :: t => bufCmds t
/-- A TID entry as the core's own instructions see it, R153. -/
def State.tidView (s : State) (ix : Nat) : BitVec 256 :=
  let t := ((s.launch? s.core.id.lh).map (fun l => if s.core.id.twin then l.tidsB else l.tids)).getD []
  (alGet ((bufCmds s.core.sbuf).foldl tidApply t) ix).getD 0

/-- One itinerary write applied, R282. -/
def itinApply (t : List (Nat × Itin)) : Cmd → List (Nat × Itin)
  | .shfItin ix it => alSet t ix it
  | .shfHold ix h => match alGet t ix with | some it => alSet t ix { it with hold := h } | none => t
  | _ => t
/-- An itinerary entry as the core's own instructions see it: one that the loader or the core itself has written, R282. -/
def State.itinView (s : State) (ix : Nat) : Option Itin :=
  let t := ((s.launch? s.core.id.lh).map (fun l => if s.core.id.twin then l.itinsB else l.itins)).getD []
  let mine := (bufCmds s.core.sbuf).any (fun cm => match cm with | .shfItin j _ => j == ix | _ => false)
  if decide (ix < (s.kernOf s.core.id.lh).itins.length) || s.core.ownItins.contains ix || mine then
    alGet ((bufCmds s.core.sbuf).foldl itinApply t) ix
  else none

/-- The scan configuration that governs the core's next scan command: the last SCN.CFG, buffered or applied, with the
member index; and whether a RUN or RED has been issued under it since, R290, R291. -/
def Core.scanView (c : Core) : Option (ScanCfg × Nat) × Bool :=
  (bufCmds c.sbuf).foldl (fun acc cm => match cm with
    | .scnCfg g k => (some (g, k), false)
    | .scnRun _ _ | .scnRed _ => (acc.1, true)
    | _ => acc) (c.scan.cfg.map (fun g => (g, c.scan.k)), c.scan.ran)

/-! ### The commit -/

/-- A command's result register at the commit, unless a later-issued write has landed, R44, R45. -/
def Core.ticketTo (c : Core) (seq : Nat) (d : XReg) (v : Nat) : Core :=
  if d = 0 || decide (c.landX[d] > seq) then c else
  { c.setX d (wd v) with landX := c.landX.set d seq }

/-- A change of the TID table of the core's context, R153. -/
def State.ctxTid (s : State) (ctx : Nat) (cm : Cmd) : State := s.updCtx ctx (fun x => { x with tids := tidApply x.tids cm })
/-- A change of the TID table of the core's launch, R30: the second twin of a mirror launch keeps a table of its own, and the
context's table is written when the twins have been compared (R361, R362). -/
def State.tidEffect (s : State) (cm : Cmd) : State :=
  if s.core.id.twin then s.updLaunch s.core.id.lh (fun l => { l with tidsB := tidApply l.tidsB cm }) else
  let s1 := s.updLaunch s.core.id.lh (fun l => { l with tids := tidApply l.tids cm })
  if (s.recOf s.core.id.lh).mirror then s1 else s1.ctxTid s.core.ctx cm
/-- A change of the itinerary entries of the core's launch, R282. -/
def State.itinEffect (s : State) (cm : Cmd) : State :=
  s.updLaunch s.core.id.lh (fun l =>
    if s.core.id.twin then { l with itinsB := itinApply l.itinsB cm } else { l with itins := itinApply l.itins cm })

/-- A tour that an SHF.READ begins, R252, R283; the twins of a mirror launch share it. -/
def State.newTour (s : State) (ticket : Nat) (xa : Word) (desc : BitVec 256) (ix : Nat) (it : Itin) : State :=
  let id : CoreId := { s.core.id with twin := false }
  let n := it.stops.length
  let keep (c : Core) (t : Nat) : Core :=
    let l := c.tours ++ [(ticket, t)]
    { c with tours := l.drop (l.length - 64) }
  match s.tours.find? (fun t => t.core == id && t.ticket == ticket) with
  | some t => { s with core := keep s.core t.id }
  | none =>
    let t : Tour :=
      { id := s.nextId, core := id, ticket := ticket, ix := ix, tw := xa, desc := desc, itin := it, tile := []
        stops := List.replicate n .pending, arrived := List.replicate n none, forwarded := List.replicate n false
        late := List.replicate n false, glean := List.replicate n 0, slot := none, read := false, gleaning := false
        parking := false, parked := false, parkFault := none, parkPage := 0, gleanAt := none, parkrd := 0, status := 0, ended := false }
    { s with nextId := s.nextId + 1, tours := s.tours ++ [t], core := keep s.core t.id }

/-- A configuration applied, R290: the generation is 0 again. A chain whose configuration this member has used enters its next epoch, so
that no aggregate of an earlier generation 0 is met. -/
def Scan.configure (o : Scan) (g : ScanCfg) (k n : Nat) : Scan :=
  let eps := match o.cfg with
    | some old => if o.used then alSet o.epochs old.group (o.epoch + 1) else o.epochs
    | none => o.epochs
  let gone := match o.cfg with
    | some old => if o.used then o.left else old.group :: o.left
    | none => o.left
  { o with
    cfg := some g, k := k, clen := n, gen := 0, serial := o.serial + 1, aggSent := false, ran := false, used := false
    epochs := eps, epoch := (alGet eps g.group).getD 0, left := gone.eraseDups.filter (· != g.group) }

/-- A scan command as the engine will find it: under the configuration and generation of its commit, R291, R292. -/
def State.queueScan (s : State) (ticket : Nat) (cm : Cmd) : State :=
  let sc := s.core.scan
  match sc.cfg with
  | some g => { s with core := { s.core with scan := { sc with
      queue := sc.queue ++ [ScanCmd.mk ticket s.now cm g sc.k sc.epoch sc.gen sc.serial false] } } }
  | none => s

/-- What a command does at the commit itself (in a mirror launch, what is seen beside the twins waits for their comparison, R362): writes of tables, the scan configuration, graphs, claims, arming, tracing and the
beginning of a tour (R30, R143, R153, R217, R225, R282, R283, R290, R341). -/
def State.commitEffect (s : State) (ticket : Nat) : Cmd → State
  | .tidDef ix d => s.tidEffect (.tidDef ix d)
  | .tidSwap i j => s.tidEffect (.tidSwap i j)
  | .tidInv ix => s.tidEffect (.tidInv ix)
  | .shfItin ix it =>
    let s := s.itinEffect (.shfItin ix it)
    { s with core := { s.core with ownItins := if s.core.ownItins.contains ix then s.core.ownItins else s.core.ownItins ++ [ix] } }
  | .shfHold ix h => s.itinEffect (.shfHold ix h)
  | .shfRead xa d ix it => s.newTour ticket xa d ix it
  | .scnCfg g k =>
    let n := nth ((s.kernOf s.core.id.lh).groups.map List.length) g.group 0
    { s with core := { s.core with scan := s.core.scan.configure g k n } }.queueScan ticket (.scnCfg g k)
  | .scnRun a b => { s with core := { s.core with scan := { s.core.scan with ran := true, used := true } } }.queueScan ticket (.scnRun a b)
  | .scnRed a => { s with core := { s.core with scan := { s.core.scan with ran := true, used := true } } }.queueScan ticket (.scnRed a)
  | .scnApply a b raw => s.queueScan ticket (.scnApply a b raw)
  | .cgraph slot nodes => { s with core := { s.core with graphs := alSet s.core.graphs slot nodes } }
  | .mma _ _ opw dA dB dC =>
    let c := s.core
    let ra := bitsOf opw.toNat 38 36
    let rb := bitsOf opw.toNat 41 39
    let la := tileLines (dRows dC) (dKslice dA) (dFmt dA)
    let lb := tileLines (dCols dC) (dKslice dB) (dFmt dB)
    let c' := c.engRing ra (fun r => { r with claimed := r.claimed + la })
    { s with core := c'.engRing rb (fun r => { r with claimed := r.claimed + lb }) }
  | .boset a expect =>
    let c := s.core
    let armed := match expect with
      | none => c.armed.map (fun o => if o == some a then none else o)
      | some _ =>
        if c.armed.toList.contains (some a) then c.armed else
        match indexOf? (fun o => o == none) c.armed.toList with
        | some i => if h : i < 16 then c.armed.set i (some a) else c.armed
        | none => c.armed
    { s with core := { c with armed := armed } }
  | .trcEmit ev p => if (s.recOf s.core.id.lh).mirror then s else s.trace s.core.id 0 (0x8000 + ev.toNat) p
  | .trcCfg base xb => { s with core := { s.core with traceBase := base, traceXb := xb, traceSeq := 0 } }
  | .copyIn .. | .copyOut .. | .gather .. | .mcast .. | .copyLoc .. | .shfRel .. | .shfReread ..
  | .cagrp .. | .reduce .. | .crun .. | .cabort .. => s

/-- One buffered item committed: it joins the work that drains, with its ticket, R28, R44, R348. -/
def State.commitItem (s : State) (b : Buf) (fl : FlagDst) : State :=
  match b with
  | .slotSel f n => { s with core := { s.core with slotFirst := f, slotCount := n } }
  | .ring n op =>
    let c := { s.core with erings := ringUpd s.core.erings n (fun r => r.apply op) }
    { s with core := match op with | .push k => c.tailed s.now n k | .set .. | .pop _ | .clear => c }
  | .cmd seq d cm =>
    let s := s.commitEffect (match cm.cls with | some p => s.core.issued[clsIx p] + 1 | none => 0) cm
    let c := s.core
    match cm.cls with
    | none => { s with core := { (c.ticketTo seq d 0) with drainq := c.drainq ++ [⟨b, 0, s.now, s.now, s.timeFine, fl⟩] } }
    | some p =>
      let n := c.issued[clsIx p] + 1
      let c' := { c with issued := c.issued.set (clsIx p) n }.ticketTo seq d n
      { s with core := { c' with drainq := c.drainq ++ [⟨b, n, s.now, s.now, s.timeFine, fl⟩] } }
  | .line .. | .msg .. | .log .. | .fence .. | .act .. => { s with core := { s.core with drainq := s.core.drainq ++ [⟨b, 0, s.now, s.now, s.timeFine, fl⟩] } }

/-- Every buffered item committed in program order. -/
def State.commitItems (s : State) : List Buf → List FlagDst → State
  | b :: t, f :: fs => (s.commitItem b f).commitItems t fs
  | _, _ => s

/-- The sleep of a core, and its slaved gang, whose commit faulted, R319. -/
def State.faultSleep (s : State) (f : PageFault) : State :=
  let c := s.core
  let mates := s.gangMates c
  let (s, n) := s.fault c.ctx f.va f.kind.code f.wr f.path true ⟨c.id, none⟩ 0
  s.mapCores (fun d => d.id == c.id || mates.contains d.id)
    (fun d => { d.discard with pc := d.regpc, run := .onFault n, forwards := [] })

/-- The commit of the open region of the core that issues, R206, R348; `rel` marks SHF.REL, the one commit point that a
tour-anchored region may end with (R284). A push in flight holds it (log entry 21). -/
def State.commit (s : State) (rel : Bool) : Res State := do
  let c := s.core
  need (rel || !c.anchored) .access 0xC6
  needIdle (!c.flights.any c.isPush)
  needIdle c.fits
  match s.firstPages c c.sbuf with
  | (s', .error f) => .error (.goto (s'.faultSleep f))
  | (s', .ok fl) =>
    let items := c.sbuf
    let s1 := { s' with core := { s'.core with sbuf := [] } }
    .ok (s1.commitItems items fl)

/-- A commit point that ends the region and opens the next one at an address (R350). -/
def State.commitAt (s : State) (pc : Word) : Res State := do
  let s' ← s.commit false
  .ok { s' with core := s'.core.openRegion pc }

end Sys2Proof.Machine
end

