-- ==== Sys2Proof/Machine/Operands.lean ====
section
/-! DEFINITION. The operand forms: integer sources with their last-use kills (spec/02_encoding.md R42, R43), lane sources
with stream pops, destination reads and masks (spec/05_isa_integer_lane.md R101, R102, R129), and the immediates of R38. -/

namespace Sys2Proof.Machine

/-! ### Integer forms -/

/-- The size of a 32-bit instruction. -/
def wordSize : Nat := 4
/-- The size of a compact instruction. -/
def halfSize : Nat := 2

/-- A result of two sources: both read, both killed by their marks, then the write, R43, R45, R103. -/
def Core.opAB (c : Core) (now lat : Nat) (r : R3) (f : Word → Word → Word) : Res Core := do
  let x ← c.readX r.a
  let y ← c.readX r.b
  .ok ((((c.killX r.a r.la).killX r.b r.lb).writeX now lat r.d (f x y)).advance now wordSize)

/-- A result of one source. -/
def Core.opA (c : Core) (now lat : Nat) (r : R2) (f : Word → Word) : Res Core := do
  let x ← c.readX r.a
  .ok (((c.killX r.a r.la).writeX now lat r.d (f x)).advance now wordSize)

/-- A result of no source. -/
def Core.opD (c : Core) (now lat size : Nat) (d : XReg) (v : Word) : Res Core :=
  .ok ((c.writeX now lat d v).advance now size)

/-- The sources a and b: the values, and the core with its kills made. That a is read first, so that of two dead sources DEADREAD names a,
is the model's choice (log entry 103), in every form of two sources. -/
def Core.srcAB (c : Core) (a b : XReg) (la lb : Bool) : Res (Core × Word × Word) := do
  let x ← c.readX a
  let y ← c.readX b
  .ok ((c.killX a la).killX b lb, x, y)

/-- The source a. -/
def Core.srcA (c : Core) (a : XReg) (la : Bool) : Res (Core × Word) := do
  let x ← c.readX a
  .ok (c.killX a la, x)

/-- The I-format immediate by default, R38. -/
def immI (r : IOp) : Word := sx r.imm
/-- An I-format instruction as one of one source. -/
def iSrc (r : IOp) : R2 := ⟨r.d, r.a, r.la⟩
/-- A shift as an instruction of one source. -/
def shSrc (r : ShOp) : R2 := ⟨r.d, r.a, r.la⟩
/-- A 32-bit shift as an instruction of one source. -/
def shwSrc (r : ShwOp) : R2 := ⟨r.d, r.a, r.la⟩
/-- The value of U format, R38. -/
def immU (imm : BitVec 20) : Word := sx (imm ++ (0 : BitVec 12))
/-- The J offset in bytes, R38. -/
def offJ (imm : BitVec 20) : Word := sx imm <<< 1
/-- The B offset in bytes, R38. -/
def offB (off : BitVec 10) : Word := sx off <<< 1
/-- The compact branch offset in bytes, R41. -/
def offC (imm : BitVec 6) : Word := sx imm <<< 1

/-! ### Lane forms -/

/-- Element j of a lane value at width w, R101. -/
def elemAt (w : Nat) (v : Lane) (j : Nat) : Nat := (v >>> (w * j)).toNat % 2 ^ w
/-- The number that packs a list of elements of width w, the first lowest. -/
def packNat (w : Nat) : List Nat → Nat
  | [] => 0
  | x :: t => x % 2 ^ w + 2 ^ w * packNat w t
/-- LIVEV: a bound stream register is live, R43. -/
def Core.livevWord (c : Core) : Word :=
  wd (packNat 1 ((List.range 16).map (fun i => nbit (c.arch.livev.getLsbD i || (decide (i < 4) && (c.stream i).bound)))))

/-- The lane value of a list of elements of width w. -/
def packLane (w : Nat) (l : List Nat) : Lane := BitVec.ofNat 512 (packNat w l)
/-- The number of elements of width w. -/
def elems (w : Nat) : Nat := 512 / w
/-- The element width of es in LALU, R49. -/
def esWidth (es : Fin 4) : Nat := 8 * 2 ^ es.val
/-- The format of es in LFP and LCVT, R49. -/
def esFmt (es : Fin 4) : FloatFmt :=
  match es with
  | 0 => fmtBf16
  | 1 => fmtFp16
  | 2 => fmtFp32
  | 3 => fmtFp64

/-- Whether element j takes part under a mask, R102. -/
def Core.active (c : Core) (km : KReg) (j : Nat) : Bool := km == 0 || (c.kval km).getLsbD j
/-- The bytes of the active elements of width w. -/
def Core.activeBytes (c : Core) (km : KReg) (w : Nat) : BitVec 64 :=
  if km = 0 then BitVec.allOnes 64 else
  BitVec.ofNat 64 (packNat 1 ((List.range 64).map (fun i => nbit (c.active km (i / (w / 8))))))

/-- The lane registers of a list read in order, each once: a bound read stream named twice pops once, R129. That the order of the fields
decides which of two traps is taken is the model's choice (log entry 103). -/
def Core.readList (c : Core) (now : Nat) : List VReg → List (VReg × Lane) → Res (Core × List (VReg × Lane))
  | [], acc => .ok (c, acc)
  | r :: t, acc =>
    if acc.any (fun p => p.1 == r) then c.readList now t acc else
    match c.readV now r with
    | .error e => .error e
    | .ok (c', v) => c'.readList now t (acc ++ [(r, v)])
/-- The value read for a register. -/
def valueOf (l : List (VReg × Lane)) (r : VReg) : Lane :=
  match l with
  | [] => 0
  | (s, v) :: t => if s = r then v else valueOf t r

/-- A write to a bound read stream traps, R130. -/
def Core.checkDst (c : Core) (r : VReg) : Res Unit :=
  need (!c.bound r || (c.stream r.val).write) .access (wd (16 * r.val + 9))

/-- The kills of a list of sources. -/
def Core.killList (c : Core) : List (VReg × Bool) → Core
  | [] => c
  | (r, l) :: t => (c.killV r l).killList t

/-- What a lane instruction does with its destination: keeps the inactive elements (R102), writes it whole, or reads it as
a source and keeps the inactive elements (R101). -/
inductive DstMode where
  | keep | whole | read | readWhole
  deriving DecidableEq, Repr

/-- A lane instruction: its sources, its destination, whether it reads that, the bytes it writes, and the value and flags
formed from what is read. Reads and kills come at issue; the write lands `lat` cycles later with its flags (R96, R129). The traps of the
reads come before that of the destination (log entry 103). -/
def Core.laneWith (c : Core) (now lat size : Nat) (srcs : List (VReg × Bool)) (vd : VReg) (readD : Bool) (bytes : BitVec 64)
    (f : (VReg → Lane) → Lane × Flags) : Res Core := do
  let (c', vals) ← c.readList now (srcs.map (·.1) ++ if readD then [vd] else []) []
  c.checkDst vd
  let r := f (valueOf vals)
  let out := if c.bound vd then r.1 else laneMerge (valueOf vals vd) r.1 bytes
  .ok (((c'.killList srcs).write now lat (.v vd out bytes) r.2).advance now size)

/-- A lane instruction under a mask, with the element width and what it does with its destination, R101, R102. One that writes its whole
destination whatever the mask stores all 64 bytes to a bound write stream (the model's reading, log entry 104). -/
def Core.laneOp (c : Core) (now lat size : Nat) (srcs : List (VReg × Bool)) (vd : VReg) (km : KReg) (w : Nat) (m : DstMode)
    (f : (VReg → Lane) → Lane × Flags) : Res Core :=
  match m with
  | .keep => c.laneWith now lat size srcs vd (km != 0 && !c.bound vd) (c.activeBytes km w) f
  | .whole => c.laneWith now lat size srcs vd false (BitVec.allOnes 64) f
  | .read => c.laneWith now lat size srcs vd true (c.activeBytes km w) f
  | .readWhole => c.laneWith now lat size srcs vd true (BitVec.allOnes 64) f

/-- The elements of a result, 0 where inactive, and the flags of the active ones. -/
def Core.perElem (c : Core) (km : KReg) (w n : Nat) (f : Nat → Nat × Flags) : Lane × Flags :=
  let rs := (List.range n).map (fun j => if c.active km j then f j else (0, 0))
  (packLane w (rs.map (·.1)), fAll (rs.map (·.2)))

/-- An element-wise instruction of two sources. -/
def Core.laneAB (c : Core) (now lat : Nat) (r : L3) (w : Nat) (f : Nat → Nat → Nat × Flags) : Res Core :=
  c.laneOp now lat wordSize [(r.va, r.la), (r.vb, r.lb)] r.vd r.km w .keep
    (fun v => c.perElem r.km w (elems w) (fun j => f (elemAt w (v r.va) j) (elemAt w (v r.vb) j)))
/-- An element-wise instruction of one source. -/
def Core.laneA (c : Core) (now lat size : Nat) (r : L2) (w : Nat) (f : Nat → Nat × Flags) : Res Core :=
  c.laneOp now lat size [(r.va, r.la)] r.vd r.km w .keep
    (fun v => c.perElem r.km w (elems w) (fun j => f (elemAt w (v r.va) j)))
/-- A compare: bit j of the mask is the condition where active, else 0, R110, R114. -/
def Core.laneCmp (c : Core) (now lat : Nat) (r : LCmp) (w : Nat) (f : Nat → Nat → Bool × Flags) : Res Core := do
  let (c', vals) ← c.readList now [r.va, r.vb] []
  let rs := (List.range (elems w)).map (fun j => if c.active r.km j then
    f (elemAt w (valueOf vals r.va) j) (elemAt w (valueOf vals r.vb) j) else (false, 0))
  .ok (((c'.killList [(r.va, r.la), (r.vb, r.lb)]).writeK now lat r.kd (wd (packNat 1 (rs.map (fun p => nbit p.1))))
    (fAll (rs.map (·.2)))).advance now wordSize)
/-- A CL form of two addresses: vd and vs are the sources, R40. -/
def Core.laneCl (c : Core) (now lat : Nat) (r : ClOp) (w : Nat) (f : Nat → Nat → Nat × Flags) : Res Core :=
  c.laneOp now lat halfSize [(r.vd, false), (r.vs, r.ls)] r.vd 0 w .keep
    (fun v => c.perElem 0 w (elems w) (fun j => f (elemAt w (v r.vd) j) (elemAt w (v r.vs) j)))
/-- The width of sz, R40. -/
def szWidth (sz : Bool) : Nat := if sz then 16 else 32
/-- The format of sz. -/
def szFmt (sz : Bool) : FloatFmt := if sz then fmtFp16 else fmtFp32

/-- An element without flags. -/
def noFlags (n : Nat) : Nat × Flags := (n, 0)

end Sys2Proof.Machine
end

