-- ==== Sys2Proof/Machine/Waits.lean ====
section
/-! DEFINITION. The waits: the event unit's lines, the group barriers, stop records, and when a sleeping core wakes and with
what result (spec/12_isa_flow_sync.md R266 to R275, R284, R292; spec/08_isa_memory_engines.md R202 to R205). -/

namespace Sys2Proof.Machine

/-! ### The event unit (R269 to R273) and the group barriers (R275) -/

/-- A set of lines at reset, R269, R273. -/
def EvSet.zero (cluster ctx : Nat) : EvSet :=
  ⟨cluster, ctx, Vector.replicate 16 ⟨0, [], false, 0, 0⟩, Vector.replicate 16 ⟨none, []⟩, Vector.replicate 32 0⟩
/-- The set of a context in a cluster. -/
def State.evset (s : State) (cluster ctx : Nat) : EvSet :=
  (s.evsets.find? (fun e => e.cluster == cluster && e.ctx == ctx)).getD (EvSet.zero cluster ctx)
/-- A change of that set. -/
def State.updEv (s : State) (cluster ctx : Nat) (f : EvSet → EvSet) : State :=
  { s with evsets := s.evsets.filter (fun e => !(e.cluster == cluster && e.ctx == ctx)) ++ [f (s.evset cluster ctx)] }
/-- The other twin of a core of a mirror launch. -/
def State.other (s : State) (c : Core) : Option Core := s.core? { c.id with twin := !c.id.twin }
/-- The cluster whose event unit a core uses: its own; the second twin of a mirror launch uses the first one's (log entry 41). -/
def State.evCluster (s : State) (c : Core) : Nat :=
  if c.id.twin then ((s.other c).map Core.cluster).getD c.cluster else c.cluster
/-- A core's name in a set's lines. -/
def Core.key (c : Core) : Nat × Nat := (c.id.lh, c.id.lc)
/-- A barrier line of a set. -/
def EvSet.bar (e : EvSet) (i : Nat) : BarLine := nth e.bars.toList i ⟨0, [], false, 0, 0⟩
/-- A mutex line of a set. -/
def EvSet.mutex (e : EvSet) (i : Nat) : MutexLine := nth e.mutexes.toList i ⟨none, []⟩
/-- A set with a barrier line changed. -/
def EvSet.setBar (e : EvSet) (i : Nat) (b : BarLine) : EvSet := if h : i < 16 then { e with bars := e.bars.set i b } else e
/-- A set with a mutex line changed. -/
def EvSet.setMutex (e : EvSet) (i : Nat) (m : MutexLine) : EvSet :=
  if h : i < 16 then { e with mutexes := e.mutexes.set i m } else e
/-- A set with an event line changed. -/
def EvSet.setEvent (e : EvSet) (i n : Nat) : EvSet := if h : i < 32 then { e with events := e.events.set i n } else e
/-- The count of an event line changed by a core of a launch; what an Umbra launch changes in an epoch is kept, R355. -/
def State.setCount (s : State) (lh cluster ctx i : Nat) (f : Nat → Nat) : State :=
  let old := nth (s.evset cluster ctx).events.toList i 0
  let t := s.updEv cluster ctx (fun e => e.setEvent i (f old))
  if !s.umbra lh then t else
  t.updLaunch lh (fun l =>
    let mine (d : EvChange) : Bool := d.cluster == cluster && d.line == i
    let was : Int := ((l.evs.find? mine).map (fun d => d.by_)).getD 0
    { l with evs := l.evs.filter (fun d => !mine d) ++ [⟨cluster, i, was + Int.ofNat (f old) - Int.ofNat old⟩] })
/-- An event raised by a core of a launch: the count saturates, R272. -/
def State.raiseEvent (s : State) (lh cluster ctx i : Nat) : State := s.setCount lh cluster ctx i (fun n => Nat.min 0xFFFF (n + 1))
/-- The changes of event counts of an Umbra launch in its epoch undone, R355, R360. -/
def State.undoEvents (s : State) (l : Launch) : State :=
  (l.evs.foldl (fun s d => s.updEv d.cluster l.ctx (fun e =>
    e.setEvent d.line (Nat.min 0xFFFF (((Int.ofNat (nth e.events.toList d.line 0)) - d.by_).toNat)))) s).updLaunch l.h (fun l => { l with evs := [] })
/-- A mutex given to the next requester, R271. -/
def MutexLine.grant (m : MutexLine) : MutexLine :=
  match m.queue with
  | [] => ⟨none, []⟩
  | k :: t => ⟨some k, t⟩
/-- The control word of a barrier line, R273. -/
def BarLine.word (b : BarLine) : Nat :=
  b.gen.toNat * 2 ^ 48 + b.arrived.length % 2 ^ 8 * 2 ^ 32 + nbit b.gbind * 2 ^ 24 + b.group.toNat * 2 ^ 16 + b.count

/-- The members of a group of a launch, in order, R23. -/
def State.groupOf (s : State) (lh g : Nat) : List Nat := nth (s.kernOf lh).groups g []
/-- A group's barrier. -/
def State.gbar (s : State) (lh g : Nat) : GBar :=
  (((s.launch? lh).map (·.gbars)).getD []).find? (fun b => b.group == g) |>.getD ⟨g, 0, [], 0, none, [], []⟩
/-- A change of a group's barrier. -/
def State.updGbar (s : State) (lh g : Nat) (f : GBar → GBar) : State :=
  let b := f (s.gbar lh g)
  s.updLaunch lh (fun l => { l with gbars := l.gbars.filter (fun x => x.group != g) ++ [b] })

/-- Whether a logical core of a launch is vacated, its save complete, R246, R256. -/
def State.away (s : State) (lh lc : Nat) : Bool :=
  match s.core? ⟨lh, lc, false⟩ with
  | some c => c.run == .vacated
  | none => false

/-- A barrier line as a core sees it in its control word: the generation and the arrivals of a line that is bound to a group are those of
the group's barrier, R256, R270, R273. -/
def State.barView (s : State) (c : Core) (i : Nat) : BarLine :=
  let b := (s.evset (s.evCluster c) c.ctx).bar i
  if !b.gbind then b else
  let g := s.gbar c.id.lh b.group.toNat
  let here := (s.groupOf c.id.lh b.group.toNat).filter (fun m => g.arrived.contains m || s.away c.id.lh m)
  { b with gen := BitVec.ofNat 16 g.gen, arrived := here.map (fun m => (c.id.lh, m)) }

/-- The firing of a group's barrier begun, once every member has arrived or is vacated, and at least one has arrived
itself (log entry 28): it fires T_gbar after the last arrival, R256, R275. -/
def State.gbarCheck (s : State) (lh g last : Nat) : State :=
  let b := s.gbar lh g
  let mem := s.groupOf lh g
  if b.firing.isSome || b.arrived.isEmpty || !mem.all (fun m => b.arrived.contains m || s.away lh m) then s else
  let here := mem.filter (fun m => (s.core? ⟨lh, m, false⟩).isSome)
  let far := s.farOf (s.posOf lh last) (here.map (s.posOf lh))
  let at_ := s.now + 28 + 2 * far.1 + 24 * far.2
  let a := s.posOf lh last
  (s.updGbar lh g (fun b => { b with firing := some at_, lastAt := s.now })).schedLegs at_ true (.groupBarrierFire lh g)
    (legsOf (dieOf a.1 a.2) (s.route lh a (s.farPos a (here.map (s.posOf lh)))) at_)

/-- An arrival at a group's barrier, once per member and generation, R275; that of a member which has passed this generation already is
for the next. -/
def State.arrive (s : State) (lh g lc : Nat) : State :=
  let b := s.gbar lh g
  if b.early.contains lc then
    (if b.next.contains lc then s else s.updGbar lh g (fun b => { b with next := b.next ++ [lc] }))
  else if b.arrived.contains lc || b.firing.isSome then s else
  (s.updGbar lh g (fun b => { b with arrived := b.arrived ++ [lc] })).gbarCheck lh g lc

/-- Whether a generation of a group has fired, by the distance of R275. -/
def State.gbarFired (s : State) (lh g n : Nat) : Bool :=
  let k := ((s.gbar lh g).gen + 2 ^ 16 - n) % 2 ^ 16
  decide (0 < k) && decide (k < 2 ^ 15)
/-- The generation of a group that a core's next barrier is for: the first for which a vacate has arrived, the one it waits for, else the
current one, or the next when it has passed that. -/
def State.ownGen (s : State) (c : Core) (g : Nat) : Nat :=
  match c.credits.find? (fun e => e.1 == g), c.arrivedAt.find? (fun e => e.1 == g) with
  | some e, _ => e.2
  | none, some e => e.2
  | none, none => ((s.gbar c.id.lh g).gen + nbit ((s.gbar c.id.lh g).early.contains c.id.lc)) % 2 ^ 16
/-- The generations of a group from one on to the current one, for which a vacated member counts as arrived, R256. -/
def State.gensFrom (s : State) (lh g n : Nat) : List (Nat × Nat) :=
  (List.range (((s.gbar lh g).gen + 1 + 2 ^ 16 - n) % 2 ^ 16 % 2 ^ 15)).map (fun i => (g, (n + i) % 2 ^ 16))
/-- A member whose barrier of a generation returns, as a vacate has arrived for it, R256: it has passed that generation. -/
def State.spend (s : State) (id : CoreId) (g n : Nat) : State :=
  match s.core? id with
  | none => s
  | some c =>
    if !c.credits.contains (g, n) then s else
    let s := s.updCore id (fun c => { c with credits := c.credits.erase (g, n) })
    if (s.gbar id.lh g).gen != n || (s.gbar id.lh g).early.contains id.lc then s else
    s.updGbar id.lh g (fun b => { b with early := b.early ++ [id.lc] })

/-! ### Releases: what a core has sent (R161, R168 to R173) -/

/-- Whether a scope of a core covers another core of its launch, R165. -/
def State.covers (s : State) (sc : Scope) (c d : Core) : Bool :=
  match sc with
  | .core => c.id == d.id
  | .gang => c.id.lc / Nat.max 1 (s.recOf c.id.lh).gang == d.id.lc / Nat.max 1 (s.recOf c.id.lh).gang
  | .cluster => c.cluster == d.cluster
  | .group => (s.kernOf c.id.lh).groups.any (fun g => g.contains c.id.lc && g.contains d.id.lc)
  | .die => c.die == d.die
  | .device | .package | .peer | .domain | .host | .io | .system => true
/-- Whether a core has observed an access of its launch that is on its way: it has issued it, or its acquires have shown it, R170. -/
def Core.observes (c : Core) (lh src id : Nat) : Bool := (lh == c.id.lh && src == c.id.lc) || c.seen.contains id
/-- Whether a logical core is one that a scope of a core covers; one that is bound and not dispatched yet counts as covered. -/
def State.reaches (s : State) (sc : Scope) (c : Core) (id : CoreId) : Bool :=
  match s.core? id with
  | some d => s.covers sc c d
  | none => s.bindingCore id
/-- Whether a packet that a core has observed is on its way to a core that a scope covers. -/
def State.underWay (s : State) (c : Core) (sc : Scope) (p : Packet) : Bool :=
  c.observes p.lh p.src p.id && s.reaches sc c ⟨p.lh, p.dst, false⟩
/-- Whether a timed line that a core has observed is on its way to a core that a scope covers. -/
def State.lineUnderWay (s : State) (c : Core) (sc : Scope) (t : TLine) : Bool :=
  c.observes t.core.lh t.src t.id && s.reaches sc c t.core
/-- Whether every message and log entry that a core has observed has been performed within a scope. -/
def State.msgsDone (s : State) (c : Core) (sc : Scope) : Bool :=
  !s.packets.any (s.underWay c sc) && !c.mirror.any (fun m => match m.item.item with | .msg .. | .log .. => true | _ => false)
/-- Whether every timed line that a core has observed has landed within a scope. -/
def State.timedDone (s : State) (c : Core) (sc : Scope) : Bool := !s.tlines.any (s.lineUnderWay c sc)
/-- Whether every access of its CORE path that a core has observed and sent is performed within a scope. -/
def State.sent (s : State) (c : Core) (sc : Scope) : Bool := s.msgsDone c sc && s.timedDone c sc
/-- Whether committed work still holds a store, a message, a log append or a fence. -/
def Core.sending (c : Core) : Bool :=
  c.committed.any (fun d => match d.item with | .line .. | .msg .. | .log .. | .fence .. => true | _ => false)
/-- Whether a release at a scope may be performed now, R172: every access that the core has observed is performed within it. -/
def State.released (s : State) (c : Core) (sc : Scope) : Bool := !c.sending && s.sent c sc
/-- Whether a packet or timed line is still on its way. -/
def State.flying (s : State) (id : Nat) : Bool := s.packets.any (fun p => p.id == id) || s.tlines.any (fun t => t.id == id)
/-- The packets and timed lines on their way that a core has observed. -/
def State.observed (s : State) (c : Core) : List Nat :=
  ((s.packets.filter (fun p => c.observes p.lh p.src p.id)).map (·.id)) ++
  ((s.tlines.filter (fun t => c.observes t.core.lh t.src t.id)).map (·.id))
/-- What the releases at a point have ordered and is still on its way. -/
def State.carriedAt (s : State) (at_ : SyncAt) : List Nat :=
  (((s.carried.find? (fun e => e.1 == at_)).map (·.2)).getD []).filter s.flying
/-- A release at a point: it orders what the core has observed, R172. -/
def State.carry (s : State) (at_ : SyncAt) (c : Core) : State :=
  let l := (s.carriedAt at_ ++ s.observed c).eraseDups
  { s with carried := s.carried.filter (fun e => e.1 != at_) ++ (if l.isEmpty then [] else [(at_, l)]) }
/-- An acquire at a point: the core has observed what the releases there have ordered, R170, R173. -/
def State.acquire (s : State) (at_ : SyncAt) (id : CoreId) : State :=
  let l := s.carriedAt at_
  if l.isEmpty then s else s.updCore id (fun c => { c with seen := (c.seen.filter s.flying ++ l).eraseDups })
/-- The line of the event unit that a core uses, at an offset. -/
def State.lineAt (s : State) (c : Core) (off : Nat) : SyncAt := .line (s.evCluster c) c.ctx off
/-- Whether an act of the core waits to be performed. -/
def Core.acting (c : Core) : Bool :=
  c.committed.any (fun d => match d.item with | .act .. => true | _ => false)
/-- The act of a commit point: performed at its issue, or put behind the committed work of a mirror launch for comparison,
R362. -/
def State.act (s : State) (a : Act) (f : State → State) : State :=
  if (s.recOf s.core.id.lh).mirror then
    { s with core := { s.core with drainq := s.core.drainq ++ [Drain.mk (.act a) 0 s.now s.now s.timeFine .none] } }
  else f s
/-- Whether what a fence waits for has been performed at its scope, R168, R169. -/
def State.fenceDone (s : State) (c : Core) (f : Fence) : Bool :=
  (!f.msgs || s.msgsDone c f.sc) && (!f.timed || s.timedDone c f.sc)
/-- Whether a fence at the head of the committed work lets what follows it drain; in a mirror launch one that loads wait for stays until
it is done. -/
def State.fencePasses (s : State) (c : Core) (f : Fence) : Bool :=
  s.fenceDone c f || (!f.drains && c.mirror.isEmpty)
/-- The work to drain behind the fences at its head that let it pass, R161, R168. -/
def State.dropFences (s : State) (c : Core) : List Drain :=
  c.drainq.dropWhile (fun d => match d.item with | .fence f => s.fencePasses c f | _ => false)
/-- The packets and timed lines that loads wait for behind the fences that have been passed, R168. -/
def State.loadsAfter (s : State) (c : Core) : List Nat :=
  (c.drainq.takeWhile (fun d => match d.item with | .fence f => s.fencePasses c f | _ => false)).flatMap (fun d => match d.item with
    | .fence f => if !f.loads then [] else
        (if f.msgs then (s.packets.filter (s.underWay c f.sc)).map (·.id) else []) ++
        (if f.timed then (s.tlines.filter (s.lineUnderWay c f.sc)).map (·.id) else [])
    | _ => [])

/-! ### Results -/

/-- A loaded value in its register: the low bytes of a number, sign- or zero-extended, R187. -/
def LoadFmt.value (f : LoadFmt) (n : Nat) : Word :=
  let m := n % 2 ^ (8 * f.size)
  if f.signed && decide (2 ^ (8 * f.size - 1) ≤ m) then wd m - wd (2 ^ (8 * f.size)) else wd m

/-- A wait that returns: its result visible to the next instruction, which issues in the next cycle, R44. -/
def Core.wakeN (c : Core) (now len : Nat) (d : XReg) (v : Word) : Core :=
  ({ c with run := .ready }.setX d v).advance now len
/-- A 32-bit wait that returns. -/
def Core.wake (c : Core) (now : Nat) (d : XReg) (v : Word) : Core := c.wakeN now wordSize d v

/-- The stop word of SHF.TAKE, R284. -/
def StopRec.word (r : StopRec) (outcome : Nat) : Nat :=
  outcome * 2 ^ 56 + r.stop * 2 ^ 52 + r.lines * 2 ^ 36 + (if outcome = 3 then 0 else r.addr)

/-- The oldest stop record of a ring that has not been taken, R284. -/
def Core.untaken (c : Core) (ring : Nat) : Option StopRec :=
  c.stops.find? (fun r => r.ring == ring && (match r.st with | .pending | .ready _ => true | _ => false))
/-- A change of the stop record of a tour's stop. -/
def Core.updStop (c : Core) (tour stop : Nat) (f : StopRec → StopRec) : Core :=
  { c with stops := c.stops.map (fun r => if r.tour == tour && r.stop == stop then f r else r) }

/-- The slots of an armed block that fire, R203. -/
def Core.firing (c : Core) (slots : List (Nat × Nat × Word)) : Option Nat :=
  (slots.find? (fun x => wd (c.numAt x.2.1 8) != x.2.2)).map (·.1)

/-- The failure that a WAITSEQ reaches, R208. -/
def Core.failure (c : Core) (p : EngClass) (target : Nat) : Option (EngClass × Nat × Nat) :=
  c.failed.find? (fun f => f.1 == p && decide (f.2.1 ≤ target))

/-- Whether a BOSET of an address is committed and has not been performed. -/
def Core.bosetDraining (c : Core) (a : Nat) : Bool :=
  c.committed.any (fun d => match d.item with | .cmd _ _ (.boset b _) => b == a | _ => false)

/-- The carry that a core has received for its current generation, R255. -/
def Scan.carry? (sc : Scan) : Option Carry := sc.carries.find? (fun x => x.serial == sc.serial)
/-- Where a member stands in a chain, whether it is configured for it now or not: its epoch and its generation. -/
def Scan.place (sc : Scan) (group : Nat) : Nat × Nat :=
  match sc.cfg with
  | some g => if g.group = group then (sc.epoch, sc.gen) else ((alGet sc.epochs group).getD 0, 0)
  | none => (0, 0)
/-- The cycle in which a member received its carry for an epoch and generation of a chain: its current one, or the one it has closed last.
A member that has not received it yet, or has not reached that generation, has none. -/
def Scan.carryAt (sc : Scan) (group : Nat) (at_ : Nat × Nat) : Option Nat :=
  let p := sc.place group
  if p = at_ then (if sc.cfg.any (fun g => g.group == group) then sc.carry?.map (·.at_) else none)
  else if p.1 > at_.1 || (p.1 == at_.1 && decide ((p.2 + 2 ^ 16 - at_.2) % 2 ^ 16 < 2 ^ 15)) then some sc.prevAt
  else none
/-- Whether every member of a chain has received its carry for the core's generation, and the word of it is back, R292, R294; a member
that has halted has. -/
def State.chainDone (s : State) (c : Core) (g : ScanCfg) : Bool :=
  let mem := s.groupOf c.id.lh g.group
  let back := 6 + 2 * pathHops (s.posOf c.id.lh (nth mem (mem.length - 1) 0)) c.pos
  mem.all (fun m => match s.core? ⟨c.id.lh, m, c.id.twin⟩ with
    | none => ((s.launch? c.id.lh).map (fun l => l.halted.contains m)).getD false
    | some d => match d.scan.carryAt g.group (c.scan.epoch, c.scan.gen) with
      | some n => decide (n + back ≤ s.now)
      | none => d.run == .halted)

/-- The gang size of a core's launch. -/
def State.gangOf (s : State) (c : Core) : Nat := Nat.max 1 (s.recOf c.id.lh).gang
/-- Whether a core is a follower of a slaved gang, R21. -/
def State.follower (s : State) (c : Core) : Bool := c.slaved && c.id.lc % s.gangOf c != 0
/-- Whether every member of the core's gang sleeps in FOLLOW, R276. -/
def State.allFollow (s : State) (c : Core) : Bool :=
  let g := (s.recOf c.id.lh).gang
  ((List.range g).map (fun m => c.id.lc / g * g + m)).all (fun m => match s.core? ⟨c.id.lh, m, c.id.twin⟩ with
    | some d => d.run == .waiting .follow
    | none => false)

/-- The return of REALIGN with its tick: the exchange window opens with the entries selected now, and the next instruction issues in
this cycle, R268, R278. -/
def Core.realign (c : Core) (now : Nat) (d : XReg) (n : Word) : Core :=
  { c.wake now d n with nextIssue := now, window := some now, winFirst := c.slotFirst, winCount := c.slotCount }
/-- Whether what a core waits for has come; the waits that an event ends (a SNAP's firing, acknowledgements) never end here, and a tick
is what TICK has kept for a member of a slaved gang. -/
def State.due (s : State) (c : Core) : Wait → Bool
  | .seq p target => decide (c.eseq[clsIx p] ≥ target)
  | .arm _ slots t => (c.firing slots).isSome || (t != 0 && decide (s.timeNs ≥ t.toNat)) || (t == 0 && slots.isEmpty)
  | .bobj _ a => !c.bosetDraining a && (decide (c.mem.num (a + 4) 4 ≥ c.mem.num a 4) || c.mem.num (a + 10) 1 % 2 == 1)
  | .sleepu t => decide (s.timeNs ≥ t.toNat)
  | .realign _ t => t.isSome
  | .barLine i g _ _ => ((s.evset (s.evCluster c) c.ctx).bar i).gen.toNat != g
  | .mutexLine i _ _ => ((s.evset (s.evCluster c) c.ctx).mutex i).holder == some c.key
  | .eventLine i _ _ => decide (nth (s.evset (s.evCluster c) c.ctx).events.toList i 0 > 0) && (match s.other c with
    | some o => (match o.run with | .waiting (.eventLine j _ _) => j == i | _ => false)
    | none => true)
  | .barGroup g n _ _ | .gbar g n _ => s.gbarFired c.id.lh g n || c.credits.contains (g, n)
  | .gwaitb g target _ => decide (((s.gbar c.id.lh g).gen + 2 ^ 16 - target.toNat) % 2 ^ 16 < 2 ^ 15)
  | .snap _ => false
  | .take ring _ => match c.untaken ring with | some r => (match r.st with | .ready _ => true | _ => false) | none => false
  | .close _ => match c.scan.cfg with | some g => c.scan.aggSent && s.chainDone c g | none => false
  | .follow => s.allFollow c
  | .drain => c.drainq.isEmpty
  | .ack => false

/-- The return of a wait whose condition holds, for the core that issues. -/
def State.finish (s : State) (w : Wait) : Res State :=
  let c := s.core
  let put (c : Core) : Res State := .ok { s with core := c }
  match w with
  | .seq p target =>
    match c.failure p target with
    | some f => trapR .engine (wd (f.2.1 % 2 ^ 56 + f.2.2 * 2 ^ 56))
    | none => put (c.wake s.now 0 0)
  | .arm d slots _ => put (c.wake s.now d (match c.firing slots with | some i => wd i | none => 4))
  | .bobj d a =>
    let v := wd (c.mem.num (a + 10) 2 * 2 ^ 16 + c.mem.num (a + 8) 2)
    put ({ c with armed := c.armed.map (fun o => if o == some a then none else o) }.wake s.now d v)
  | .sleepu _ | .snap _ => put (c.wake s.now 0 0)
  | .realign d t => put (c.realign s.now d (t.getD 0))
  | .ack => put { c with run := .ready, nextIssue := s.now + 1 }
  | .drain => put { c with run := .ready, nextIssue := s.now + 1, drainHold := false }
  | .barLine i n d f =>
    .ok (({ s with core := c.wakeN s.now f.len d (f.value ((n + 1) % 2 ^ 16)) }).acquire (s.lineAt c (16 * i)) c.id)
  | .mutexLine i d f => .ok (({ s with core := c.wakeN s.now f.len d 0 }).acquire (s.lineAt c (0x100 + 16 * i)) c.id)
  | .eventLine i d f =>
    let n := nth (s.evset (s.evCluster c) c.ctx).events.toList i 0 - 1
    let s' := { s with core := c.wakeN s.now f.len d (f.value n) }.setCount c.id.lh (s.evCluster c) c.ctx i (· - 1)
    .ok ((s'.updCore { c.id with twin := !c.id.twin } (fun o => match o.run with
      | .waiting (.eventLine _ d f) => o.wakeN s.now f.len d (f.value n)
      | _ => o)).acquire (s.lineAt c (0x200 + 16 * i)) c.id)
  | .barGroup g n d f =>
    let s := s.spend c.id g n
    .ok ({ s with core := { s.core with arrivedAt := c.arrivedAt.erase (g, n) }.wakeN s.now f.len d (f.value ((n + 1) % 2 ^ 16)) }.acquire
      (.group c.id.lh g) c.id)
  | .gbar g n d =>
    let s := s.spend c.id g n
    .ok ({ s with core := { s.core with arrivedAt := c.arrivedAt.erase (g, n) }.wake s.now d (wd ((n + 1) % 2 ^ 16)) }.acquire
      (.group c.id.lh g) c.id)
  | .gwaitb g _ d => .ok (({ s with core := c.wake s.now d (wd (s.gbar c.id.lh g).gen) }).acquire (.group c.id.lh g) c.id)
  | .take ring d =>
    match c.untaken ring with
    | none => put c
    | some r =>
      let o := match r.st with | .ready o => o | _ => 0
      let c' := c.updStop r.tour r.stop (fun x => { x with st := .taken o })
      put ({ c' with anchor := some (r.tour, r.stop), anchored := o != 3 }.wake s.now d (wd (r.word o)))
  | .close d =>
    let g := c.scan.gen
    let got := (c.scan.carry?.map (fun x => x.at_)).getD s.now
    let sc := { c.scan with
      gen := (g + 1) % 2 ^ 16, serial := c.scan.serial + 1, aggSent := false, ran := false, prevAt := got }
    .ok ({ s with core := { c with scan := sc }.wake s.now d (wd g) }.trace c.id 5 0x501 (wd g))
  | .follow =>
    let g := (s.recOf c.id.lh).gang
    .ok (s.mapCores (fun x => x.id.lh == c.id.lh && x.id.twin == c.id.twin && x.id.lc / g == c.id.lc / g)
      (fun x => { { x with run := .ready, slaved := true, forwards := [] }.advance s.now wordSize with
        nextIssue := s.now + 1 }))

/-- A wait of the core that issues: it sleeps, or returns at once when its condition holds already. In a slaved gang no member's wait returns
before every member's does (R202): the end of the wait is `State.wakers`'. -/
def State.sleep (s : State) (w : Wait) : Res State :=
  let s := { s with core := { s.core with run := .waiting w } }
  if s.due s.core w && !s.core.slaved then s.finish w else .ok s

/-- What every wait does first, R46, R202, R266, R268: it issues with no register write in flight, commits the region and
opens one at itself, and closes the exchange window. -/
def State.beginWait (s : State) : Res State := do
  s.core.notInHandler
  needIdle s.core.flights.isEmpty
  let s' ← s.commitAt s.core.pc
  .ok { s' with core := { s'.core with window := none } }

/-- The whole state with the core changed. -/
def State.withCore (s : State) (c : Core) : State := { s with core := c }

/-- A commit point at an instruction that completes: the region commits and the next opens behind it, R350. `c` is the
core after the instruction's own reads and writes, at its next address. -/
def State.commitBehind (s : State) (c : Core) : Res State := (s.withCore c).commitAt c.pc

/-- A commit point that goes on once its region has committed: until it completes, the open region begins at itself. -/
def State.runCommitted (s : State) (body : State → Res State) : Out :=
  match (do s.core.notInHandler; s.commitAt s.core.pc : Res State) with
  | .error e => s.run (.error e)
  | .ok s' => s'.run (body s')

/-- A wait: what it does once the region before it has committed works on the committed state. -/
def State.runWait (s : State) (body : State → Res State) : Out :=
  match s.beginWait with
  | .error e => s.run (.error e)
  | .ok s' => s'.run (body s')

/-- A barrier of a group executed by a member: it arrives and sleeps until that generation fires; a member for which a vacate has arrived
does not arrive again, and its barrier returns at once, R256, R275. A mirror pair arrives with its second twin. -/
def State.barrierWait (s : State) (g : Nat) (w : Nat → Wait) : Res State :=
  let n := s.ownGen s.core g
  if s.core.credits.contains (g, n) || s.core.arrivedAt.contains (g, n) then s.sleep (w n) else
    let s := { s with core := { s.core with arrivedAt := s.core.arrivedAt ++ [(g, n)] } }
    let both := match s.other s.core with | some o => o.arrivedAt.contains (g, n) | none => true
    (if both then s.arrive s.core.id.lh g s.core.id.lc else s).sleep (w n)

end Sys2Proof.Machine
end

