-- ==== Sys2Proof/Machine/LocalMem.lean ====
section
/-! DEFINITION. Local loads and stores (spec/08_isa_memory_engines.md R187 to R189; spec/02_encoding.md R41), the accesses to the
event unit (spec/12_isa_flow_sync.md R270 to R273), and the lane loads and stores R190 to R192. -/

namespace Sys2Proof.Machine

/-! ### Accesses to the event unit -/

/-- A load from a barrier line i, R270: it arrives, once per generation, and waits for the line to fire. The arrival is a
release at CLUSTER scope (R171). A mirror pair arrives with its second twin. -/
def State.loadBarrier (s : State) (i : Nat) (d : XReg) (f : LoadFmt) : Res State := do
  let c := s.core
  let b := (s.evset (s.evCluster c) c.ctx).bar i
  if b.gbind then
    need ((s.groupOf c.id.lh b.group.toNat).contains c.id.lc) .access 0xB2
    s.barrierWait b.group.toNat (fun n => .barGroup b.group.toNat n d f)
  else
    need (b.count != 0) .access 0xA1
    needIdle (s.released c .cluster)
    let both := match s.other c with
      | some o => (match o.run with | .waiting (.barLine j n _ _) => j == i && n == b.gen.toNat | _ => false)
      | none => true
    if !both then s.sleep (.barLine i b.gen.toNat d f) else
    let arr := if b.arrived.contains c.key then b.arrived else b.arrived ++ [c.key]
    let b' : BarLine := if arr.length ≥ b.count then { b with gen := b.gen + 1, arrived := [] } else { b with arrived := arr }
    ((s.updEv (s.evCluster c) c.ctx (fun e => e.setBar i b')).carry (s.lineAt c (16 * i)) c).sleep (.barLine i b.gen.toNat d f)

/-- A load from a mutex line i, R271: it waits until the mutex is granted, in the order of request. -/
def State.loadMutex (s : State) (i : Nat) (d : XReg) (f : LoadFmt) : Res State :=
  let c := s.core
  let m := (s.evset (s.evCluster c) c.ctx).mutex i
  let m' : MutexLine :=
    if m.holder.isNone then ⟨some c.key, m.queue⟩
    else if m.holder == some c.key || m.queue.contains c.key then m else { m with queue := m.queue ++ [c.key] }
  (s.updEv (s.evCluster c) c.ctx (fun e => e.setMutex i m')).sleep (.mutexLine i d f)

/-- A load from an event-unit line, the wait of R189; it follows the core's own stores to the lines. -/
def State.loadLine (s : State) (off : Nat) (d : XReg) (f : LoadFmt) : Res State := do
  needIdle (!s.core.acting)
  if off < 0x100 then s.loadBarrier (off / 16) d f
  else if off < 0x200 then s.loadMutex ((off - 0x100) / 16) d f
  else s.sleep (.eventLine ((off - 0x200) / 16) d f)

/-- What a store to an event-unit offset checks before it commits, R22, R271, R273. -/
def State.checkEventStore (s : State) (off size : Nat) : Res Unit :=
  let c := s.core
  let e := s.evset (s.evCluster c) c.ctx
  if off < 0x100 then trapR .access (Config.barrierStoreTval s.fresh)
  else if off < 0x200 then need ((e.mutex ((off - 0x100) / 16)).holder == some c.key) .access 0xA2
  else if off < 0x800 then .ok ()
  else do
    need (size == 8) .access 0xA3
    need (s.barView c ((off - 0x800) / 8)).arrived.isEmpty .access 0xA4

/-- A control word stored: COUNT, held to 16, GROUP and GBIND, R273. -/
def BarLine.store (b : BarLine) (v : Word) : BarLine :=
  { b with
    gbind := bitOf v.toNat 24
    group := v.extractLsb' 16 8
    count := Nat.min 16 (bitsOf v.toNat 4 0) }

/-- A store to an event-unit offset performed, R189, R271, R272, R273; one to a mutex or event line is a release, R171. -/
def State.storeEvent (s : State) (c : Core) (off : Nat) (v : Word) : State :=
  let cl := s.evCluster c
  let s := if off < 0x800 then s.carry (s.lineAt c (off / 16 * 16)) c else s
  if off < 0x200 then s.updEv cl c.ctx (fun e => e.setMutex ((off - 0x100) / 16) (e.mutex ((off - 0x100) / 16)).grant)
  else if off < 0x800 then s.raiseEvent c.id.lh cl c.ctx ((off - 0x200) / 16)
  else s.updEv cl c.ctx (fun e => e.setBar ((off - 0x800) / 8) ((e.bar ((off - 0x800) / 8)).store v))

/-! ### Local loads -/

/-- The effective address of a load or store, and where it falls, R13. -/
def Core.effective (c : Core) (a : XReg) (imm : Word) (size : Nat) : Res (Word × Loc) := do
  let x ← c.readX a
  let l ← locate (x + imm) size
  .ok (x + imm, l)

/-- A load of the scratchpad, the engine window or the control block, with its latency of 4, R187, R189, R273. -/
def State.loadPlain (s : State) (a : XReg) (la : Bool) (d : XReg) (f : LoadFmt) (A : Word) (l : Loc) : Res State := do
  let c := s.core
  c.mayLoad
  let done (c : Core) (n : Nat) : Res State :=
    .ok (s.withCore (((c.killX a la).writeX s.now 4 d (f.value n)).advance s.now f.len))
  match l with
  | .scratch =>
    c.checkWar [A.toNat / 64] A
    let c' ← c.request s.now A.toNat 0
    done c' (c.numAt A.toNat f.size)
  | .engine off => done c (c.engineWord off / 2 ^ (8 * (off % 16)))
  | .event off =>
    c.notInHandler
    done c ((s.barView c ((off - 0x800) / 8)).word / 2 ^ (8 * (off % 8)))

/-- A local load, R187; one from an event-unit line is a wait, R189. Its address is read before the wait's commit, which shows that it is a
wait; where that commit writes a ticket into X[a], the address stays the one read before it: R46 and R202, which have a wait read its operands
after the commit, do not say which value counts (the model's choice, log entry 95). -/
def State.load (s : State) (a : XReg) (la : Bool) (imm : Word) (d : XReg) (f : LoadFmt) : Out :=
  match s.core.effective a imm f.size with
  | .error e => s.run (.error e)
  | .ok (A, .event off) =>
    if off < 0x800 then s.runWait (fun s' => do
      s'.core.mayLoad
      (s'.withCore (s'.core.killX a la)).loadLine off d f)
    else s.run (s.loadPlain a la d f A (.event off))
  | .ok (A, l) => s.run (s.loadPlain a la d f A l)

/-- LD.B. -/
def execLdB (r : IOp) (s : State) : Out := s.load r.a r.la (immI r) r.d ⟨1, true, wordSize⟩
/-- LD.BU. -/
def execLdBu (r : IOp) (s : State) : Out := s.load r.a r.la (immI r) r.d ⟨1, false, wordSize⟩
/-- LD.H. -/
def execLdH (r : IOp) (s : State) : Out := s.load r.a r.la (immI r) r.d ⟨2, true, wordSize⟩
/-- LD.HU. -/
def execLdHu (r : IOp) (s : State) : Out := s.load r.a r.la (immI r) r.d ⟨2, false, wordSize⟩
/-- LD.W. -/
def execLdW (r : IOp) (s : State) : Out := s.load r.a r.la (immI r) r.d ⟨4, true, wordSize⟩
/-- LD.WU. -/
def execLdWu (r : IOp) (s : State) : Out := s.load r.a r.la (immI r) r.d ⟨4, false, wordSize⟩
/-- LD.D. -/
def execLdD (r : IOp) (s : State) : Out := s.load r.a r.la (immI r) r.d ⟨8, false, wordSize⟩
/-- The offset of C.LDL and C.STL. -/
def offL (imm : BitVec 6) : Word := wd (imm.toNat * 8)
/-- C.LDL, R41. -/
def execCLdl (d : XReg) (imm : BitVec 6) (s : State) : Out := s.load 2 false (offL imm) d ⟨8, false, halfSize⟩

/-! ### Local stores -/

/-- A store of the scratchpad, R188; a store to the engine window traps, R13. -/
def State.storePlain (s : State) (c : Core) (A v : Word) (size len : Nat) : Loc → Res State
  | .scratch => do
    let cs := cellsAt A.toNat (leBytes size v.toNat)
    checkHeld c.rings (cs.map (·.1))
    let c' ← c.store s.now 0 (s.umbra c.id.lh) cs
    .ok (s.withCore (c'.advance s.now len))
  | .engine _ | .event _ => trapR .access A

/-- A local store of the low bytes of a register, R188; one to the event unit is a commit point, performed once what it
releases has been performed (R171, R189). -/
def State.store (s : State) (a b : XReg) (la lb : Bool) (imm : Word) (size len : Nat) : Out :=
  let r : Res (Word × Word × Loc) := do
    let x ← s.core.readX a
    let v ← s.core.readX b
    let l ← locate (x + imm) size
    match l with
    | .event off =>
      s.core.notInHandler
      s.checkEventStore off size
    | _ => .ok ()
    .ok (x + imm, v, l)
  let kill (c : Core) : Core := (c.killX a la).killX b lb
  match r with
  | .error e => s.run (.error e)
  | .ok (_, v, .event off) => s.runCommitted (fun s' => do
      needIdle (s'.released s'.core .cluster && !s'.core.acting)
      let c := (kill s'.core).advance s'.now len
      .ok ((s'.withCore (c.openRegion c.pc)).act (.eventStore off v) (fun s => s.storeEvent s.core off v)))
  | .ok (A, v, l) => s.run (s.storePlain (kill s.core) A v size len l)

/-- ST.B. -/
def execStB (r : SOp) (s : State) : Out := s.store r.a r.b r.la r.lb (sx r.imm) 1 wordSize
/-- ST.H. -/
def execStH (r : SOp) (s : State) : Out := s.store r.a r.b r.la r.lb (sx r.imm) 2 wordSize
/-- ST.W. -/
def execStW (r : SOp) (s : State) : Out := s.store r.a r.b r.la r.lb (sx r.imm) 4 wordSize
/-- ST.D. -/
def execStD (r : SOp) (s : State) : Out := s.store r.a r.b r.la r.lb (sx r.imm) 8 wordSize
/-- C.STL, R41. -/
def execCStl (d : XReg) (imm : BitVec 6) (s : State) : Out := s.store 2 d false false (offL imm) 8 halfSize

/-! ### Lane loads and stores, R190 -/

/-- A register x0 to x15. -/
def lowX (i : Fin 16) : XReg := i.castLE (by decide)

/-- The addresses of the active elements, with their element numbers. -/
def Core.laneAddrs (c : Core) (km : KReg) (n : Nat) (addr : Nat → Word) : List (Nat × Word) :=
  ((List.range n).filter (c.active km)).map (fun j => (j, addr j))

/-- The checks of R190 on the addresses of elements: alignment, then the scratchpad's bounds for b bytes. -/
def checkLane (as : List (Nat × Word)) (align b : Nat) : Res Unit := do
  match as.find? (fun p => p.2.toNat % align != 0) with
  | some p => trapR .misalign p.2
  | none => match as.find? (fun p => decide (p.2.toNat + b > lmemSize)) with
    | some p => trapR .localrange p.2
    | none => .ok ()

/-- A lane load: element j of the destination is formed from the b bytes at its address, R190. `c` is the core after its
sources, `fin` makes their kills. -/
def Core.laneLoad (c : Core) (now : Nat) (vd : VReg) (km : KReg) (w b : Nat) (addr : Nat → Word)
    (fin : Core → Core) (f : Nat → Nat × Flags) : Res Core := do
  c.mayLoad
  let (c1, vals) ← c.readList now (if km != 0 && !c.bound vd then [vd] else []) []
  c.checkDst vd
  let as := c.laneAddrs km (elems w) addr
  checkLane as b b
  let lns := linesTouched (as.map (fun p => p.2.toNat))
  c.checkWar lns (match as with | [] => 0 | p :: _ => p.2)
  let c2 ← c1.laneReads now lns
  let r := c.perElem km w (elems w) (fun j => f (c.numAt (addr j).toNat b))
  let bytes := c.activeBytes km w
  let out := if c.bound vd then r.1 else laneMerge (valueOf vals vd) r.1 bytes
  .ok (((fin c2).write now (4 + maxPerBank lns) (.v vd out bytes) r.2).advance now wordSize)

/-- A lane store of the elements of vd, R190. -/
def Core.laneStore (c : Core) (now : Nat) (umbra : Bool) (v : Lane) (km : KReg) (w : Nat) (addr : Nat → Word)
    (fin : Core → Core) : Res Core := do
  let b := w / 8
  let as := c.laneAddrs km (elems w) addr
  checkLane as b b
  let cs := as.flatMap (fun p => cellsAt p.2.toNat (leBytes b (elemAt w v p.1)))
  checkHeld c.rings (cs.map (·.1))
  let c1 ← (fin c).store now 1 umbra cs
  .ok (c1.advance now wordSize)

/-- A load with a base and an offset or stride in integer registers. -/
def State.vload (s : State) (r : LMem) (addr : Word → Word → Nat → Word) : Out :=
  s.runCore (do
    let c := s.core
    let x ← c.readX (lowX r.a)
    let y ← c.readX (lowX r.b)
    c.laneLoad s.now r.vd r.km (esWidth r.es) (esWidth r.es / 8) (addr x y)
      (fun c => (c.killX (lowX r.a) r.la).killX (lowX r.b) r.lb) noFlags)
/-- A store with a base and an offset or stride in integer registers. -/
def State.vstore (s : State) (r : LMem) (addr : Word → Word → Nat → Word) : Out :=
  s.runCore (do
    let c := s.core
    let x ← c.readX (lowX r.a)
    let y ← c.readX (lowX r.b)
    let (c1, v) ← c.readV s.now r.vd
    c1.laneStore s.now (s.umbra c.id.lh) v r.km (esWidth r.es) (addr x y)
      (fun c => (c.killX (lowX r.a) r.la).killX (lowX r.b) r.lb))

/-- X[a] + X[b] + j × b. -/
def addrUnit (es : Fin 4) (x y : Word) (j : Nat) : Word := x + y + wd (j * (esWidth es / 8))
/-- X[a] + j × X[b]. -/
def addrStride (x y : Word) (j : Nat) : Word := x + wd j * y
/-- X[a] + V[vb].ew[j] × b. -/
def addrIndex (es : Fin 4) (x : Word) (ix : Lane) (j : Nat) : Word := x + wd (elemAt (esWidth es) ix j * (esWidth es / 8))

/-- VLD. -/
def execVld (r : LMem) (s : State) : Out := s.vload r (addrUnit r.es)
/-- VST. -/
def execVst (r : LMem) (s : State) : Out := s.vstore r (addrUnit r.es)
/-- VLDS. -/
def execVlds (r : LMem) (s : State) : Out := s.vload r addrStride
/-- VSTS. -/
def execVsts (r : LMem) (s : State) : Out := s.vstore r addrStride
/-- VLDB. -/
def execVldb (r : LMem) (s : State) : Out := s.vload r (fun x y _ => x + y)
/-- VLDG. -/
def execVldg (r : LMemG) (s : State) : Out :=
  s.runCore (do
    let x ← s.core.readX (lowX r.a)
    let (c1, ix) ← s.core.readV s.now r.vb
    c1.laneLoad s.now r.vd r.km (esWidth r.es) (esWidth r.es / 8) (addrIndex r.es x ix)
      (fun c => (c.killX (lowX r.a) r.la).killV r.vb r.lb) noFlags)
/-- VSTSC. -/
def execVstsc (r : LMemG) (s : State) : Out :=
  s.runCore (do
    let x ← s.core.readX (lowX r.a)
    let (c1, vals) ← s.core.readList s.now [r.vb, r.vd] []
    c1.laneStore s.now (s.umbra s.core.id.lh) (valueOf vals r.vd) r.km (esWidth r.es) (addrIndex r.es x (valueOf vals r.vb))
      (fun c => (c.killX (lowX r.a) r.la).killV r.vb r.lb))

/-- What VLDACC makes of the 8 bytes of an accumulator element, R192. -/
def accElem (wide int : Bool) (n : Nat) : Nat × Flags :=
  if wide then (n, 0)
  else if int then
    let v := signedOf 64 n
    if v > 0x7FFFFFFF then (0x7FFFFFFF, fOF) else if v < -0x80000000 then (0x80000000, fOF) else (intCode 32 v, 0)
  else narrowF fmtFp32 .rne false (decodeF fmtFp64 n)
/-- VLDACC, R192. -/
def execVldacc (r : LAcc) (s : State) : Out :=
  s.runCore (do
    let x ← s.core.readX (lowX r.a)
    s.core.laneLoad s.now r.vd r.km (if r.wide then 64 else 32) 8 (fun j => x + wd (8 * j))
      (fun c => c.killX (lowX r.a) r.la) (accElem r.wide r.int))

end Sys2Proof.Machine
end

