-- ==== Sys2Proof/Machine/Message.lean ====
section
/-! DEFINITION. Messages (spec/08_isa_memory_engines.md R193), returning atomics R195 and R196, logged atomics and their merge
R197 and R198 (spec/07_ordering.md R177), and the fences R168, R169, R199 to R201. -/

namespace Sys2Proof.Machine

/-! ### Messages, R193 -/

/-- The number of logical cores of the core's launch. -/
def State.gridOf (s : State) (c : Core) : Nat := (s.recOf c.id.lh).grid

/-- The checks of a peer address and its local part: the scratchpad, and alignment, R193. -/
def State.checkPeer (s : State) (x : Word) (align : Nat) : Res Unit := do
  need (peerOk x (s.gridOf s.core)) .engine x
  need (decide (peerLocal x < lmemSize)) .engine x
  need (decide (peerLocal x % align = 0)) .misalign x

/-- A message of two sources, buffered until its region commits, R193. -/
def State.message (s : State) (r : S2) (align : Nat) (m : Word → MsgKind) : Out :=
  s.runCore (do
    s.core.notInHandler
    let (c, x, y) ← s.core.srcAB r.a r.b r.la r.lb
    s.checkPeer x align
    let c' ← c.buffer (.msg (peerCore x) (peerLocal x) (m y))
    .ok (c'.advance s.now wordSize))

/-- MSG.D. -/
def execMsgD (r : S2) (s : State) : Out := s.message r 8 (fun y => .bytes (leBytes 8 y.toNat))
/-- MSG.W. -/
def execMsgW (r : S2) (s : State) : Out := s.message r 4 (fun y => .bytes (leBytes 4 y.toNat))
/-- MSG.B. -/
def execMsgB (r : S2) (s : State) : Out := s.message r 1 (fun y => .bytes (leBytes 1 y.toNat))
/-- The bits of a sub-byte width. -/
def subBits : SubWidth → Nat
  | .four => 4
  | .two => 2
  | .one => 1
/-- MSG.N. -/
def execMsgN (r : S2) (w : SubWidth) (pos : Fin 8) (s : State) : Out :=
  s.message r 1 (fun y => .bits pos.val (subBits w) (BitVec.ofNat 8 (y.toNat % 2 ^ subBits w)))
/-- MSG.EV. -/
def execMsgEv (r : S1) (s : State) : Out :=
  s.runCore (do
    s.core.notInHandler
    let (c, x) ← s.core.srcA r.a r.la
    need (peerOk x (s.gridOf s.core)) .engine x
    need (decide (0x100200 ≤ peerLocal x) && decide (peerLocal x < 0x100400)) .engine x
    need (decide (peerLocal x % 16 = 0)) .misalign x
    let c' ← c.buffer (.msg (peerCore x) (peerLocal x) (.event ((peerLocal x - 0x100200) / 16)))
    .ok (c'.advance s.now wordSize))

/-! ### Returning atomics, R195, R196 -/

/-- The checks of an atomic at issue: its operands, alignment, the scratchpad and the held spans of the core's view. -/
def Core.checkAtomic (c : Core) (r : R3) (cas : Bool) (size : Nat) : Res (Word × Word × Word) := do
  let x ← c.readX r.a
  let y ← c.readX r.b
  let z ← if cas then c.readX r.d else .ok 0
  need (decide (x.toNat % size = 0)) .misalign x
  need (decide (x.toNat + size ≤ lmemSize)) .localrange x
  checkHeld c.rings (span x.toNat size)
  .ok (x, y, z)

/-- The reserved slot of an atomic: its bank for the next three cycles, R15, R196. -/
def Core.atomicSlot (c : Core) (now bank : Nat) : Res Core :=
  match c.bankUse.find? (fun u => u.bank == bank && decide (u.lo ≤ now + 3) && decide (now + 1 ≤ u.hi)) with
  | some u => trapR .bankconf (wd (bank + 16 * 3 + 256 * u.code))
  | none => .ok (c.claim now ⟨bank, now + 1, now + 3, 3⟩)

/-- A returning atomic that has passed its checks, with the operands that it has read then: it reads and writes its bytes as one unit (log
entry 29), and the next region's checkpoint holds its result, R176, R196. In an Umbra launch the first write of a line is held, R358. -/
def State.atomicNow (s : State) (wide : Bool) (r : R3) (f : Nat → Nat → Nat → Nat → Nat × Flags) (ops : Word × Word × Word) :
    Res State := do
  let size := if wide then 8 else 4
  let c := s.core
  let a := ops.1.toNat
  c.copyFirst (s.umbra c.id.lh) [a]
  let c1 ← ((c.killX r.a r.la).killX r.b r.lb).atomicSlot s.now (bankOf a)
  let w := 8 * size
  let old := c.mem.num a size
  let new := f w old (ops.2.1.toNat % 2 ^ w) (ops.2.2.toNat % 2 ^ w)
  let c2 := c1.poke (s.umbra c.id.lh) (cellsAt a (leBytes size new.1))
  let v : Word := if wide then wd old else sx (BitVec.ofNat 32 old)
  let c3 := if r.d = 0 && new.2 = 0 then c2 else c2.write s.now 4 (if r.d = 0 then .none else .x r.d v) new.2
  let c3 := c3.advance s.now wordSize
  .ok (s.withCore (c3.openRegion c3.pc))

/-- A returning atomic, R195, R196: its checks come before the commit; once they have passed it commits, and is held at issue until the
committed work has drained, whatever becomes of the bytes meanwhile. `f` takes the size in bits, the old value, the operand and the value X[d]
compares with. -/
def State.atomic (s : State) (wide : Bool) (r : R3) (cas : Bool) (f : Nat → Nat → Nat → Nat → Nat × Flags) : Out :=
  match s.core.atom with
  | some ops => if s.core.drained then s.run (s.atomicNow wide r f ops) else .next s.held
  | none =>
    match (do s.core.notInHandler; s.core.checkAtomic r cas (if wide then 8 else 4)) with
    | .error e => s.run (.error e)
    | .ok ops => s.runCommitted (fun s' =>
        let s' := s'.withCore { s'.core with atom := some ops }
        if s'.core.drained then s'.atomicNow wide r f ops else .error (.goto s'.held))

/-- An atomic without flags. -/
def plainAmo (g : Nat → Nat → Nat → Nat) (w old op _cmp : Nat) : Nat × Flags := (g w old op, 0)

/-- AMOADD. -/
def execAmoadd (wide : Bool) (r : R3) (s : State) : Out :=
  s.atomic wide r false (plainAmo (fun w old op => (old + op) % 2 ^ w))
/-- AMOMIN. -/
def execAmomin (wide : Bool) (r : R3) (s : State) : Out :=
  s.atomic wide r false (plainAmo (fun w old op => if signedOf w op < signedOf w old then op else old))
/-- AMOMAX. -/
def execAmomax (wide : Bool) (r : R3) (s : State) : Out :=
  s.atomic wide r false (plainAmo (fun w old op => if signedOf w old < signedOf w op then op else old))
/-- AMOMINU. -/
def execAmominu (wide : Bool) (r : R3) (s : State) : Out :=
  s.atomic wide r false (plainAmo (fun _ old op => Nat.min old op))
/-- AMOMAXU. -/
def execAmomaxu (wide : Bool) (r : R3) (s : State) : Out :=
  s.atomic wide r false (plainAmo (fun _ old op => Nat.max old op))
/-- AMOAND. -/
def execAmoand (wide : Bool) (r : R3) (s : State) : Out := s.atomic wide r false (plainAmo (fun _ old op => old &&& op))
/-- AMOOR. -/
def execAmoor (wide : Bool) (r : R3) (s : State) : Out := s.atomic wide r false (plainAmo (fun _ old op => old ||| op))
/-- AMOXOR. -/
def execAmoxor (wide : Bool) (r : R3) (s : State) : Out := s.atomic wide r false (plainAmo (fun _ old op => old ^^^ op))
/-- AMOSWAP. -/
def execAmoswap (wide : Bool) (r : R3) (s : State) : Out := s.atomic wide r false (plainAmo (fun _ _ op => op))
/-- AMOCAS. -/
def execAmocas (wide : Bool) (r : R3) (s : State) : Out :=
  s.atomic wide r true (fun _ old op cmp => (if old = cmp then op else old, 0))
/-- AMOFADD. -/
def execAmofadd (wide : Bool) (r : R3) (s : State) : Out :=
  s.atomic wide r false (fun _ old op _ => fadd (if wide then fmtFp64 else fmtFp32) .rne old op)

/-! ### Logged atomics, R177, R197, R198 -/

/-- A log append, buffered like a message, R197. -/
def State.logAppend (s : State) (narrow : Bool) (r : S2) (op : LogOp) : Out :=
  s.runCore (do
    s.core.notInHandler
    let (c, x, y) ← s.core.srcAB r.a r.b r.la r.lb
    s.checkPeer x (if narrow then 4 else 8)
    let c' ← c.buffer (.log (peerCore x) ⟨peerLocal x, op, !narrow, y⟩)
    .ok (c'.advance s.now wordSize))

/-- LOG.ADD. -/
def execLogAdd (narrow : Bool) (r : S2) (s : State) : Out := s.logAppend narrow r .add
/-- LOG.MIN. -/
def execLogMin (narrow : Bool) (r : S2) (s : State) : Out := s.logAppend narrow r .min
/-- LOG.MAX. -/
def execLogMax (narrow : Bool) (r : S2) (s : State) : Out := s.logAppend narrow r .max
/-- LOG.OR. -/
def execLogOr (narrow : Bool) (r : S2) (s : State) : Out := s.logAppend narrow r .or
/-- LOG.FADD. -/
def execLogFadd (narrow : Bool) (r : S2) (s : State) : Out := s.logAppend narrow r .fadd

/-- A sum formed exactly and rounded once, RNE, R177. -/
def sumExact (f : FloatFmt) (vs : List Nat) : Nat × Flags :=
  let ds := vs.map (decodeF f)
  let pos := ds.any (fun v => v == .inf false)
  let neg := ds.any (fun v => v == .inf true)
  if ds.any Fv.isNan || (pos && neg) then nanResult f (ds.any Fv.isSig || (pos && neg))
  else if pos || neg then (f.infCode neg, 0)
  else roundDy f .rne (ds.all (fun v => match v with | .num s 0 _ => s | _ => false))
    (ds.foldl (fun a v => a.add v.dy) ⟨0, 0⟩)

/-- A log entry before another in the order of a merge: by address. -/
def insertLog (e : LogEntry) : List LogEntry → List LogEntry
  | [] => [e]
  | f :: t => if e.addr ≤ f.addr then e :: f :: t else f :: insertLog e t
/-- The entries in ascending address order, then in arrival order. -/
def byAddr (l : List LogEntry) : List LogEntry := l.foldr insertLog []

/-- The bytes of a log entry's target. -/
def LogEntry.size (e : LogEntry) : Nat := if e.wide then 8 else 4
/-- Whether an entry is one of the floating-point sum that another begins. -/
def LogEntry.joins (e f : LogEntry) : Bool := f.op == .fadd && f.addr == e.addr && f.wide == e.wide

/-- One entry applied to its old value; for LOG.FADD with the operands of every entry of that sum, R177. -/
def LogEntry.apply (e : LogEntry) (old : Nat) (sum : List Nat) : Nat × Flags :=
  let w := 8 * e.size
  let op := e.val.toNat % 2 ^ w
  match e.op with
  | .add => ((old + op) % 2 ^ w, 0)
  | .min => (if signedOf w op < signedOf w old then op else old, 0)
  | .max => (if signedOf w old < signedOf w op then op else old, 0)
  | .or => (old ||| op, 0)
  | .fadd => sumExact (if e.wide then fmtFp64 else fmtFp32) (old :: sum)

/-- The entries of a log applied in order to a core, by the number of entries. -/
def Core.applyLog (c : Core) (now : Nat) (umbra : Bool) : Nat → List LogEntry → Core
  | 0, _ => c
  | _ + 1, [] => c
  | n + 1, e :: t =>
    if (heldBy c.erings e.addr).isSome || (heldBy c.erings (e.addr + e.size - 1)).isSome then
      { c with logDrop := Nat.min 0xFFFF (c.logDrop + 1) }.applyLog now umbra n t
    else
      let same := if e.op == .fadd then t.filter e.joins else []
      let rest := if e.op == .fadd then t.filter (fun f => !e.joins f) else t
      let sum := (e :: same).map (fun f => f.val.toNat % 2 ^ (8 * f.size))
      let r := e.apply (c.mem.num e.addr e.size) sum
      ((c.poke umbra (cellsAt e.addr (leBytes e.size r.1))).engineFlags now r.2).applyLog now umbra n rest

/-- The words that a merge writes: those of the entries that no ring holds. -/
def Core.mergeAddrs (c : Core) : List Nat :=
  (c.log.filter (fun e => !((heldBy c.erings e.addr).isSome || (heldBy c.erings (e.addr + e.size - 1)).isSome))).map (·.addr)
/-- The merge of a core's log, R177, R198: every entry that has arrived. -/
def State.mergeLog (s : State) (id : CoreId) : State :=
  s.updCore id (fun c => { c with log := [] }.applyLog s.now (s.umbra id.lh) c.log.length (byAddr c.log))

/-- LOG.MERGE: the region commits, and the core is held for T_merge, R198. It follows the core's own committed stores to the
words it merges (log entry 22). -/
def execLogMerge (s : State) : Out :=
  s.runCommitted (fun s' => do
    needIdle (!s'.core.log.any (fun e => s'.core.draining (e.addr / 64)))
    s'.core.copyFirst (s'.umbra s'.core.id.lh) (s'.core.mergeAddrs)
    let t := 16 + 2 * s'.core.log.length
    let s1 := s'.mergeLog s'.core.id
    let c := { s1.core.advance s'.now wordSize with nextIssue := s'.now + t }
    .ok (s1.withCore (c.openRegion c.pc)))

/-! ### Fences, R168, R169, R199 to R201 -/

/-- What a FENCE leaves among the region's work: the lines drain in order and loads are performed at their issue, so that it matters before
stores when it names stores, which then join no line buffered before it, before stores and messages when it names messages, and before loads
when it names stores or messages (R168, R199). -/
def fenceOf (sc : Scope) (pred succ : BitVec 3) : Fence where
  sc := sc
  msgs := pred.getLsbD 2
  timed := false
  drains := (pred.getLsbD 2 && (succ.getLsbD 1 || succ.getLsbD 2)) || (pred.getLsbD 1 && succ.getLsbD 1)
  loads := (pred.getLsbD 1 || pred.getLsbD 2) && succ.getLsbD 0
  sheaf := false
/-- The region's work with a fence, unless it orders nothing. -/
def Core.fence (c : Core) (f : Fence) : Core := if f.drains || f.loads then { c with sbuf := c.sbuf ++ [Buf.fence f] } else c
/-- FENCE: it never holds issue itself; it takes effect with the region's commit, R161: what it names before it is performed at its scope
before the stores and messages behind it, and before the loads that issue once it has committed. -/
def execFence (sc : Scope) (pred succ : BitVec 3) (s : State) : Out :=
  s.runCore (do
    s.core.notInHandler
    .ok ((s.core.fence (fenceOf sc pred succ)).advance s.now wordSize))

/-- The largest T_msg from a core to the parties of GROUP, DIE or DEVICE scope, R200. -/
def State.fenceReach (s : State) (c : Core) (sc : Scope) : Nat :=
  let corners (d : Nat) : List (Nat × Nat) :=
    let r := d / 2 * 24
    let k := d % 2 * 24
    [(r, k), (r, k + 23), (r + 23, k), (r + 23, k + 23)]
  let ps := match sc with
    | .group => ((s.kernOf c.id.lh).groups.filter (fun (g : List Nat) => g.contains c.id.lc)).flatMap (fun (g : List Nat) => g.map (s.posOf c.id.lh))
    | .die => corners c.die
    | _ => [0, 1, 2, 3].flatMap corners
  ps.foldl (fun m p => Nat.max m (s.tMsg c.pos p)) 0

/-- What a FENCE.X whose producer is the CORE path leaves among the region's work, R169: what the core has observed is performed before what
drains behind it, and, for the consumers CORE and HOST, before its later loads. What an engine's path has done and the core has observed
is performed already. -/
def fenceXOf (sc : Scope) (k : Path) : Fence := ⟨sc, true, true, true, k == .core || k == .host, k == .sheaf || k == .host⟩
/-- The loads behind a FENCE.X whose producer is the CORE path and whose consumer is CORE or HOST: those of its own region too wait for what the
core has committed, and for what it has observed and is on its way within the scope, R169 (log entry 97). -/
def State.fenceLoads (s : State) (c : Core) (f : Fence) : Core :=
  if !f.loads then c else
  { c with
    drainq := if c.drainq.isEmpty then c.drainq else
      c.drainq ++ [Drain.mk (.fence { f with drains := false, sheaf := false }) 0 s.now s.now s.timeFine .none]
    loadAfter := (c.loadAfter ++ ((s.packets.filter (s.underWay c f.sc)).map (·.id)) ++
      ((s.tlines.filter (s.lineUnderWay c f.sc)).map (·.id))).eraseDups }
/-- FENCE.X: with the consumer CORE it holds the next instruction, R200; for the work of its region it takes effect at commit, R161, R169. -/
def execFenceX (sc : Scope) (p k : Path) (s : State) : Out :=
  s.run (do
    s.core.notInHandler
    need (p != .ctx && k != .ctx) .access 0xF9
    let s := s.tickFresh
    let c := (if p == .core then (s.fenceLoads s.core (fenceXOf sc k)).fence (fenceXOf sc k) else s.core).advance s.now wordSize
    if k != .core then .ok (s.withCore c)
    else match sc with
      | .core | .gang | .cluster => .ok (s.withCore { c with nextIssue := s.now + 2 })
      | .group | .die | .device =>
        let n := 2 * s.fenceReach c sc
        .ok (s.withCore { c with nextIssue := s.now + 2 + Config.fenceHold s.fresh % (if n ≤ 2 then 1 else n - 1) })
      | .package | .peer | .domain | .host | .io | .system =>
        let at_ := s.now + 1 + Config.ackTime s.fresh
        .ok ((s.withCore { c with run := .waiting .ack, nextIssue := at_ }).sched at_ false (.scopeAcknowledgement c.id)))

/-- FENCE.I: the next instruction issues 3 cycles later, R201. -/
def execFenceI (s : State) : Out :=
  s.runCore (do
    s.core.notInHandler
    .ok { s.core.advance s.now wordSize with nextIssue := s.now + 3 })

end Sys2Proof.Machine
end

