-- ==== Sys2Proof/Machine/Matrix.lean ====
section
/-! DEFINITION. The matrix, ring and tensor-identifier instructions (spec/06_matrix_arithmetic.md R141 to R153) and the timed
exchange (spec/12_isa_flow_sync.md R277 to R280). -/

namespace Sys2Proof.Machine

/-! ### MMA, MMAZ and MMAQ, R141 to R144 -/

/-- RINGB of the operand word, R141. -/
def opRingB (x : Word) : Nat := bitsOf x.toNat 41 39
/-- RINGA. -/
def opRingA (x : Word) : Nat := bitsOf x.toNat 38 36
/-- TIDACC. -/
def opTidAcc (x : Word) : Nat := bitsOf x.toNat 35 24
/-- TIDB. -/
def opTidB (x : Word) : Nat := bitsOf x.toNat 23 12
/-- TIDA. -/
def opTidA (x : Word) : Nat := bitsOf x.toNat 11 0

/-- The formats that ACC64I accepts, R84. -/
def intFormat (fmt : Nat) : Bool := decide (7 ≤ fmt) && decide (fmt ≤ 14)

/-- A valid operand descriptor of a matrix command, R142. -/
def matrixOperand (d : BitVec 256) : Bool := dValid d && dKslice d != 0 && !dAcc d

/-- The leader of a gang, whether it is slaved or not, R132. -/
def State.leader (s : State) (c : Core) : Bool := c.id.lc % s.gangOf c == 0

/-- The checks of R142 after the descriptors are read. -/
def State.checkMma (s : State) (x y : Word) (dA dB dC : BitVec 256) : Res Unit := do
  let c := s.core
  need (decide (y.toNat < 2 ^ 42)) .access 0x21
  need (matrixOperand dA && matrixOperand dB) .access 0x22
  need (dValid dC && dAcc dC) .access 0x23
  need (dKslice dA == dKslice dB) .access 0x24
  need (!dAcci dC || (intFormat (dFmt dA) && intFormat (dFmt dB))) .access 0x25
  let rA := ringAt c.rings (opRingA y)
  let rB := ringAt c.rings (opRingB y)
  let la := tileLines (dRows dC) (dKslice dA) (dFmt dA)
  let lb := tileLines (dCols dC) (dKslice dB) (dFmt dB)
  need (rA.conf && rB.conf && decide (la ≤ rA.size) && decide (lb ≤ rB.size) &&
    (opRingA y != opRingB y || decide (la + lb ≤ rA.size))) .access 0x26
  if s.leader c then
    let top := x.toNat + (dRows dC - 1) * dStride dC + 8 * dCols dC
    need (decide (x.toNat % 8 = 0)) .misalign x
    need (decide (top ≤ lmemSize)) .localrange x
    need (!c.rings.toList.any (fun r => r.conf && decide (x.toNat < r.base + 64 * r.size) && decide (r.base < top))) .access 0x27
  else .ok ()

/-- A matrix command buffered, R142, R143. -/
def State.matrix (s : State) (zero : Bool) (r : R3) : Out :=
  s.runCore (do
    s.core.notInHandler
    let (c, x, y) ← s.core.srcAB r.a r.b r.la r.lb
    let dA := s.tidView (opTidA y)
    let dB := s.tidView (opTidB y)
    let dC := s.tidView (opTidAcc y)
    s.checkMma x y dA dB dC
    let c' ← c.command r.d (.mma zero x y dA dB dC)
    .ok (c'.advance s.now wordSize))

/-- MMA. -/
def execMma (r : R3) (s : State) : Out := s.matrix false r
/-- MMAZ. -/
def execMmaz (r : R3) (s : State) : Out := s.matrix true r

/-- The matrix status word, R144. -/
def Core.mmaWord (c : Core) : Word :=
  wd (c.mmaFail % 2 ^ 32 * 2 ^ 32 + c.mmaLast % 256 * 2 ^ 16 + c.inFlight .mma % 256 * 2 ^ 8 + nbit c.mmaErr)
/-- MMAQ. -/
def execMmaq (d : XReg) (s : State) : Out := s.runCore (s.core.opD s.now 2 wordSize d s.core.mmaWord)
/-- MMAQ.C: ERR and FAILSEQ are cleared once the word is read. -/
def execMmaqC (d : XReg) (s : State) : Out :=
  s.runCore ({ s.core with mmaErr := false, mmaFail := 0 }.opD s.now 2 wordSize d s.core.mmaWord)

/-! ### Rings, R145 to R149 -/

/-- The TVAL of RINGOVF, R146. -/
def ringOvf (n : Fin 8) (x : Word) : Word := wd (n.val + x.toNat % 2 ^ 16 * 2 ^ 16)
/-- An instruction that names an unconfigured ring is illegal, R145. -/
def Core.needRing (c : Core) (n : Fin 8) : Res Unit := need c.rings[n].conf .illegal c.instrWord
/-- Whether a matrix command buffered in the open region claims in a ring, R146. -/
def Core.claimsInRegion (c : Core) (n : Nat) : Bool :=
  (bufCmds c.sbuf).any (fun cm => match cm with
    | .mma _ _ y _ _ _ => opRingA y == n || opRingB y == n
    | _ => false)
/-- A ring that the engines still use, R146. -/
def Ring.busy (r : Ring) : Bool := r.claimed != 0 || r.deliv != 0 || r.stops != 0

/-- How many lines from the head on RINGPOP may release before it reaches a line that a sheaf stop has not released, R146. -/
def Core.beforeStops (c : Core) (n : Nat) : Nat :=
  let o := ringAt c.rings n
  if o.stops = 0 then o.held else
  let recs := c.stops.filter (fun r => r.ring == n && r.st != .released && r.lines != 0)
  (recs.map (fun r => (r.addr / 64 - o.base / 64 + o.size - o.head) % o.size)).foldl Nat.min (if recs.isEmpty then 0 else o.held)

/-- RINGSET. -/
def execRingset (n : Fin 8) (r : S2) (s : State) : Out :=
  s.runCore (do
    s.core.notInHandler
    let (c, x, y) ← s.core.srcAB r.a r.b r.la r.lb
    let base := x.toNat
    let size := y.toNat
    need (decide (base % 64 = 0)) .access 0x31
    need (size != 0 && decide (size ≤ 16384) && decide (base + 64 * size ≤ lmemSize)) .access 0x32
    need (!(List.range 8).any (fun j => j != n.val && (ringAt c.rings j).conf &&
      decide (base < (ringAt c.rings j).base + 64 * (ringAt c.rings j).size) &&
      decide ((ringAt c.rings j).base < base + 64 * size))) .access 0x33
    let o := c.rings[n]
    need (o.held == 0 && o.appended == 0 && !o.busy) .access 0x34
    .ok ((c.ringOp n (.set base size)).advance s.now wordSize))

/-- RINGPUSH. -/
def execRingpush (n : Fin 8) (r : S1) (s : State) : Out :=
  s.runCore (do
    s.core.needRing n
    s.core.notInHandler
    let (c, x) ← s.core.srcA r.a r.la
    let o := c.rings[n]
    need (o.deliv == 0) .access 0x35
    need (decide (x.toNat ≤ o.free)) .ringovf (ringOvf n x)
    .ok ((c.ringOp n (.push x.toNat)).advance s.now wordSize))

/-- RINGPOP. -/
def execRingpop (n : Fin 8) (r : S1) (s : State) : Out :=
  s.runCore (do
    s.core.needRing n
    s.core.notInHandler
    let (c, x) ← s.core.srcA r.a r.la
    let o := c.rings[n]
    need (decide (x.toNat ≤ o.held)) .ringovf (ringOvf n x)
    need (x == 0 || (o.claimed == 0 && decide (x.toNat ≤ c.beforeStops n) && !c.claimsInRegion n)) .access 0x36
    .ok ((c.ringOp n (.pop x.toNat)).advance s.now wordSize))

/-- The ring status word, R147: CLAIM counts the held lines among those claimed, which begin at the head (R143). -/
def Ring.word (r : Ring) : Word :=
  if r.conf then wd (2 ^ 63 + r.size % 2 ^ 15 * 2 ^ 48 + Nat.min r.claimed r.held % 2 ^ 16 * 2 ^ 32 + r.appended % 2 ^ 16 * 2 ^ 16 + r.held % 2 ^ 16)
  else 0
/-- RINGSTAT. -/
def execRingstat (d : XReg) (n : Fin 8) (s : State) : Out :=
  s.runCore (s.core.opD s.now 2 wordSize d s.core.rings[n].word)

/-- RINGCLR. -/
def execRingclr (n : Fin 8) (s : State) : Out :=
  s.runCore (do
    let c := s.core
    c.needRing n
    c.notInHandler
    need (!c.rings[n].busy) .access 0x34
    .ok ((c.ringOp n .clear).advance s.now wordSize))

/-! ### Tensor identifiers, R150 to R153 -/

/-- TIDDEF. -/
def execTiddef (r : S2) (s : State) : Out :=
  s.runCore (do
    s.core.notInHandler
    let (c, x, y) ← s.core.srcAB r.a r.b r.la r.lb
    need (decide (y.toNat < 4096)) .access 0x41
    need (decide (x.toNat % 32 = 0)) .misalign x
    need (decide (x.toNat + 32 ≤ lmemSize)) .localrange x
    let desc := BitVec.ofNat 256 (c.numAt x.toNat 32)
    match tidFault desc with
    | some n => access n
    | none => do
      let c' ← c.command 0 (.tidDef y.toNat desc)
      .ok (c'.advance s.now wordSize))

/-- TIDGET. -/
def execTidget (r : R3) (s : State) : Out :=
  s.runCore (do
    let (c, x, y) ← s.core.srcAB r.a r.b r.la r.lb
    need (decide (x.toNat < 4096) && decide (y.toNat < 4)) .access 0x41
    .ok ((c.writeX s.now 2 r.d ((s.tidView x.toNat).extractLsb' (64 * y.toNat) 64)).advance s.now wordSize))

/-- TIDSWAP. -/
def execTidswap (r : S2) (s : State) : Out :=
  s.runCore (do
    s.core.notInHandler
    let (c, x, y) ← s.core.srcAB r.a r.b r.la r.lb
    need (decide (x.toNat < 4096) && decide (y.toNat < 4096)) .access 0x41
    let c' ← c.command 0 (.tidSwap x.toNat y.toNat)
    .ok (c'.advance s.now wordSize))

/-- TIDINV. -/
def execTidinv (r : S1) (s : State) : Out :=
  s.runCore (do
    s.core.notInHandler
    let (c, x) ← s.core.srcA r.a r.la
    need (decide (x.toNat < 4096)) .access 0x41
    let c' ← c.command 0 (.tidInv x.toNat)
    .ok (c'.advance s.now wordSize))

/-! ### Timed exchange, R277 to R280 -/

/-- Every TNET instruction traps in a launch that is not timed, R277. -/
def State.needTimed (s : State) : Res Unit := need (s.recOf s.core.id.lh).timed .access 0x81

/-- The selected entries of a sender. -/
def State.slotsOf (s : State) (c : Core) : List SlotEnt :=
  (((s.kernOf c.id.lh).slots.drop c.winFirst).take c.winCount).filter (fun e => e.sender == c.id.lc)

/-- The first entry of a list whose cycle is at an offset or later. -/
def nextSlot (o : Nat) (l : List SlotEnt) : Option SlotEnt := l.find? (fun e => decide (o ≤ e.cyc))

/-- The TVAL of SLOTVIOL, R279. -/
def State.slotTval (s : State) (c : Core) (off : Option Nat) (reason : Nat) : Word :=
  let o := off.getD 0xFFFFFFFF
  let slot := match nextSlot o (s.slotsOf c) with | some e => e.slot | none => 0xFFFF
  wd (o % 2 ^ 32 * 2 ^ 32 + reason * 2 ^ 28 + slot % 2 ^ 16)

/-- TSEND: the region commits and drains, and the line is read and sent in the cycle in which it then issues, R278. -/
def execTsend (r : S2) (s : State) : Out :=
  match (do s.core.notInHandler; s.needTimed : Res Unit) with
  | .error e => s.run (.error e)
  | .ok () => s.runCommitted (fun s => do
    needIdle s.core.drainq.isEmpty
    let (c, x, y) ← s.core.srcAB r.a r.b r.la r.lb
    let off := c.window.map (fun w => s.now - w)
    need off.isSome .slotviol (s.slotTval c off 3)
    need (peerOk y (s.gridOf c)) .engine y
    need (decide (x.toNat % 64 = 0)) .misalign x
    need (decide (x.toNat + 64 ≤ lmemSize)) .localrange x
    need (decide (peerLocal y + 64 ≤ lmemSize)) .localrange y
    let o := off.getD 0
    let here := (s.slotsOf c).filter (fun e => decide (e.cyc ≤ o) && decide (o < e.cyc + e.lines))
    need (!here.isEmpty) .slotviol (s.slotTval c off 1)
    need (here.any (fun e => e.receiver == peerCore y)) .slotviol (s.slotTval c off 2)
    let c1 ← c.request s.now x.toNat 0
    let due := s.now + s.tTsend c.id.lh c.id.lc (peerCore y)
    let c2 := c1.advance s.now wordSize
    let s1 := s.withCore (c2.openRegion c2.pc)
    let s2 := { s1 with
      nextId := s1.nextId + 1
      tlines := s1.tlines ++ [TLine.mk s1.nextId c.id.lc s.now ⟨c.id.lh, peerCore y, c.id.twin⟩ (peerLocal y) (c.mem.getN x.toNat 64) due] }
    let s3 := s2.updCore ⟨c.id.lh, peerCore y, c.id.twin⟩ (fun d => d.claim s.now (BankUse.mk (bankOf (peerLocal y)) due due 4))
    .ok (s3.schedLegs due false (.tsendLanding s1.nextId) (legsOf c.die (s.route c.id.lh c.pos (s.posOf c.id.lh (peerCore y))) due)))

/-- TSLOTCFG. -/
def execTslotcfg (r : S2) (s : State) : Out :=
  s.runCore (do
    s.core.notInHandler
    s.needTimed
    let (c, x, y) ← s.core.srcAB r.a r.b r.la r.lb
    let n := (s.kernOf c.id.lh).slots.length
    need (y != 0 && decide (x.toNat + y.toNat ≤ n)) .access 0x91
    .ok ({ c with sbuf := c.sbuf ++ [Buf.slotSel x.toNat y.toNat] }.advance s.now wordSize))

/-- The exchange status word, R280. -/
def Core.exchangeWord (c : Core) (now : Nat) : Word :=
  match c.window with
  | some w => wd (2 ^ 63 + c.winCount % 4096 * 2 ^ 48 + c.winFirst % 2 ^ 16 * 2 ^ 32 + (now - w) % 2 ^ 32)
  | none => wd (c.slotCount % 4096 * 2 ^ 48 + c.slotFirst % 2 ^ 16 * 2 ^ 32)
/-- TSLOTQ. -/
def execTslotq (d : XReg) (s : State) : Out :=
  s.runCore (do
    s.core.notInHandler
    s.needTimed
    s.core.opD s.now 2 wordSize d (s.core.exchangeWord s.now))

end Sys2Proof.Machine
end

