-- ==== Sys2Proof/Machine/Copy.lean ====
section
/-! DEFINITION. The commands of the copy engine (spec/08_isa_memory_engines.md R206 to R214), of barrier objects (R216 to R218)
and of tracing (spec/17_isa_system.md R341), as their instructions check and buffer them. -/

namespace Sys2Proof.Machine

/-! ### Command words, R37, R206 -/

/-- An engine command of two sources: checked at issue, buffered, and sequenced at commit. -/
def State.ecmd (s : State) (r : R3) (f : Core → Word → Word → Res Cmd) : Out :=
  s.runCore (do
    s.core.notInHandler
    let (c, x, y) ← s.core.srcAB r.a r.b r.la r.lb
    let cmd ← f c x y
    let c' ← c.command r.d cmd
    .ok (c'.advance s.now wordSize))

/-- An engine command of one source. -/
def State.ecmd1 (s : State) (r : R2) (f : Core → Word → Res Cmd) : Out :=
  s.runCore (do
    s.core.notInHandler
    let (c, x) ← s.core.srcA r.a r.la
    let cmd ← f c x
    let c' ← c.command r.d cmd
    .ok (c'.advance s.now wordSize))

/-! ### COPYIN, COPYOUT and GATHER, R209 to R211 -/

/-- The tile's lines, R210. -/
def copyLines (xa : Word) (d : BitVec 256) : Nat := tileLines (twRows xa) (dK d) (dFmt d)

/-- The checks of a tensor word, R211: the descriptor. -/
def State.checkTensor (s : State) (xa : Word) (gather : Bool) : Res (BitVec 256) := do
  let d := s.tidView (twTid xa)
  need (dValid d && !dAcc d && !dLocal d) .access 0x62
  need ((gather || decide (twRow xa + twRows xa ≤ dRows d)) &&
    (if dKslice d = 0 then twCblk xa == 0 else decide ((twCblk xa + 1) * dKslice d ≤ dCols d))) .access 0x63
  .ok d

/-- The checks of R211 for a copy; `out` is COPYOUT, `gather` GATHER. -/
def State.checkCopy (s : State) (c : Core) (xa xb : Word) (out gather : Bool) : Res (BitVec 256 × BitVec 256) := do
  need (decide (xb.toNat < 2 ^ 52) && decide (lwFscope xb ≤ 11)) .access 0x61
  let d ← s.checkTensor xa gather
  let l := copyLines xa d
  let ring := ringAt c.rings (lwRing xb)
  need (if lwToring xb then !out && ring.conf && decide (l ≤ ring.size)
        else decide (lwLaddr xb % 64 = 0) && decide (lwLaddr xb + 64 * l ≤ lmemSize)) .access 0x64
  let fd := s.tidView (lwFlagtid xb)
  need (!lwFlagen xb || (dValid fd && decide (8 * lwFlagix xb + 8 ≤ (dCols fd * fmtBits (dFmt fd) + 7) / 8))) .access 0x65
  .ok (d, fd)

/-- COPYIN. -/
def execCopyin (r : R3) (s : State) : Out :=
  s.ecmd r (fun c x y => do
    let (d, fd) ← s.checkCopy c x y false false
    .ok (.copyIn x y d fd))
/-- COPYOUT. -/
def execCopyout (r : R3) (s : State) : Out :=
  s.ecmd r (fun c x y => do
    let (d, fd) ← s.checkCopy c x y true false
    .ok (.copyOut x y d fd))
/-- GATHER: the index list is read at issue, R206. -/
def execGather (r : R3) (s : State) : Out :=
  s.ecmd r (fun c x y => do
    let (d, fd) ← s.checkCopy c x y false true
    let n := twRows x
    need (decide (twRow x % 4 = 0) && decide (twRow x + 4 * n ≤ lmemSize)) .access 0x66
    let rows := (List.range n).map (fun i => c.numAt (twRow x + 4 * i) 4)
    need (rows.all (fun i => decide (i < dRows d))) .access 0x66
    .ok (.gather x y d fd rows))

/-! ### COPYLOC and MCAST, R212, R213 -/

/-- LINES of COPYLOC. -/
def clLines (xb : Word) : Nat := bitsOf xb.toNat 38 24
/-- COPYLOC. -/
def execCopyloc (r : R3) (s : State) : Out :=
  s.ecmd r (fun c x y => do
    let n := clLines y
    let ring := ringAt c.rings (lwRing y)
    need (decide (x.toNat % 64 = 0) && decide (y.toNat < 2 ^ 39) && decide (1 ≤ n) && decide (n ≤ 16384) &&
      decide (x.toNat + 64 * n ≤ lmemSize) &&
      (if lwToring y then ring.conf && decide (n ≤ ring.size)
       else decide (lwLaddr y % 64 = 0) && decide (lwLaddr y + 64 * n ≤ lmemSize))) .access 0x67
    .ok (.copyLoc x.toNat y))

/-- A field of a command block, little-endian. -/
def blkField (bs : List Byte) (off n : Nat) : Nat := leNat ((bs.drop off).take n)
/-- A field that its all-ones value leaves out. -/
def optField (v none_ : Nat) : Option Nat := if v = none_ then none else some v
/-- An optional local area of n bytes: aligned and in the scratchpad. -/
def areaOk (a : Option Nat) (align n : Nat) : Bool :=
  match a with
  | none => true
  | some a => decide (a % align = 0) && decide (a + n ≤ lmemSize)
/-- Whether bytes of a block are 0. -/
def blkZero (bs : List Byte) (off n : Nat) : Bool := ((bs.drop off).take n).all (· == 0)

/-- The 64-byte command block at an address, or the trap of a block that is misplaced. -/
def Core.blockAt (c : Core) (x : Word) (tval : Nat) : Res (List Byte) := do
  need (decide (x.toNat % 64 = 0) && decide (x.toNat + 64 ≤ lmemSize)) .access (wd tval)
  .ok (c.bytesAt x.toNat 64)

/-- The fields of an MCAST block, R213. -/
def mcastBlk (b : List Byte) : McastBlk :=
  ⟨blkField b 0 8, blkField b 8 4, blkField b 12 2, blkField b 14 2, blkField b 16 8, optField (blkField b 24 1) 0xFF,
   blkField b 25 1, optField (blkField b 28 4) 0xFFFFFFFF, optField (blkField b 32 4) 0xFFFFFFFF,
   optField (blkField b 36 4) 0xFFFFFFFF⟩
/-- The limits of an MCAST block; where DST lies is each receiver's to judge (R214). -/
def mcastOk (b : List Byte) : Bool :=
  let m := mcastBlk b
  decide (m.src % 64 = 0) && decide (1 ≤ m.lines) && decide (m.lines ≤ 16384) && decide (m.src + 64 * m.lines ≤ lmemSize) &&
  decide (m.group ≤ 255) && decide (m.dst % 64 = 0) && decide (m.dring.getD 0 ≤ 7) && decide (m.fscope ≤ 11) &&
  areaOk m.bobj 16 16 && areaOk m.staddr 16 16 && areaOk m.flag 8 8 && blkZero b 26 2 && blkZero b 40 24
/-- The bits of a mask, as the indices of the set ones. -/
def maskBits (m : Word) : List Nat := (List.range 64).filter (fun i => m.getLsbD i)

/-- MCAST. -/
def execMcast (r : R3) (s : State) : Out :=
  s.ecmd r (fun c x y => do
    let b ← c.blockAt x 0x68
    need (mcastOk b) .access 0x68
    let m := mcastBlk b
    let mem := s.groupOf c.id.lh m.group
    need ((maskBits y).all (fun i => decide (m.wbase + i < mem.length))) .access 0x69
    .ok (.mcast m y ((maskBits y).map (fun i => nth mem (m.wbase + i) 0))))

/-! ### Barrier objects, R216 to R218 -/

/-- The armed slots as the core's open region leaves them: the armed objects, with those that a BOSET of the region arms. -/
def Core.armedView (c : Core) : List Nat :=
  (bufCmds c.sbuf).foldl (fun l cm => match cm with
    | .boset a none => l.filter (· != a)
    | .boset a (some _) => if l.contains a then l else l ++ [a]
    | _ => l) (c.armed.toList.filterMap (fun o => o))

/-- BOSET. -/
def execBoset (r : R3) (s : State) : Out :=
  s.ecmd r (fun c x y => do
    need (decide (x.toNat % 16 = 0)) .misalign x
    need (decide (x.toNat + 16 ≤ lmemSize)) .localrange x
    need (y == 0 || decide (c.armedView.length < 16)) .access 0x52
    .ok (.boset x.toNat (if y = 0 then none else some (y.setWidth 32))))

/-- The receive status, R218. -/
def Core.receiveStatus (c : Core) : Nat :=
  Nat.min c.log.length 0xFFFF * 2 ^ 48 + c.logDrop % 2 ^ 16 * 2 ^ 32 + c.msgDrop % 2 ^ 32

/-- BOQ: a commit point; the snapshot is written, and the next instruction issues 6 cycles later. Its own committed stores to
the lines it reads and writes come first (log entry 22). -/
def execBoq (r : R3) (s : State) : Out :=
  let check (c : Core) : Res (Core × Word × Word) := do
    let (c, x, y) ← c.srcAB r.a r.b r.la r.lb
    need (decide (y.toNat % 16 = 0) && decide (x.toNat % 16 = 0 || x = 1)) .misalign (if decide (y.toNat % 16 = 0) then x else y)
    need (decide (y.toNat + 16 ≤ lmemSize)) .localrange y
    need (decide (x.toNat ≤ 1) || decide (x.toNat + 16 ≤ lmemSize)) .localrange x
    checkHeld c.rings (span y.toNat 16)
    .ok (c, x, y)
  match (do s.core.notInHandler; check s.core : Res (Core × Word × Word)) with
  | .error e => s.run (.error e)
  | .ok _ => s.runCommitted (fun s => do
    let (c, x, y) ← check s.core
    needIdle (!c.draining (y.toNat / 64) && !c.draining (x.toNat / 64))
    c.copyFirst (s.umbra c.id.lh) [y.toNat]
    let v := if x.toNat ≤ 1 then c.receiveStatus else c.mem.num x.toNat 16
    let c1 := if x = 1 then { c with msgDrop := 0, logDrop := 0 } else c
    let c2 := (c1.poke (s.umbra c.id.lh) (cellsAt y.toNat (leBytes 16 v))).setX r.d 0
    let c3 := { c2.advance s.now wordSize with nextIssue := s.now + 6 }
    .ok (s.withCore (c3.openRegion c3.pc)))

/-! ### Tracing, R341 -/

/-- TRC.EMIT. -/
def execTrcEmit (r : R3) (s : State) : Out := s.ecmd r (fun _ x y => .ok (.trcEmit (x.setWidth 15) y))
/-- TRC.CFG. -/
def execTrcCfg (r : R3) (s : State) : Out :=
  s.ecmd r (fun _ x y => do
    let n := bitsOf y.toNat 4 0
    need (decide (x.toNat % 4096 = 0) && decide (x.toNat < 2 ^ 52) && bitsOf y.toNat 7 5 == 0 && decide (y.toNat < 2 ^ 14) &&
      decide (7 ≤ n) && decide (n ≤ 20)) .access 0xF1
    .ok (.trcCfg x y))

end Sys2Proof.Machine
end

