-- ==== Sys2Proof/Machine/Coll.lean ====
section
/-! DEFINITION. The commands of the collective engine as they check and buffer (spec/08_isa_memory_engines.md R219 to R225;
spec/10_prog_allreduce.md R231). -/

namespace Sys2Proof.Machine

/-- The fields of a CAGRP block, R220, with its member list; a DRAIN of 0 means 100,000 ns. -/
def cagrpBlk (c : Core) (b : List Byte) : CagrpBlk :=
  let list := blkField b 8 8
  ⟨blkField b 0 2, (List.range (blkField b 2 2)).map (fun i => c.numAt (list + 2 * i) 2), blkField b 4 2,
   (if blkField b 16 8 = 0 then 100000 else blkField b 16 8), optField (blkField b 24 4) 0xFFFFFFFF⟩
/-- The limits of a CAGRP block. -/
def cagrpOk (b : List Byte) : Bool :=
  let n := blkField b 2 2
  decide (blkField b 0 2 ≤ 1023) && decide (1 ≤ n) && decide (n ≤ 512) && decide (blkField b 4 2 < n) && blkZero b 6 2 &&
  decide (blkField b 8 8 + 2 * n ≤ lmemSize) && areaOk (optField (blkField b 24 4) 0xFFFFFFFF) 16 16 && blkZero b 28 36

/-- CAGRP. -/
def execCagrp (r : R2) (s : State) : Out :=
  s.ecmd1 r (fun c x => do
    let b ← c.blockAt x 0x71
    need (cagrpOk b) .access 0x71
    .ok (.cagrp (cagrpBlk c b)))

/-- The fields of a reduction block, R221. -/
def redBlk (store : Bool) (b : List Byte) : RedBlk :=
  ⟨store, blkField b 0 2, blkField b 2 1, blkField b 3 1, blkField b 4 1, blkField b 8 8, blkField b 16 4,
   bitOf (blkField b 20 4) 0, bitOf (blkField b 20 4) 1, blkField b 24 8, optField (blkField b 32 4) 0xFFFFFFFF,
   optField (blkField b 36 4) 0xFFFFFFFF⟩
/-- The bytes of the source. -/
def RedBlk.srcBytes (r : RedBlk) : Nat := r.elems * fmtBits r.infmt / 8
/-- The bytes of the result. -/
def RedBlk.dstBytes (r : RedBlk) : Nat := r.elems * fmtBits r.outfmt / 8
/-- The chunks of the result, R223. -/
def RedBlk.chunks (r : RedBlk) : Nat := (r.elems * fmtBits r.outfmt + 2047) / 2048
/-- The formats of a reduction. -/
def redFormat (n : Nat) : Bool := n == 20 || n == 21 || n == 23
/-- The limits of a reduction block. -/
def redOk (store : Bool) (b : List Byte) : Bool :=
  let r := redBlk store b
  decide (r.agid ≤ 1023) && decide (r.op ≤ 2) && redFormat r.infmt && redFormat r.outfmt && blkZero b 5 3 &&
  decide (1 ≤ r.elems) && decide (r.elems ≤ 2 ^ 21) && decide (blkField b 20 4 < 4) && blkZero b 40 24 &&
  areaOk r.flag 8 8 && areaOk r.staddr 16 (0x60 + (r.chunks + 7) / 8) &&
  (!r.srcLocal || decide (r.src + r.srcBytes ≤ lmemSize)) && (!r.dstLocal || decide (r.dst + r.dstBytes ≤ lmemSize)) &&
  (if store then !r.dstLocal
   else r.srcLocal != r.dstLocal || decide (r.src + r.srcBytes ≤ r.dst) || decide (r.dst + r.dstBytes ≤ r.src))

/-- Whether an AGID is bound at a member: in its context, or by a CAGRP of the core's own that has not reached its engine yet. -/
def State.agBound (s : State) (c : Core) (agid : Nat) : Bool :=
  (s.ctx c.ctx).agids.any (fun g => g.agid == agid) ||
  (bufCmds (c.committed.map (·.item) ++ c.sbuf)).any (fun cm => match cm with | .cagrp b => b.agid == agid | _ => false)

/-- CLDRED and CSTRED, R221, R231; in an Umbra launch the result may not go to device memory, R359. -/
def State.reduceCmd (s : State) (store : Bool) (r : R2) : Out :=
  s.ecmd1 r (fun c x => do
    let b ← c.blockAt x 0x72
    need (redOk store b && s.agBound c (blkField b 0 2)) .access 0x72
    need (!s.umbra c.id.lh || (redBlk store b).dstLocal) .access 0x75
    .ok (.reduce (redBlk store b)))
/-- CLDRED. -/
def execCldred (r : R2) (s : State) : Out := s.reduceCmd false r
/-- CSTRED. -/
def execCstred (r : R2) (s : State) : Out := s.reduceCmd true r

/-! ### Graphs, R225 -/

/-- A node of a graph from its 128 bytes: its predecessors and its command. -/
def graphNode (b : List Byte) : List Nat × RedBlk :=
  (maskBits (wd (blkField b 8 8)), redBlk (blkField b 0 2 == 2) ((b.drop 64).take 64))
/-- The limits of a node. -/
def nodeOk (i : Nat) (b : List Byte) : Bool :=
  let kind := blkField b 0 2
  (kind == 1 || kind == 2) && blkZero b 2 6 && (graphNode b).1.all (fun j => decide (j < i)) && blkZero b 16 48 &&
  redOk (kind == 2) ((b.drop 64).take 64)

/-- CGRAPH; its nodes name bound address groups, as the commands they hold must (log entry 39). -/
def execCgraph (r : R3) (s : State) : Out :=
  s.ecmd r (fun c x y => do
    need (decide (y.toNat < 16) && decide (x.toNat % 64 = 0) && decide (x.toNat + 16 ≤ lmemSize)) .access 0x73
    let h := c.bytesAt x.toNat 16
    let n := blkField h 0 4
    need (decide (1 ≤ n) && decide (n ≤ 64) && blkZero h 4 12 && decide (x.toNat + 16 + 128 * n ≤ lmemSize)) .access 0x73
    let bs := (List.range n).map (fun i => (i, c.bytesAt (x.toNat + 16 + 128 * i) 128))
    need (bs.all (fun p => nodeOk p.1 p.2 && s.agBound c (graphNode p.2).2.agid)) .access 0x73
    need (!s.umbra c.id.lh || bs.all (fun p => (graphNode p.2).2.dstLocal)) .access 0x75
    .ok (.cgraph y.toNat (bs.map (fun p => graphNode p.2))))

/-- The graph in a slot as the core's own instructions see it. -/
def Core.graphView (c : Core) (slot : Nat) : Option (List (List Nat × RedBlk)) :=
  (bufCmds c.sbuf).foldl (fun g cm => match cm with
    | .cgraph k nodes => if k = slot then some nodes else g
    | _ => g) (alGet c.graphs slot)

/-- CRUN; its result word is checked as a local access is (log entry 39). -/
def execCrun (r : R3) (s : State) : Out :=
  s.ecmd r (fun c x y => do
    match c.graphView x.toNat with
    | none => access 0x74
    | some nodes => do
      need (decide (y.toNat % 8 = 0)) .misalign y
      need (decide (y.toNat + 8 ≤ lmemSize)) .localrange y
      .ok (.crun nodes y.toNat))

/-- CABORT. -/
def execCabort (r : R2) (s : State) : Out := s.ecmd1 r (fun _ x => .ok (.cabort x.toNat))

end Sys2Proof.Machine
end

