-- ==== Sys2Proof/Machine/Control.lean ====
section
/-! DEFINITION. The waits WAITA, WAITSEQ and WAITBO (spec/08_isa_memory_engines.md R202 to R205), TIME (spec/12_isa_flow_sync.md
R267, R268), branches, jumps and loops (R260 to R265), and the region instructions (spec/18_recovery.md R349 to R351, R357). -/

namespace Sys2Proof.Machine

/-! ### Waits -/

/-- A slot of an arm block: address, enable word, value, R203. -/
def armSlot (c : Core) (a i : Nat) : Nat × Nat × Word :=
  (c.numAt (a + 16 * i) 4, c.numAt (a + 16 * i + 4) 4, wd (c.numAt (a + 16 * i + 8) 8))

/-- WAITA, R203. -/
def execWaita (r : R3) (s : State) : Out :=
  s.runWait (fun s => do
    let (c, x, y) ← s.core.srcAB r.a r.b r.la r.lb
    need (decide (x.toNat % 64 = 0)) .misalign x
    need (decide (x.toNat + 64 ≤ lmemSize)) .localrange x
    let slots := (List.range 4).map (fun i => (i, armSlot c x.toNat i))
    let bad (p : Nat × Nat × Nat × Word) : Bool :=
      decide (p.2.2.1 ≥ 2) || (p.2.2.1 == 1 && (p.2.1 % 8 != 0 || decide (p.2.1 + 8 > lmemSize)))
    need (!slots.any bad) .access 0x51
    let on := (slots.filter (fun p => p.2.2.1 == 1)).map (fun p => (p.1, p.2.1, p.2.2.2))
    (s.withCore c).sleep (.arm r.d on y))

/-- WAITSEQ, R204. -/
def execWaitseq (p : EngClass) (r : S1) (s : State) : Out :=
  s.runWait (fun s => do
    let (c, x) ← s.core.srcA r.a r.la
    need (decide (x.toNat ≤ c.issued[clsIx p])) .engine (x ||| (0xFF <<< 56))
    (s.withCore c).sleep (.seq p x.toNat))

/-- WAITBO, R205. -/
def execWaitbo (r : R2) (s : State) : Out :=
  s.runWait (fun s => do
    let (c, x) ← s.core.srcA r.a r.la
    need (c.armed.toList.contains (some x.toNat)) .access 0x54
    (s.withCore c).sleep (.bobj r.d x.toNat))

/-! ### Time, R267 -/

/-- TIME. -/
def execTime (d : XReg) (s : State) : Out := s.runCore (s.core.opD s.now 2 wordSize d (wd s.timeNs))
/-- CYCLE. -/
def execCycle (d : XReg) (s : State) : Out := s.runCore (s.core.opD s.now 2 wordSize d (wd s.core.cycles))
/-- SLEEPU. -/
def execSleepu (r : S1) (s : State) : Out :=
  s.runWait (fun s => do
    let (c, x) ← s.core.srcA r.a r.la
    (s.withCore c).sleep (.sleepu x))
/-- REALIGN; a launch that is not timed traps before anything commits. -/
def execRealign (d : XReg) (s : State) : Out :=
  match (do s.core.notInHandler; need (s.recOf s.core.id.lh).timed .access 0x81 : Res Unit) with
  | .error e => s.run (.error e)
  | .ok () => s.runWait (fun s => s.sleep (.realign d none))

/-! ### Branches and jumps, R260, R261 -/

/-- A branch to a target, taken or not. -/
def Core.branch (c : Core) (now size : Nat) (taken : Bool) (off : Word) : Core :=
  if taken then c.jump now (c.pc + off) else c.advance now size

/-- A branch on two registers. -/
def State.branchAB (s : State) (r : BOp) (f : Word → Word → Bool) : Out :=
  s.runCore (do
    let (c, x, y) ← s.core.srcAB r.a r.b r.la r.lb
    .ok (c.branch s.now wordSize (f x y) (offB r.off)))

/-- BEQ. -/
def execBeq (r : BOp) (s : State) : Out := s.branchAB r (· == ·)
/-- BNE. -/
def execBne (r : BOp) (s : State) : Out := s.branchAB r (· != ·)
/-- BLT. -/
def execBlt (r : BOp) (s : State) : Out := s.branchAB r BitVec.slt
/-- BGE. -/
def execBge (r : BOp) (s : State) : Out := s.branchAB r (fun x y => !x.slt y)
/-- BLTU. -/
def execBltu (r : BOp) (s : State) : Out := s.branchAB r BitVec.ult
/-- BGEU. -/
def execBgeu (r : BOp) (s : State) : Out := s.branchAB r (fun x y => !x.ult y)
/-- C.BEQZ, R41. -/
def execCBeqz (d : XReg) (imm : BitVec 6) (s : State) : Out :=
  s.runCore (do
    let x ← s.core.readX d
    .ok (s.core.branch s.now halfSize (x == 0) (offC imm)))
/-- C.BNEZ, R41. -/
def execCBnez (d : XReg) (imm : BitVec 6) (s : State) : Out :=
  s.runCore (do
    let x ← s.core.readX d
    .ok (s.core.branch s.now halfSize (x != 0) (offC imm)))
/-- JAL. -/
def execJal (r : UOp) (s : State) : Out :=
  s.runCore (.ok ((s.core.writeX s.now 1 r.d (s.core.pc + 4)).jump s.now (s.core.pc + offJ r.imm)))
/-- JALR. The leader of a slaved gang decides the target (R276), so a follower does not trap on its own. -/
def execJalr (r : IOp) (s : State) : Out :=
  s.runCore (do
    let (c, x) ← s.core.srcA r.a r.la
    let t := x + immI r
    need (!t.getLsbD 0 || s.follower c) .misalign t
    .ok ((c.writeX s.now 1 r.d (c.pc + 4)).jump s.now t))

/-! ### Loops, R263, R265 -/

/-- A hardware loop set up, or skipped when its count is 0, R263. `c` is the core after its operands. -/
def Core.loopSetup (c : Core) (now fresh : Nat) (i : Fin 2) (n : Word) (imm : BitVec 11) : Res Core := do
  let a := c.arch
  let start := c.pc + 4
  let stop := c.pc + (zx imm) <<< 1
  need (a.lc[i] == 0) .loopnest c.instrWord
  need (!(i == 0 && a.lc[1] != 0)) .loopnest c.instrWord
  need (!(i == 1 && a.lc[0] != 0 && (decide (start < a.ls[0]) || decide (stop > a.le[0])))) .loopnest c.instrWord
  if n = 0 then
    let long := if 2 ≤ (c.codeAt stop.toNat).length then (nth (c.codeAt stop.toNat) 0 0).getLsbD 0 else Config.absentBit fresh
    .ok { c with pc := stop + (if long then 4 else 2), nextIssue := now + 3, iseq := c.iseq + 1 }
  else
    let c' := c.advance now wordSize
    .ok { c' with arch := { c'.arch with lc := c'.arch.lc.set i n, ls := c'.arch.ls.set i start, le := c'.arch.le.set i stop } }

/-- LOOP.S. -/
def execLoopS (i : Fin 2) (r : S1) (imm : BitVec 11) (s : State) : Out :=
  s.run (do
    s.core.notInHandler
    let (c, x) ← s.core.srcA r.a r.la
    let c' ← c.loopSetup s.now s.fresh i x imm
    .ok (s.tickFresh.withCore c'))
/-- LOOP.SI. -/
def execLoopSi (i : Fin 2) (n : BitVec 5) (imm : BitVec 11) (s : State) : Out :=
  s.run (do
    s.core.notInHandler
    let c' ← s.core.loopSetup s.now s.fresh i (zx n) imm
    .ok (s.tickFresh.withCore c'))
/-- LOOP.X: an active loop is ended, and loop 1 with loop 0, R265. -/
def execLoopX (i : Fin 2) (s : State) : Out :=
  s.runCore (do
    s.core.notInHandler
    let a := s.core.arch
    let lc := if a.lc[i] = 0 then a.lc else if i = 0 then (a.lc.set 0 0).set 1 0 else a.lc.set 1 0
    .ok ({ s.core with arch := { a with lc := lc } }.advance s.now wordSize))

/-! ### Regions, R350, R351, R357 -/

/-- What every marker does first: it is held while a register write is in flight, R46. -/
def State.marker (s : State) : Res Unit := do
  s.core.notInHandler
  needIdle s.core.flights.isEmpty

/-- A marker that commits the region and opens the next one behind itself. -/
def State.openBehind (s : State) (size : Nat) : Res State := do
  s.marker
  s.commitBehind (s.core.advance s.now size)

/-- RGN.OPEN. -/
def execRgnOpen (s : State) : Out := s.run (s.openBehind wordSize)
/-- C.RGN. -/
def execCRgn (s : State) : Out := s.run (s.openBehind halfSize)
/-- RGN.COMMIT: the next instruction is held until the region has drained, also when the region that it opens is re-entered meanwhile. -/
def execRgnCommit (s : State) : Out :=
  s.run (do
    let s' ← s.openBehind wordSize
    if s'.core.drainq.isEmpty then .ok s' else .ok (s'.withCore { s'.core with run := .waiting .drain, drainHold := true }))
/-- RGN.LIMIT. -/
def execRgnLimit (n : BitVec 8) (s : State) : Out :=
  s.runCore (do
    s.core.notInHandler
    .ok ({ s.core with reglim := n.toNat }.advance s.now wordSize))
/-- RGN.ABORT: the region discarded and started again, a re-entry that counts, R354; in a tour-anchored region it traps as
every marker does, R350. Its first instruction issues in the next cycle (log entry 106). -/
def execRgnAbort (s : State) : Out :=
  s.run (do
    s.marker
    need (!s.core.anchored) .access 0xC6
    .ok (s.reenter 3 (s.now + 1) s.core.pc))
/-- The region word of R351. -/
def Core.regionWord (c : Core) : Word :=
  wd (c.regpc.toNat % 2 ^ 32 * 2 ^ 32 + c.regcnt % 256 * 2 ^ 24 + c.reglim % 256 * 2 ^ 16 + linesOf c.sbuf % 256 * 2 ^ 8 +
    cmdsOf c.sbuf % 32)
/-- RGN.QUERY. -/
def execRgnQuery (d : XReg) (s : State) : Out :=
  s.runCore (do
    s.core.notInHandler
    s.core.opD s.now 2 wordSize d s.core.regionWord)

/-- The tours that a core started or has a stop on and that have not ended, R300, R357. -/
def State.toursOf (s : State) (c : Core) : List Tour :=
  s.tours.filter (fun t => !t.ended && t.core.lh == c.id.lh &&
    (t.core.lc == c.id.lc || t.itin.stops.any (fun p => p.1 == c.id.lc)))
/-- Whether a core holds a mutex. -/
def State.holdsMutex (s : State) (c : Core) : Bool :=
  s.evsets.any (fun e => e.ctx == c.ctx && e.mutexes.toList.any (fun m => m.holder == some c.key))
/-- Whether a scan generation is open, R290: a command or an aggregate belongs to the generation that SCN.CLOSE ends. -/
def Core.scanOpen (c : Core) : Bool := c.scan.ran || c.scan.aggSent

/-- Whether a core counts as arrived at its SNAP: it sleeps there and every command it issued has completed, R357. -/
def Core.snapArrived (c : Core) : Bool :=
  (match c.run with | .waiting (.snap _) => true | _ => false) && c.drainq.isEmpty && c.mirror.isEmpty && c.eseq == c.issued
/-- The SNAP barrier of a launch begins to fire once all its cores have arrived, T_gbar after the last, `c`; a launch without
Umbra has no undo lines and snapshots to write (R357). -/
def State.snapCheck (s : State) (c : Core) : State :=
  match s.launch? c.id.lh with
  | none => s
  | some l =>
    let cs := (s.coresOf l.h).filter (fun d => d.snapArrived && !d.id.twin && (match s.other d with
      | some o => o.snapArrived
      | none => true))
    if l.snapFiring || decide (cs.length < l.lrec.grid) then s else
    let far := s.farOf c.pos (cs.map Core.pos)
    let s := s.tickFresh
    let extra := if l.lrec.umbra then Config.snapTime s.fresh else 0
    let s := s.mapCores (fun d => d.id.lh == l.h) (fun d => match d.run with | .waiting (.snap x) => { d with snapD := some x } | _ => d)
    let due := s.now + 28 + 2 * far.1 + 24 * far.2 + extra
    (s.updLaunch l.h (fun l => { l with snapFiring := true })).schedLegs due true (.snapFire l.h)
      (legsOf c.die (s.route c.id.lh c.pos (s.farPos c.pos (cs.map Core.pos))) due)

/-- SNAP, R350, R357. -/
def execSnap (d : XReg) (s : State) : Out :=
  let c := s.core
  let check : Res Unit := do
    s.marker
    need (!c.anchored) .access 0xC6
    if s.umbra c.id.lh then
      need (s.toursOf c).isEmpty .access 0xE4
      need (!c.scanOpen) .access 0xE5
      need (!s.holdsMutex c) .access 0xE6
  match check with
  | .error e => s.run (.error e)
  | .ok () => s.runWait (fun s => do
    let s' ← s.sleep (.snap d)
    .ok (s'.snapCheck s'.core))

end Sys2Proof.Machine
end

