-- ==== Sys2Proof/Machine/Engine.lean ====
section
/-! DEFINITION. What the engines share: the twins of a mirror launch, completions with their flags and status records
(spec/08_isa_memory_engines.md R207, R208, R210), device memory moved page by page (R206, R215, R319), and deliveries into
scratchpads (spec/01_machine.md R15; spec/06_matrix_arithmetic.md R148). -/

namespace Sys2Proof.Machine

/-! ### The cores of a logical core -/

/-- A change of a logical core: of both twins in a mirror launch, R361. -/
def State.pair (s : State) (id : CoreId) (f : Core → Core) : State :=
  s.mapCores (fun c => c.id.lh == id.lh && c.id.lc == id.lc) f
/-- The cores of a logical core: one, or both twins. -/
def State.pairOf (s : State) (id : CoreId) : List Core := s.cores.filter (fun c => c.id.lh == id.lh && c.id.lc == id.lc)
/-- The primary of a logical core. -/
def primOf (id : CoreId) : CoreId := { id with twin := false }
/-- Whether a core of a logical core is vacated: what an engine does to it is kept for its resume, R246. -/
def State.absent (s : State) (id : CoreId) : Bool := (s.pairOf id).any (fun c => c.run == .vacated)
/-- Scratchpad bytes written by an engine: into both twins, R361. -/
def State.pokeAt (s : State) (id : CoreId) (cs : List Host.Cell) : State :=
  let s := if s.absent id && !cs.isEmpty then s.keepAct id (.cells cs) else s
  s.pair id (fun c => c.poke (s.umbra id.lh) cs)
/-- The flags that an engine raises in a core, R96. -/
def State.engFlags (s : State) (id : CoreId) (fl : Flags) : State :=
  let s := if s.absent id && fl != 0 then s.keepAct id (.flags fl) else s
  s.pair id (fun c => c.engineFlags s.now fl)

/-! ### Accesses of the engines to the banks, R14, R15 -/

/-- Whether the bank of a line is taken in this cycle in one of the twins. -/
def State.bankTaken (s : State) (id : CoreId) (a : Nat) : Bool := (s.pairOf id).any (fun c => s.bankBusy c a)
/-- The bank of a line used by a dynamic requester in every twin. -/
def State.useBanks (s : State) (id : CoreId) (a : Nat) : State := (s.pairOf id).foldl (fun s c => s.useBank c.id a) s
/-- The cells of each line that some cells lie in, in the order of the cells. -/
def byLine (cs : List Host.Cell) : List (Nat × List Host.Cell) :=
  (linesTouched (cs.map (·.1))).map (fun l => (64 * l, lineCells l cs))
/-- Reads of some lines. -/
def readLines (as : List Nat) : List (Nat × List Host.Cell) := as.map (fun a => (a, []))
/-- An access of an engine to the scratchpad of a logical core begun: line by line, each in a cycle in which its bank is free. In an Umbra
launch the first write of a 256-byte line is held, R358. -/
def State.access (s : State) (id : CoreId) (lines : List (Nat × List Host.Cell)) (act : AccAct) : State :=
  if lines.isEmpty then s else
  let begin_ (s : State) (at_ : Nat) : State :=
    { s with nextId := s.nextId + 1, accs := s.accs ++ [Access.mk s.nextId (primOf id) lines act] }.sched at_ true (.dynamicLineLanding s.nextId)
  match s.undoHold id.lh (fun c => c.id.lh == id.lh && c.id.lc == id.lc) (lines.flatMap (fun l => l.2.map (fun (x : Host.Cell) => x.1))) with
  | some t => begin_ t (s.now + 4)
  | none => begin_ s s.now
/-- Whether a core's state is held by the package: vacated, or being saved, R344. -/
def Core.gone (c : Core) : Bool := c.run == .saving || c.run == .vacated

/-! ### What an engine reads of a scratchpad to carry elsewhere, R362 -/

/-- CRC-64 of ECMA-182, not reflected, initial value 0, no final XOR, R362. -/
def crc64 (bs : List Byte) : BitVec 64 :=
  let step (c : BitVec 64) : BitVec 64 := if c.getLsbD 63 then (c <<< 1) ^^^ 0x42F0E1EBA9EA3693 else c <<< 1
  bs.foldl (fun c b => (List.range 8).foldl (fun c _ => step c) (c ^^^ (zx b <<< 56))) 0

/-- Whether the twins of a logical core hold the same bytes where an engine reads lines to carry elsewhere; outside a mirror launch there is
one core, R362. -/
def State.readsAgree (s : State) (id : CoreId) (a n : Nat) : Bool :=
  !(s.recOf id.lh).mirror || (match s.pairOf id with
    | [x, y] => crc64 (x.mem.getN a n) == crc64 (y.mem.getN a n)
    | _ => true)
/-- The triage of a pair whose lines differ. -/
def State.readTriage (s : State) (id : CoreId) : State := s.sched s.now true (.mirrorHashMismatch id.lh id.lc)
/-- The cycles by which what leaves a logical core of a mirror launch is later, R362. -/
def State.mirrorWait (s : State) (lh : Nat) : Nat := if (s.recOf lh).mirror then 12 else 0

/-! ### Commands in flight and their completion -/

/-- The commands in flight of a class that keeps them as `Inflight`. -/
def Core.engOf (c : Core) (p : EngClass) : List Inflight :=
  match p with
  | .copy => c.copies
  | .sheaf => c.shfs
  | .coll => c.colls
  | .mma | .scan => []
/-- That list replaced. -/
def Core.setEng (c : Core) (p : EngClass) (l : List Inflight) : Core :=
  match p with
  | .copy => { c with copies := l }
  | .sheaf => { c with shfs := l }
  | .coll => { c with colls := l }
  | .mma | .scan => c
/-- The command in flight of a class and ticket. -/
def Core.cmdOf (c : Core) (p : EngClass) (n : Nat) : Option Inflight := (c.engOf p).find? (fun x => x.ticket == n)
/-- A command in flight of a core. -/
def State.cmdOf (s : State) (id : CoreId) (p : EngClass) (n : Nat) : Option Inflight :=
  (s.core? (primOf id)).bind (fun c => c.cmdOf p n)
/-- A change of a command in flight. -/
def State.updCmd (s : State) (id : CoreId) (p : EngClass) (n : Nat) (f : Inflight → Inflight) : State :=
  s.pair id (fun c => c.setEng p ((c.engOf p).map (fun x => if x.ticket == n then f x else x)))
/-- A command handed to its engine. -/
def State.addCmd (s : State) (id : CoreId) (p : EngClass) (x : Inflight) : State :=
  s.pair id (fun c => c.setEng p (c.engOf p ++ [x]))
/-- A command that has just reached its engine. -/
def inflightOf (ticket at_ base time : Nat) (flag : FlagDst) (cm : Cmd) : Inflight :=
  { ticket := ticket, cmd := cm, at_ := at_, base := base, time := time, due := base, legs := [], till := 0, members := [], me := 0, peers := [], status := 0, flag := flag, staddr := none, mask := 0, gen := 0,
    flags := 0, left := 0, stalled := none, page := 0, data := [], out := [], started := true, done := false, busy := false, since := 0 }

/-- The lines of the status area of a reduction, R223. -/
def areaLines (b : RedBlk) : Nat := (0x60 + (b.chunks + 7) / 8 + 63) / 64
/-- The TIME by which the status area of a reduction is begun to be written before its end: a cycle for each line. -/
def Inflight.lead (x : Inflight) : Nat :=
  match x.cmd, x.staddr, x.done with
  | .reduce b, some _, false => 20000 * areaLines b
  | _, _, _ => 0
/-- Whether a command has nothing left to do from this cycle on, but for its status record. -/
def State.ended (s : State) (x : Inflight) : Bool :=
  x.started && x.left == 0 && !x.busy && decide (x.due ≤ s.now) && decide (x.till ≤ s.timeFine + x.lead) && x.stalled.isNone
/-- Whether the oldest command of a class has nothing left to do but complete: commands complete in issue order, R28. -/
def State.headDone (s : State) (c : Core) (p : EngClass) : Option Nat :=
  match c.cmdOf p (c.eseq[clsIx p] + 1) with
  | some x => if s.ended x then some x.ticket else none
  | none => none

/-- The result word of R207. -/
def resultWord (ticket status : Nat) : Nat := ticket % 2 ^ 56 + status * 2 ^ 56

/-- A piece of device memory within a page: its address, length and offset in the tile. -/
structure Piece where
  va : Nat
  len : Nat
  off : Nat
  deriving DecidableEq, Repr

/-- A run of bytes cut at its 4 KiB pages, by the number of pieces. -/
def splitPages : Nat → Nat → Nat → Nat → List Piece
  | 0, _, _, _ => []
  | n + 1, va, len, off =>
    if len = 0 then [] else
    let k := Nat.min len (4096 - va % 4096)
    ⟨va, k, off⟩ :: splitPages n (va + k) (len - k) (off + k)
/-- The pieces of a run of bytes. -/
def piecesOf (va len off : Nat) : List Piece := splitPages (len / 4096 + 2) va len off

/-- Bytes written into the area that a logical core of an Umbra launch has within its parking area, R356, through the launch's
context (log entry 45). -/
def State.parkWrite (s : State) (id : CoreId) (off : Nat) (bs : List Byte) : State :=
  match s.launch? id.lh with
  | none => s
  | some l => (piecesOf (l.lrec.park + id.lc * (2064 * 1024) + off) bs.length 0).foldl (fun s p =>
      s.ctxWrite l.ctx p.va ((bs.drop p.off).take p.len) id.lc) s

/-- A write of device memory by an engine of a core: held in staging in an Umbra launch, R359, whose area takes the bytes in the
order of issue (log entry 45). -/
def State.engWrite (s : State) (id : CoreId) (w : DevWrite) : State :=
  if s.umbra id.lh then
    let before := ((s.core? (primOf id)).map (fun c => c.staged.foldl (fun n x => if x.loc then n else n + x.bytes.length) 0)).getD 0
    (s.pair id (fun c => { c with staged := c.staged ++ [w] })).parkWrite id (1032 * 1024 + before) (w.bytes.take (2 ^ 20 - before))
  else
  match w.peer with
  | none => s.hbmWrite w.pa w.bytes
  | some p => { s with peerWrites := s.peerWrites ++ [(p, w.pa, w.bytes)] }

/-- A completion flag word written, R207, R213, R221; a word in the scratchpad takes its bank (R15). -/
def State.writeFlag (s : State) (id : CoreId) (fl : FlagDst) (w : Nat) : State :=
  match fl with
  | .none => s
  | .localAt a => s.access id (byLine (cellsAt a (leBytes 8 w))) .none
  | .device pa => s.engWrite id ⟨none, pa, leBytes 8 w, false⟩
  | .peer pkg pa => s.engWrite id ⟨some pkg, pa, leBytes 8 w, false⟩
/-- The flag word of a copy command: that of a COPYOUT of an Umbra launch is written when the epoch closes, also where it lies in the
scratchpad, R359. -/
def State.copyFlagWord (s : State) (id : CoreId) (x : Inflight) : State :=
  let w := resultWord x.ticket x.status
  match x.cmd, x.flag with
  | .copyOut .., .localAt a =>
    if s.umbra id.lh then s.pair id (fun c => { c with staged := c.staged ++ [⟨none, a, leBytes 8 w, true⟩] })
    else s.writeFlag id x.flag w
  | _, _ => s.writeFlag id x.flag w
/-- A command whose flag word lies in the memory of a peer package that refuses it ends with ACCV, R316. -/
def State.flagRefused (s : State) (x : Inflight) : State × Inflight :=
  match x.flag with
  | .peer pkg pa => (s.tickFresh, if Config.peerRefuses pkg pa s.fresh then { x with status := 3, flag := .none } else x)
  | .none | .localAt _ | .device _ => (s, x)

/-- The advance of a class's sequence register at a completion, with its trace record, R28, R341. -/
def State.advanceSeq (s : State) (id : CoreId) (p : EngClass) (ticket status : Nat) : State :=
  let s := s.pair id (fun c => { c with eseq := c.eseq.set (clsIx p) ticket })
  s.trace (primOf id) 2 (0x200 + clsPath p) (wd (resultWord ticket status))

/-- The SNAP barrier looked at again for a core whose last command has completed, R357. -/
def State.snapAgain (s : State) (id : CoreId) : State :=
  match s.core? (primOf id) with
  | some c => if c.snapArrived then s.snapCheck c else s
  | none => s

/-- The completion of a command held while the old contents of the lines that its record and its local flag are the first to write in an
epoch are copied, R358; none when nothing has to be copied. -/
def State.holdRecord (s : State) (id : CoreId) (p : EngClass) (x : Inflight) (record : List Host.Cell) : Option State :=
  let flag := match x.flag, x.cmd with
    | .localAt _, .copyOut .. => []
    | .localAt a, _ => [a]
    | _, _ => []
  (s.undoHold id.lh (fun c => c.id.lh == id.lh && c.id.lc == id.lc) (record.map (·.1) ++ flag)).map (fun s =>
    s.updCmd id p x.ticket (fun y => { y with due := s.now + 4, legs := [] }))

/-- The status record of a command, and what it writes beside it, written line by line before the command completes, R15; none when it is
written, or there is nothing to write. -/
def State.record (s : State) (id : CoreId) (p : EngClass) (x : Inflight) (cells : List Host.Cell) : Option State :=
  match s.holdRecord id p x cells with
  | some s => some s
  | none =>
    if x.done || cells.isEmpty then none
    else some ((s.updCmd id p x.ticket (fun y => { y with busy := true })).access id (byLine cells) (.record p x.ticket))

/-- A completion: the sequence register, then the flag; a failure that nothing else reports waits for the WAITSEQ that reaches it, R207,
R208, R210. `heard` marks a command that has a status record, or one that reports its failure otherwise (SHF.REREAD, R288). -/
def State.complete (s : State) (id : CoreId) (p : EngClass) (x : Inflight) (heard : Bool) : State :=
  let unheard := x.status != 0 && x.flag == .none && !heard
  let (s, x) := s.flagRefused x
  let s := s.advanceSeq id p x.ticket x.status
  let s := s.pair id (fun c => c.setEng p ((c.engOf p).filter (fun y => y.ticket != x.ticket)))
  let s := s.copyFlagWord id x
  let s := if unheard then s.pair id (fun c => { c with failed := c.failed ++ [(p, x.ticket, x.status)] }) else s
  s.snapAgain id

/-! ### Device memory, page by page -/

/-- The factor line of a tile of rows. -/
def factorLine (d : BitVec 256) (rows : Nat) : Nat := 64 * ((rows * dK d * fmtBits (dFmt d) + 511) / 512)
/-- The pieces of a tile in device memory: its rows packed one after another, and its factor bytes where they lie there, R133,
R210. -/
def tilePlan (d : BitVec 256) (cblk : Nat) (rows : List Nat) : List Piece :=
  let at_ := (List.range rows.length).map (fun i => (i, nth rows i 0))
  at_.flatMap (fun p => piecesOf (rowAddr d cblk p.2) (rowBytes d) (p.1 * rowBytes d)) ++
  (if fmtFactor (dFmt d) && !dSlocal d then
     at_.flatMap (fun p => piecesOf (factorAddr d cblk p.2) 1 (factorLine d rows.length + p.1))
   else [])
/-- The factor bytes of a tile that lie in the scratchpad: local address and offset in the tile, R150. -/
def tileLocal (d : BitVec 256) (cblk : Nat) (rows : List Nat) : List (Nat × Nat) :=
  if fmtFactor (dFmt d) && dSlocal d then
    (List.range rows.length).map (fun i => (factorAddr d cblk (nth rows i 0), factorLine d rows.length + i))
  else []

/-- The rows that a tensor word names. -/
def twList (xa : Word) : List Nat := (List.range (twRows xa)).map (twRow xa + ·)

/-- The 256-byte granules of a piece at a physical address, R388. -/
def granules (pa len : Nat) : List Nat :=
  ((List.range (len / 256 + 2)).map (fun i => pa / 256 * 256 + 256 * i)).filter (fun g => decide (g < pa + len))

/-- What moving the pieces of a command has done: how many are translated, the bytes read, the writes collected, the longest
walk, the granules touched, the peers reached, and what ended it. -/
structure Moved where
  page : Nat
  data : List Byte
  out : List DevWrite
  walk : Nat
  pas : List Nat
  peers : Bool
  fault : Option (Nat × FKind)
  refused : Bool
  deriving DecidableEq, Repr

/-- The pieces of a plan moved in order, each translated; a read appends its bytes, a write takes those of the tile at its
offset. It ends at the first fault or refusal. A poisoned line that is read reaches the context, R322. -/
def State.move (s : State) (c : Core) (wr : Bool) (tile : List Byte) : List Piece → Moved → State × Moved
  | [], m => (s, m)
  | p :: t, m =>
    match s.translate c p.va wr with
    | (s, .error k) => (s, { m with fault := some (p.va, k) })
    | (s, .ok x) =>
      let m1 := { m with
        page := m.page + 1
        walk := Nat.max m.walk x.walk
        pas := if x.peer.isNone then m.pas ++ granules x.pa p.len else m.pas
        peers := m.peers || x.peer.isSome }
      let refused := match x.peer with | some pkg => Config.peerRefuses pkg x.pa s.fresh | none => false
      if refused then (s, { m1 with refused := true }) else
      let s := s.consume c.ctx (if wr || x.peer.isSome then none else s.poisonIn x.pa p.len)
      let m2 := if wr then { m1 with out := m1.out ++ [DevWrite.mk x.peer x.pa ((tile.drop p.off).take p.len) false] }
        else { m1 with data := m1.data ++ (match x.peer with
          | some pkg => peerBytes pkg x.pa p.len s.fresh
          | none => s.hbm.getN x.pa p.len) }
      s.move c wr tile t m2

/-- The ordering kind of the page of an address, 2 for SO and 1 for RC, R162. -/
def State.ordAt (s : State) (ctx va : Nat) (wr : Bool) : Nat :=
  match s.walkVa ctx va wr with
  | .ok pte => pteOrd pte
  | .error _ => 0
/-- The strongest kind of the pages of a plan, under which all of it is performed, R163. -/
def State.planKind (s : State) (ctx : Nat) (wr : Bool) (ps : List Piece) : Nat := (ps.map (fun p => s.ordAt ctx p.va wr)).foldl Nat.max 0

/-- T_copy of lines to or from the channels touched, R215; a peer adds a time of its own. -/
def State.copyTime (s : State) (c : Core) (m : Moved) (lines : Nat) : Nat :=
  let far := s.farthest (s.partOf c.ctx) m.pas c.pos
  120 + m.walk + lines + 2 * far.1 + 24 * far.2 + (if m.peers then Config.peerTime s.fresh else 0)

/-- The parts of the time of a write to the channels touched that ends at a cycle, R386. -/
def State.outLegs (s : State) (c : Core) (m : Moved) (due : Nat) : List Leg :=
  let port := s.farPort (s.partOf c.ctx) m.pas c.pos
  legsOf c.die (if m.pas.isEmpty then [] else s.route c.id.lh c.pos port ++ [(dieOf port.1 port.2, 1)]) due

/-- The bytes of a tile put together from what the pieces of a plan read, with the scratchpad's factor bytes, over a filling. -/
def assemble (fill : List Byte) (plan : List Piece) (data : List Byte) (loc : List (Nat × Byte)) : List Byte :=
  let put (l : List Byte) (off : Nat) (bs : List Byte) : List Byte := l.take off ++ bs ++ l.drop (off + bs.length)
  let r := plan.foldl (fun (acc : List Byte × List Byte) p => (put acc.1 p.off (acc.2.take p.len), acc.2.drop p.len)) (fill, data)
  loc.foldl (fun l p => put l p.1 [p.2]) r.1
/-- The lines of a tile. -/
def linesFrom (bytes : List Byte) : List (List Byte) := pieces 64 ((bytes.length + 63) / 64) bytes

/-- A fault of a command on a later page: it stalls, R319; what it has written stands. -/
def State.stall (s : State) (id : CoreId) (p : EngClass) (ticket : Nat) (va : Nat) (k : FKind) (wr : Bool) : State :=
  match s.core? (primOf id) with
  | none => s
  | some c =>
    let (s, n) := s.fault c.ctx va k.code wr (clsPath p) false ⟨(primOf id), some (p, ticket)⟩ 0
    s.updCmd id p ticket (fun x => { x with stalled := some n, started := false })

/-! ### Deliveries, R15, R148 -/

/-- A delivery begun to be sent into a logical core over a route: its last line is due at a cycle, the lines before it one a cycle.
The terms of its time beside the route count on the die `home` (R386). -/
def State.deliver (s : State) (id : CoreId) (ring : Option Nat) (addr : Nat) (lines : List (List Byte)) (home : Nat)
    (route : List (Nat × Nat)) (ready : Nat) (act : DoneAct) : State :=
  let n := s.nextId
  let at_ := Nat.max (s.now + 1) ready
  let first := Nat.max s.now (at_ + 1 - lines.length)
  let s := { s with
    nextId := n + 1
    delivs := s.delivs ++ [Delivery.mk n (primOf id) ring addr lines.length lines false at_ false act] }
  s.schedLegs first true (.dynamicLineLanding n)
    (legsOf home route first)

/-- The lines that the deliveries begun before one into the same ring take there. -/
def State.linesAhead (s : State) (d : Delivery) : Nat :=
  ((s.delivs.takeWhile (fun e => e.id != d.id)).filter (fun e => e.begun && e.core == d.core && e.ring == d.ring)).foldl
    (fun n e => n + e.total) 0
/-- The lines of a ring that deliveries begun have not committed. -/
def State.linesBegun (s : State) (id : CoreId) (ring : Nat) : Nat :=
  (s.delivs.filter (fun e => e.begun && e.core == id && e.ring == some ring)).foldl (fun n e => n + e.total) 0
/-- A change of a delivery. -/
def State.updDeliv (s : State) (n : Nat) (f : Delivery → Delivery) : State :=
  { s with delivs := s.delivs.map (fun d => if d.id == n then f d else d) }

/-- Whether the open region of a core holds a RINGPUSH of a ring, which feeds the ring until it commits, R148. -/
def Core.pushing (c : Core) (ring : Nat) : Bool :=
  c.sbuf.any (fun b => match b with | .ring n (.push k) => n == ring && k != 0 | _ => false)
/-- Whether a ring of a core has room for a tile behind the deliveries begun, and is not fed by the core, R148. -/
def State.hasRoom (s : State) (c : Core) (ring total : Nat) : Bool :=
  let r := ringAt c.erings ring
  decide (r.held + s.linesBegun (primOf c.id) ring + total ≤ r.size) && !(s.pairOf c.id).any (fun d => d.pushing ring)
/-- The local address of the next line of a delivery. -/
def State.landAddr (s : State) (c : Core) (d : Delivery) : Nat :=
  let k := d.total - d.lines.length
  match d.ring with
  | some n =>
    let r := ringAt c.erings n
    r.lineAt (r.held + s.linesAhead d + k)
  | none => d.addr + 64 * k

/-- A delivery begins to append at the tail: it takes its place behind those begun before it. -/
def State.beginDeliv (s : State) (d : Delivery) : State :=
  let s := { s with delivs := s.delivs.filter (fun e => e.id != d.id) ++ [{ d with begun := true }] }
  match d.ring with
  | some n => s.pair d.core (fun c => c.engRing n (fun r => { r with deliv := r.deliv + 1 }))
  | none => s

/-- A ring delivery committed: the tail advances by its whole tile, R148. -/
def State.commitDeliv (s : State) (d : Delivery) : State :=
  match d.ring with
  | some n => s.pair d.core (fun c => (c.engRing n (fun r =>
      { r with deliv := r.deliv - 1, appended := r.appended - d.total, held := r.held + d.total })).tailed s.now n d.total)
  | none => s

end Sys2Proof.Machine
end

