-- ==== Sys2Proof/Machine/CopyEngine.lean ====
section
/-! DEFINITION. The copy engine at work: COPYIN, COPYOUT, GATHER, COPYLOC and MCAST from their start to their completion, and a
multicast's count in a barrier object (spec/08_isa_memory_engines.md R207 to R216; spec/18_recovery.md R359). -/

namespace Sys2Proof.Machine

/-- A copy between device memory and a scratchpad: its words, descriptor, rows and direction. -/
structure CopyJob where
  xa : Word
  xb : Word
  desc : BitVec 256
  rows : List Nat
  out : Bool
  deriving DecidableEq, Repr

/-- The copy that a command names. -/
def copyJob : Cmd → Option CopyJob
  | .copyIn xa xb d _ => some ⟨xa, xb, d, twList xa, false⟩
  | .copyOut xa xb d _ => some ⟨xa, xb, d, twList xa, true⟩
  | .gather xa xb d _ rows => some ⟨xa, xb, d, rows, false⟩
  | _ => none

/-- The bytes behind a copied tile's data, which no rule gives (log entry 40). -/
def padBytes (n fresh : Nat) : List Byte := (List.range n).map (fun i => Config.padByte fresh i)
/-- The bytes of a list of writes. -/
def outBytes (l : List DevWrite) : Nat := l.foldl (fun n w => n + w.bytes.length) 0
/-- Writes performed in order. -/
def State.flush (s : State) (id : CoreId) (l : List DevWrite) : State := l.foldl (fun s w => s.engWrite id w) s
/-- Bytes of the epoch's staging taken by a core, R359. -/
def State.reserve (s : State) (id : CoreId) (n : Nat) : State := s.pair id (fun c => { c with stagedBytes := c.stagedBytes + n })

/-- The lines of the scratchpad that hold the factor bytes which a copy into the scratchpad reads there, R150. -/
def CopyJob.factorLines (j : CopyJob) : List Nat :=
  (linesTouched ((tileLocal j.desc (twCblk j.xa) j.rows).map (·.1))).map (64 * ·)
/-- The lines that a copy reads from the scratchpad: its source, or the factor bytes. -/
def CopyJob.reads (j : CopyJob) : List Nat :=
  if j.out then lineSpan (lwLaddr j.xb) (copyLines j.xa j.desc) else j.factorLines
/-- Whether the twins hold the same bytes in some lines that an engine reads, R362. -/
def State.linesAgree (s : State) (id : CoreId) (as : List Nat) : Bool := as.all (fun a => s.readsAgree id a 64)

/-- Whether a run of lines touches a held span of a core, as its engines see it. -/
def Core.touchesHeld (c : Core) (a lines : Nat) : Bool := (lineSpan a lines).any (fun x => (heldBy c.erings x).isSome)

/-- A copy carried on from the pieces already moved; `base` is the cycle its time is counted from. In an Umbra launch it stages its data all
at once or not at all, R359. -/
def State.goCopy (s : State) (id : CoreId) (ticket base : Nat) : State :=
  match s.core? (primOf id), s.cmdOf id .copy ticket with
  | some c, some x =>
    match copyJob x.cmd with
    | none => s
    | some j =>
      let plan := tilePlan j.desc (twCblk j.xa) j.rows
      let lines := copyLines j.xa j.desc
      let m0 : Moved := ⟨x.page, if j.out then [] else x.data, x.out, 0, [], false, none, false⟩
      let (s, m) := s.move c j.out x.data (plan.drop x.page) m0
      let keep (y : Inflight) : Inflight :=
        { y with page := m.page, data := if j.out then y.data else m.data, out := m.out, started := true }
      let s := s.updCmd id .copy ticket keep
      match m.fault with
      | some (va, k) =>
        if s.umbra id.lh then s.stall id .copy ticket va k j.out else
        ((s.flush id m.out).updCmd id .copy ticket (fun y => { y with out := [] })).stall id .copy ticket va k j.out
      | none =>
        let due := base + s.copyTime c m lines + (if j.out then s.mirrorWait id.lh else 0)
        if m.refused then s.updCmd id .copy ticket (fun y => { y with status := 3, due := due, legs := s.outLegs c m due })
        else if j.out then
          let n := outBytes m.out
          if s.umbra id.lh && decide (c.stagedBytes + n > 2 ^ 20) then
            s.updCmd id .copy ticket (fun y => { y with status := 6, due := due, legs := s.outLegs c m due, out := [] })
          else (s.updCmd id .copy ticket (fun y => { y with due := due, legs := s.outLegs c m due })).reserve id n
        else
          let loc := (tileLocal j.desc (twCblk j.xa) j.rows).map (fun p => (p.2, c.mem.get p.1))
          let bytes := assemble (padBytes (64 * lines) s.fresh) plan m.data loc
          let s := s.updCmd id .copy ticket (fun y => { y with left := 1 })
          s.deliver id (if lwToring j.xb then some (lwRing j.xb) else none) (lwLaddr j.xb) (linesFrom bytes) c.die
            (s.portRoute id.lh (s.partOf c.ctx) m.pas c.pos) due (.cmd (primOf id) .copy ticket)
  | _, _ => s

/-- The lines of the scratchpad that a copy command reads. -/
def readsOf : Cmd → List Nat
  | .copyLoc src xb => lineSpan src (clLines xb)
  | .mcast b _ _ => lineSpan b.src b.lines
  | cm => match copyJob cm with | some j => j.reads | none => []
/-- The read of a command's source begun, which takes a bank for each line (R14, R15): what it reads is what the source holds now. A read of
the twins' scratchpads that differs is tried again when their triage is over, R362. -/
def State.readSource (s : State) (id : CoreId) (x : Inflight) (keep : List Byte) : State :=
  let reads := readsOf x.cmd
  if !s.linesAgree id reads then (s.updCmd id .copy x.ticket (fun y => { y with started := false })).readTriage id
  else (s.updCmd id .copy x.ticket (fun y => { y with busy := true, gen := s.now, data := keep })).access id (readLines reads) (.read x.ticket)

/-- Whether the destination of a copy overlaps a held span when it starts, R207: its lines in the scratchpad, or the factor bytes that a
COPYOUT writes there. -/
def CopyJob.heldDst (j : CopyJob) (c : Core) : Bool :=
  if j.out then j.factorLines.any (fun a => c.touchesHeld a 1)
  else !lwToring j.xb && c.touchesHeld (lwLaddr j.xb) (copyLines j.xa j.desc)
/-- A copy between device memory and a scratchpad started, its time counted from `base`; one whose destination is held at its start
writes nothing. -/
def State.startCopy (s : State) (id : CoreId) (x : Inflight) (j : CopyJob) (base : Nat) : State :=
  match s.core? (primOf id) with
  | none => s
  | some c =>
    if j.heldDst c then
      s.updCmd id .copy x.ticket (fun y => { y with status := 2, due := base + 120 + copyLines j.xa j.desc })
    else if j.reads.isEmpty then s.goCopy id x.ticket base
    else s.readSource id x (if j.out then c.mem.getN (lwLaddr j.xb) (64 * copyLines j.xa j.desc) else [])

/-- COPYLOC started: the destination becomes what the source holds now, R212. -/
def State.startCopyLoc (s : State) (id : CoreId) (x : Inflight) (src : Nat) (xb : Word) (base : Nat) : State :=
  match s.core? (primOf id) with
  | none => s
  | some c =>
    let n := clLines xb
    if !lwToring xb && c.touchesHeld (lwLaddr xb) n then
      s.updCmd id .copy x.ticket (fun y => { y with status := 2, due := base + 8 + 2 * n })
    else s.readSource id x (c.mem.getN src (64 * n))
/-- COPYLOC's source read: its lines go to the destination, the last T_loc after its start, R215. -/
def State.goCopyLoc (s : State) (id : CoreId) (x : Inflight) (xb : Word) (base : Nat) : State :=
  match s.core? (primOf id) with
  | none => s
  | some c =>
    s.deliver id (if lwToring xb then some (lwRing xb) else none) (lwLaddr xb) (linesFrom x.data) c.die [] (base + 8 + 2 * clLines xb)
      (.cmd (primOf id) .copy x.ticket)

/-- MCAST's source read: the tile is sent to every receiver, R214, R215. -/
def State.goMcast (s : State) (id : CoreId) (x : Inflight) (b : McastBlk) (mask : Word) (members : List Nat) (base : Nat) : State :=
  match s.core? (primOf id) with
  | none => s
  | some c =>
    let base := base + s.mirrorWait id.lh
    let lines := linesFrom x.data
    let time (m : Nat) : Nat :=
      let p := s.posOf id.lh m
      base + 20 + b.lines + 2 * s.hops c.pos p + 24 * crossings c.pos p
    let far := s.farOf c.pos (members.map (s.posOf id.lh))
    let due := base + 20 + b.lines + 2 * far.1 + 24 * far.2
    let s := s.updCmd id .copy x.ticket (fun y => { y with
      left := members.length, due := due, staddr := b.staddr
      legs := legsOf c.die (s.route id.lh c.pos (s.farPos c.pos (members.map (s.posOf id.lh)))) due })
    ((maskBits mask).zip members).foldl (fun s p =>
      s.deliver ⟨id.lh, p.2, false⟩ b.dring b.dst lines c.die (s.route id.lh c.pos (s.posOf id.lh p.2)) (time p.2) (.mcast (primOf id) x.ticket p.1 b.bobj)) s

/-- A copy command whose source has been read: its time counts from its start, later by the cycles that its lines have waited for their
banks, R15, R215. -/
def State.sourceRead (s : State) (id : CoreId) (ticket : Nat) : State :=
  match s.cmdOf id .copy ticket with
  | none => s
  | some x =>
    let base := x.due + (s.now + 1 - (x.gen + (readsOf x.cmd).length))
    let s := s.updCmd id .copy ticket (fun y => { y with busy := false, left := 1 })
    match x.cmd with
    | .mcast b mask members => s.goMcast id x b mask members base
    | .copyLoc _ xb => s.goCopyLoc id x xb base
    | _ => (s.updCmd id .copy ticket (fun y => { y with left := 0 })).goCopy id ticket base

/-- A copy-class command started. A core's commands start in issue order, each once the one before it has completed, so that its
accesses keep the order of R162 on pages of every kind (log entry 43). -/
def State.beginCopy (s : State) (id : CoreId) (ticket base : Nat) : State :=
  match s.cmdOf id .copy ticket with
  | none => s
  | some x =>
    let s := s.updCmd id .copy ticket (fun y => { y with started := true, due := base, legs := [] })
    match x.cmd with
    | .mcast b _ _ => (match s.core? (primOf id) with
      | some c => s.readSource id x (c.mem.getN b.src (64 * b.lines))
      | none => s)
    | .copyLoc src xb => s.startCopyLoc id x src xb base
    | cm => match copyJob cm with
      | some j => s.startCopy id x j base
      | none => s
/-- A copy-class command handed to the engine: it starts at once when no other is in course. -/
def State.queueCopy (s : State) (id : CoreId) (x : Inflight) : State :=
  let idle := ((s.core? (primOf id)).map (fun c => c.copies.isEmpty)).getD false
  let s := s.addCmd id .copy { x with started := false }
  if idle then s.beginCopy id x.ticket x.base else s
/-- The next command of a core started once one has completed. -/
def State.nextCopy (s : State) (id : CoreId) : State :=
  match (s.core? (primOf id)).bind (fun c => c.copies.head?) with
  | some x => s.beginCopy id x.ticket s.now
  | none => s

/-- A barrier object's count at a receiver: bytes arrived, or POISON and PARTIAL for a delivery that faulted, R214, R216. -/
def State.countObj (s : State) (id : CoreId) (a : Nat) (bytes : Option Nat) : State :=
  s.pair id (fun c =>
    let expect := c.mem.num a 4
    let arrived := c.mem.num (a + 4) 4
    let bstat := c.mem.num (a + 10) 2
    let cells := match bytes with
      | some n =>
        let v := (arrived + n) % 2 ^ 32
        cellsAt (a + 4) (leBytes 4 v) ++ cellsAt (a + 10) (leBytes 2 (if expect < v then bstat ||| 4 else bstat))
      | none => cellsAt (a + 10) (leBytes 2 (bstat ||| 3))
    c.poke (s.umbra id.lh) cells)

/-- MCAST_DELIVERY: a receiver has its tile, or has faulted; its object counts, in a cycle in which its bank is free (R15), and the sender's
command learns of it. In an Umbra launch the first write of a 256-byte line is held, R358. -/
def execMcastDelivery (id : Nat) (s : State) : Out :=
  .next (match s.delivs.find? (fun d => d.id == id) with
  | none => s
  | some d =>
    match d.act with
    | .mcast sender ticket bit bobj =>
      if bobj.any (s.bankTaken d.core) then s.sched (s.now + 1) true (.mcastDelivery id) else
      match s.undoHold d.core.lh (fun c => c.id.lh == d.core.lh && c.id.lc == d.core.lc) bobj.toList with
      | some s => s.sched (s.now + 4) true (.mcastDelivery id)
      | none =>
      let s := { s with delivs := s.delivs.filter (fun e => e.id != id) }
      let s := match bobj with
        | some a => (s.countObj d.core a (if d.failed then none else some (64 * d.total))).useBanks d.core a
        | none => s
      s.updCmd sender .copy ticket (fun x => { x with
        left := x.left - 1
        due := Nat.max x.due s.now
        status := if d.failed then 1 else x.status
        mask := if d.failed then x.mask ||| 2 ^ bit else x.mask })
    | _ => s)

/-- COPY_COMPLETION: the oldest copy command has nothing left to do: its status record and factor bytes are written into the scratchpad, its
other writes are performed, ESEQ[2] advances, its flag follows, and the next command starts. -/
def execCopyCompletion (c : CoreId) (ticket : Nat) (s : State) : Out :=
  .next (match s.cmdOf c .copy ticket with
  | none => s
  | some x =>
    let factors := match copyJob x.cmd with
      | some j =>
        if j.out && x.status == 0 then (tileLocal j.desc (twCblk j.xa) j.rows).map (fun (p : Nat × Nat) => (p.1, nth x.data p.2 0)) else []
      | none => []
    let record := match x.staddr with
      | some a => cellsAt a (leBytes 8 (resultWord x.ticket x.status) ++ leBytes 8 x.mask)
      | none => []
    match s.record c .copy x (record ++ factors) with
    | some s => s
    | none => ((s.flush c x.out).complete c .copy x (x.staddr.isSome)).nextCopy c)

end Sys2Proof.Machine
end

