-- ==== Sys2Proof/Machine/SheafEngine.lean ====
section
/-! DEFINITION. The sheaf engine at work: tours from their one read to their end, forwarding, gleaning, the parking area, and
the release of a stop (spec/11_progress.md R252 to R254; spec/12_isa_flow_sync.md R283 to R288; spec/13_prog_sheaf_tour.md R295
to R299). -/

namespace Sys2Proof.Machine

/-! ### Tours -/

/-- A change of a tour. -/
def State.updTour (s : State) (n : Nat) (f : Tour → Tour) : State :=
  { s with tours := s.tours.map (fun t => if t.id == n then f t else t) }
/-- The lines of the tile. -/
def Tour.lines (t : Tour) : Nat := copyLines t.tw t.desc
/-- The last stop. -/
def Tour.last (t : Tour) : Nat := t.itin.stops.length - 1
/-- The logical core of a stop. -/
def Tour.coreAt (t : Tour) (i : Nat) : CoreId := ⟨t.core.lh, (nth t.itin.stops i (0, 0)).1, false⟩
/-- The ring of a stop. -/
def Tour.ringOf (t : Tour) (i : Nat) : Nat := (nth t.itin.stops i (0, 0)).2
/-- The state of a stop. -/
def Tour.stopAt (t : Tour) (i : Nat) : TourStop := nth t.stops i .missed
/-- The arrival at a stop whose lines the stop still holds. -/
def Tour.arrivedAt (t : Tour) (i : Nat) : Option Nat := nth t.arrived i none
/-- Whether a stop's tile has been forwarded. -/
def Tour.sentOn (t : Tour) (i : Nat) : Bool := nth t.forwarded i false
/-- Whether a stop is DEFERRED. -/
def Tour.deferred (t : Tour) : Bool := t.stops.contains .deferred
/-- Whether every stop is served or MISSED. -/
def Tour.settled (t : Tour) : Bool := t.stops.all (fun x => x == .served || x == .missed)
/-- The exposed position of a stop's core. -/
def State.stopPos (s : State) (t : Tour) (i : Nat) : Nat × Nat := s.posOf t.core.lh (t.coreAt i).lc
/-- Whether the core of a stop is resident. -/
def State.stopHere (s : State) (t : Tour) (i : Nat) : Bool :=
  match s.core? (t.coreAt i) with
  | some c => s.isResident c
  | none => false

/-- The end of a tour, once every stop is served or MISSED: the reading core learns of it T_msg later, R295. -/
def State.tourCheck (s : State) (n : Nat) (pos : Nat × Nat) : State :=
  match s.tour? n with
  | none => s
  | some t =>
    if t.ended || !t.settled then s else
    let due := s.now + s.tMsg pos (s.posOf t.core.lh t.core.lc)
    (s.updTour n (fun t => { t with ended := true, slot := none })).schedLegs due false (.tourEnd n)
      (legsOf (dieOf pos.1 pos.2) (s.route t.core.lh pos (s.posOf t.core.lh t.core.lc)) due)

/-! ### Stop records and ring lines -/

/-- A stop record put behind the others of its core. -/
def State.addStop (s : State) (id : CoreId) (r : StopRec) : State := s.pair id (fun c => { c with stops := c.stops ++ [r] })
/-- A change of a stop record of a core, and of its twin. -/
def State.updStopRec (s : State) (id : CoreId) (tour stop : Nat) (f : StopRec → StopRec) : State :=
  s.pair id (fun c => c.updStop tour stop f)

/-- The lines of a stop's tile popped, but for those that a matrix command has claimed; lines behind claimed ones go with
them, R285 (log entry 38). -/
def Core.popTile (c : Core) (r : StopRec) : Core :=
  c.engRing r.ring (fun o =>
    let off := (r.addr / 64 + 2 * o.size - o.base / 64 - o.head) % o.size
    let n := r.lines - Nat.min r.lines (o.claimed - off)
    let o := { o with stops := o.stops - r.lines }
    if o.claimed = 0 then o.pop n
    else if n = 0 then o
    else { o with gapAt := Nat.max o.gapAt o.claimed, gap := o.gap + n })
/-- Lines popped by a matrix completion, and those released behind them. -/
def Ring.popClaim (r : Ring) (n : Nat) : Ring :=
  let o := { r.pop n with claimed := r.claimed - n, gapAt := r.gapAt - n }
  if o.gapAt = 0 && o.gap != 0 then { o.pop o.gap with gap := 0 } else o

/-- The stop record of a core's ring without the record of a tour's stop. -/
def Core.dropStop (c : Core) (tour stop : Nat) : Core :=
  { c with stops := c.stops.filter (fun r => !(r.tour == tour && r.stop == stop)) }
/-- A record of a core. -/
def Core.stopOf (c : Core) (tour stop : Nat) : Option StopRec := c.stops.find? (fun r => r.tour == tour && r.stop == stop)

/-- The lines of a released stop popped and its record dropped. -/
def State.popStop (s : State) (id : CoreId) (tour stop : Nat) : State :=
  s.pair id (fun c => match c.stopOf tour stop with
    | some r => if r.st == .released then (c.popTile r).dropStop tour stop else c
    | none => c)

/-- The last stop's lines released, once its SHF.REL has left them to gleaning, R254, R299. -/
def State.releaseLast (s : State) (n : Nat) : State :=
  match s.tour? n with
  | some t => s.popStop (t.coreAt t.last) n t.last
  | none => s

/-- The addresses of the lines of a record, one after another in its ring. -/
def Core.recLines (c : Core) (r : StopRec) : List Nat :=
  let o := ringAt c.erings r.ring
  let off := (r.addr / 64 + 2 * o.size - o.base / 64 - o.head) % o.size
  (List.range r.lines).map (fun k => o.lineAt (off + k))
/-- Whether the rings of a mirror pair hold the same tile at a stop, R362. -/
def State.stopAgrees (s : State) (t : Tour) (i : Nat) : Bool :=
  !(s.recOf t.core.lh).mirror || (match s.pairOf (t.coreAt i) with
    | [x, y] => (match x.stopOf t.id i, y.stopOf t.id i with
      | some p, some q => crc64 ((x.recLines p).flatMap (fun a => x.mem.getN a 64)) == crc64 ((y.recLines q).flatMap (fun a => y.mem.getN a 64))
      | _, _ => true)
    | _ => true)

/-- The lines of the tile that a stop holds in its ring. -/
def State.stopLines (s : State) (t : Tour) (i : Nat) : List Nat :=
  match s.core? (t.coreAt i) with
  | some c => ((c.stopOf t.id i).map c.recLines).getD []
  | none => []
/-- The SHF.REL that forwards a stop's tile, while it waits for the read of its lines. -/
def State.relOf (s : State) (t : Tour) (i : Nat) : Option Inflight :=
  match s.core? (t.coreAt i) with
  | some c => c.shfs.find? (fun x => (match x.cmd with | .shfRel _ => true | _ => false) && x.busy && x.gen == t.id && x.mask == i)
  | none => none
/-- The lines of a stop read to be sent on, one a cycle, R14, R285. -/
def State.readStop (s : State) (t : Tour) (i : Nat) : State :=
  s.access (t.coreAt i) (readLines (s.stopLines t i)) (match s.relOf t i with | some x => .forward x.ticket | none => .none)

/-! ### Gleaning and the parking area -/

/-- The device virtual address of a tour's parking slot. -/
def State.parkVa (s : State) (t : Tour) : Nat := (s.recOf t.core.lh).park + t.slot.getD 0

/-- A fault of the parking area, R254: it waits as a later page of the SHF.READ. -/
def State.parkStall (s : State) (t : Tour) (va : Nat) (k : FKind) (wr : Bool) : State :=
  match s.core? t.core with
  | none => s
  | some c =>
    let (s, q) := s.fault c.ctx va k.code wr (clsPath .sheaf) false ⟨t.core, some (.sheaf, t.ticket)⟩ 0
    s.updTour t.id (fun t => { t with parkFault := some q })

/-- A parking access that cannot be serviced, or is refused by a peer: every stop still DEFERRED becomes MISSED, the last stop's lines are popped, and the
tour ends, R254, with the status of R320. -/
def State.parkDeny (s : State) (n : Nat) : State :=
  match s.tour? n with
  | none => s
  | some t =>
    let s := (List.range t.stops.length).foldl (fun s i =>
      if t.stopAt i == .deferred then s.updStopRec (t.coreAt i) n i (fun r => { r with st := .ready 3, addr := 0 }) else s) s
    let s := { s with delivs := s.delivs.filter (fun d => match d.act with | .tour m _ o => !(m == n && o != 0) | _ => true) }
    let s := s.updTour n (fun t => { t with
      stops := t.stops.map (fun x => if x == .deferred then .missed else x)
      parkFault := none, gleanAt := none, parking := false, status := 3 })
    (s.releaseLast n).tourCheck n (s.stopPos t t.last)

/-- The cycle from which a stop is gleaned: a core that has just been dispatched is served from its first instruction on, R295. -/
def State.gleanFrom (s : State) (id : CoreId) : Nat := Nat.max s.now (((s.core? id).map (fun c => c.firstAt)).getD 0)
/-- The gleaning of one DEFERRED stop whose core is resident, R254, R295: from the last stop's ring, or from the parked copy, whose read is
carried on from the page that has faulted (R319). -/
def State.gleanTo (s : State) (n i : Nat) : State :=
  match s.tour? n with
  | none => s
  | some t =>
    let first := match t.gleanAt with | some r => r.1 == i || !s.stopHere t r.1 | none => true
    if !t.gleaning || t.stopAt i != .deferred || nth t.glean i 0 != 0 || !s.stopHere t i || t.parkFault.isSome || !first then s else
    let tgt := t.coreAt i
    if t.parked then
      match s.core? tgt with
      | none => s
      | some c =>
        let had := match t.gleanAt with | some (j, page, bs) => if j = i then (page, bs) else (0, []) | none => (0, [])
        let (s, m) := s.move c false [] ((piecesOf (s.parkVa t) (64 * t.lines) 0).drop had.1) ⟨had.1, had.2, [], 0, [], false, none, false⟩
        match m.fault with
        | some (va, k) => (s.updTour n (fun t => { t with gleanAt := some (i, m.page, m.data) })).parkStall t va k false
        | none =>
          if m.refused then s.parkDeny n else
          let s := s.updTour n (fun t => { t with glean := t.glean.set i 2, parkrd := t.parkrd + 1, gleanAt := none })
          s.deliver tgt (some (t.ringOf i)) 0 (linesFrom m.data) c.die (s.portRoute tgt.lh (s.partOf c.ctx) m.pas c.pos)
            (s.gleanFrom tgt + s.copyTime c m t.lines) (.tour n i 2)
    else if (t.arrivedAt t.last).isSome && !t.parking then
      if !s.stopAgrees t t.last then s.readTriage (t.coreAt t.last) else
      let s := s.updTour n (fun t => { t with glean := t.glean.set i 1 })
      let pos := s.stopPos t t.last
      let s := s.readStop t t.last
      s.deliver tgt (some (t.ringOf i)) 0 t.tile (dieOf pos.1 pos.2) (s.route t.core.lh pos (s.stopPos t i))
        (s.gleanFrom tgt + s.mirrorWait t.core.lh + s.tHop pos (s.stopPos t i) (64 * t.lines)) (.tour n i 1)
    else s
/-- The gleaning of every DEFERRED stop that can be served, in itinerary order. -/
def State.gleanAll (s : State) (n : Nat) : State :=
  match s.tour? n with
  | some t => (List.range t.stops.length).foldl (fun s i => s.gleanTo n i) s
  | none => s

/-- The tile written to its parking slot, page by page, R254; then the DEFERRED stops are served from it. -/
def State.park (s : State) (n : Nat) : State :=
  match s.tour? n with
  | none => s
  | some t =>
    if t.parked then s else
    if !s.stopAgrees t t.last then (s.readTriage (t.coreAt t.last)).sched (s.now + 1) true (.gleaningBoundExpiry n) else
    match s.core? t.core with
    | none => s
    | some c =>
      let plan := (piecesOf (s.parkVa t) (64 * t.lines) 0).drop t.parkPage
      let (s, m) := s.move c true t.tile.flatten plan ⟨t.parkPage, [], [], 0, [], false, none, false⟩
      let s := if t.parking || (t.arrivedAt t.last).isNone then s else s.readStop t t.last
      let s := m.out.foldl (fun s w => s.devWrite ⟨w.peer, w.pa, 0, 0⟩ w.bytes) s
      let s := s.updTour n (fun t => { t with parkPage := m.page, parking := true, parkFault := none })
      match m.fault with
      | some (va, k) => s.parkStall t va k true
      | none =>
        if m.refused then s.parkDeny n else
        let s := s.updTour n (fun t => { t with parked := true, parking := false })
        (s.releaseLast n).gleanAll n

/-- Gleaning begun, R254: its bound counts from the tile's arrival at the last stop; a last stop that did not take the tile has
it parked at once, R286. -/
def State.gleanStart (s : State) (n : Nat) : State :=
  match s.tour? n with
  | none => s
  | some t =>
    let s := s.updTour n (fun t => { t with gleaning := true })
    let g := (s.recOf t.core.lh).glean
    let s := if (t.arrivedAt t.last).isSome then
        s.schedTime (s.timeFine + fineOf (1000 * (if g = 0 then 200 else g))) (.gleaningBoundExpiry n)
      else if t.deferred then s.park n
      else s
    (s.gleanAll n).tourCheck n (s.stopPos t t.last)

/-! ### From stop to stop -/

/-- The tile sent to a stop from a position, at a cycle. -/
def State.tourSend (s : State) (n j : Nat) (pos : Nat × Nat) (at_ : Nat) : State :=
  match s.tour? n with
  | none => s
  | some t => s.deliver (t.coreAt j) (some (t.ringOf j)) 0 t.tile (dieOf pos.1 pos.2) (s.route t.core.lh pos (s.stopPos t j)) (at_ + s.tHop pos (s.stopPos t j) (64 * t.lines)) (.tour n j 0)

/-- The tile forwarded from a stop, or gleaning begun after the last one, R252, R254. What is read from the rings of a mirror launch is
compared, and tried again after a difference, R362. -/
def State.tourForward (s : State) (n i : Nat) : State :=
  match s.tour? n with
  | none => s
  | some t =>
    if t.sentOn i then s else
    let held := (t.arrivedAt i).isSome && i != t.last
    if held && !s.stopAgrees t i then (s.readTriage (t.coreAt i)).sched (s.now + 1) true (.holdLimitExpiry n i) else
    let s := s.updTour n (fun t => { t with forwarded := t.forwarded.set i true })
    let s := if held then s.readStop t i else s
    if i = t.last then s.gleanStart n
    else s.tourSend n (i + 1) (s.stopPos t i) (s.now + if held then s.mirrorWait t.core.lh else 0)

/-- The records of the stops that a tile passed before their core was dispatched, R253. -/
def State.lateStops (s : State) (id : CoreId) : State :=
  s.tours.foldl (fun s t =>
    match indexOf? (fun p => p.1 == id.lc) t.itin.stops with
    | some i =>
      let st := t.stopAt i
      if t.core.lh == id.lh && (st == .deferred || st == .missed) && !((s.core? id).map (fun c => (c.stops.any (fun r => r.tour == t.id)))).getD true then
        s.addStop id ⟨t.ringOf i, t.id, i, t.lines, 0, if st == .missed then .ready 3 else .pending⟩
      else s
    | none => s) s

/-- A stop that the tile passes: DEFERRED, or MISSED with its record, R253, R286. -/
def State.tourPass (s : State) (n i : Nat) (st : TourStop) : State :=
  match s.tour? n with
  | none => s
  | some t =>
    let r : StopRec := ⟨t.ringOf i, n, i, t.lines, 0, if st == .missed then .ready 3 else .pending⟩
    let s := (s.addStop (t.coreAt i) r).updTour n (fun t => { t with stops := t.stops.set i st })
    (s.tourForward n i).tourCheck n (s.stopPos t i)

/-! ### The one read, R252, R283 -/

/-- The parking slots in use by the tours of a launch. -/
def State.parkUsed (s : State) (lh : Nat) : List (Nat × Nat) :=
  s.tours.filterMap (fun t => if t.core.lh == lh && !t.ended then t.slot.map (fun o => (o, 64 * t.lines)) else none)
/-- The lowest free slot of a size in the launch's parking area, behind the Umbra areas (R356). -/
def State.parkSlot (s : State) (lh size : Nat) : Option Nat :=
  let r := s.recOf lh
  let base := if r.umbra then r.grid * (2064 * 1024) else 0
  let used := s.parkUsed lh
  let fits (o : Nat) : Bool := decide (o + size ≤ r.parkSize) && used.all (fun u => decide (o + size ≤ u.1) || decide (u.1 + u.2 ≤ o))
  ((base :: used.map (fun u => u.1 + u.2)).filter fits).foldl (fun (m : Option Nat) o => match m with
    | some k => some (Nat.min k o)
    | none => some o) none

/-- A denied or refused read: every stop not yet served becomes MISSED, and the command ends with ACCV, R320. -/
def State.readDeny (s : State) (n : Nat) : State :=
  match s.tour? n with
  | none => s
  | some t =>
    let s := (List.range t.stops.length).foldl (fun s i =>
      if t.stopAt i == .served then s else s.addStop (t.coreAt i) ⟨t.ringOf i, n, i, t.lines, 0, .ready 3⟩) s
    let s := s.updTour n (fun t => { t with stops := t.stops.map (fun x => if x == .served then x else .missed), status := 3 })
    (s.updCmd t.core .sheaf t.ticket (fun x => { x with status := 3 })).tourCheck n (s.posOf t.core.lh t.core.lc)

/-- The lines of the scratchpad that hold the factor bytes of a tour's tile, R150. -/
def Tour.factorLines (t : Tour) : List Nat :=
  (linesTouched ((tileLocal t.desc (twCblk t.tw) (twList t.tw)).map (·.1))).map (64 * ·)
/-- The tour whose tile a command of the sheaf engine reads. -/
def State.tourOf (s : State) (id : CoreId) (x : Inflight) : Option Tour :=
  match x.cmd with
  | .shfRead .. => s.tours.find? (fun t => t.core == primOf id && t.ticket == x.ticket)
  | .shfReread _ => s.tour? x.gen
  | _ => none
/-- Whether a command may read its tile, R162, R163: a read under SO begins once every earlier one of the core under SO has been performed. -/
def State.mayReadTile (s : State) (c : Core) (x : Inflight) (t : Tour) : Bool :=
  let so (t : Tour) : Bool := s.planKind c.ctx false (tilePlan t.desc (twCblk t.tw) (twList t.tw)) == 2
  !so t || c.shfs.all (fun y => decide (x.ticket ≤ y.ticket) || y.left == 0 || y.status != 0 || (y.done && decide (y.due ≤ s.now)) ||
    !((s.tourOf c.id y).map so).getD false)
/-- The state in which a read waits, if it has to: for the reads before it, or for the triage of a mirror pair whose factor bytes differ,
R362. -/
def State.readWaits (s : State) (c : Core) (x : Inflight) (t : Tour) : Option State :=
  let wait := s.updCmd c.id .sheaf x.ticket (fun y => { y with started := false })
  if !s.mayReadTile c x t then some wait
  else if !s.linesAgree c.id t.factorLines then some (wait.readTriage c.id)
  else none

/-- The read of a tour carried on from the pages already read; its time counts from a base cycle, R295. -/
def State.goRead (s : State) (n base : Nat) : State :=
  match s.tour? n with
  | none => s
  | some t =>
    match s.core? t.core, s.cmdOf t.core .sheaf t.ticket with
    | some c, some x =>
      match s.readWaits c x t with
      | some s => s
      | none =>
      let rows := twList t.tw
      let plan := tilePlan t.desc (twCblk t.tw) rows
      let (s, m) := s.move c false [] (plan.drop x.page) ⟨x.page, x.data, [], 0, [], false, none, false⟩
      let s := s.updCmd t.core .sheaf t.ticket (fun y => { y with page := m.page, data := m.data, started := true })
      match m.fault with
      | some (va, k) => s.stall t.core .sheaf t.ticket va k false
      | none =>
        if m.refused then s.readDeny n else
        let loc := (tileLocal t.desc (twCblk t.tw) rows).map (fun (p : Nat × Nat) => (p.2, c.mem.get p.1))
        let tile := linesFrom (assemble (List.replicate (64 * t.lines) 0) plan m.data loc)
        let s := s.updTour n (fun t => { t with tile := tile, read := true })
        let tgt := (s.core? (t.coreAt 0)).getD c
        let ready := base + s.copyTime tgt m t.lines
        let s := (s.updCmd t.core .sheaf t.ticket (fun y => { y with done := true, due := ready })).access t.core (readLines t.factorLines) .none
        s.deliver (t.coreAt 0) (some (t.ringOf 0)) 0 tile tgt.die (s.portRoute t.core.lh (s.partOf tgt.ctx) m.pas tgt.pos) ready (.tour n 0 0)
    | _, _ => s

/-- A tour given a parking slot, and its read begun. -/
def State.openTour (s : State) (n base : Nat) : State :=
  match s.tour? n with
  | none => s
  | some t =>
    match t.slot, s.parkSlot t.core.lh (64 * t.lines) with
    | none, some o => (s.updTour n (fun t => { t with slot := some o })).goRead n base
    | _, _ => s

/-- Whether a tour's command has reached its engine, and the tour waits for a parking slot. -/
def State.waitsForSlot (s : State) (t : Tour) : Bool :=
  !t.ended && t.slot.isNone && (s.cmdOf t.core .sheaf t.ticket).isSome
/-- The first waiting tour of a list that a free slot fits; the tours of one launch are served in order. -/
def State.firstTour (s : State) : List Nat → List Tour → Option Nat
  | _, [] => none
  | seen, t :: r =>
    if s.waitsForSlot t && !seen.contains t.core.lh then
      if (s.parkSlot t.core.lh (64 * t.lines)).isSome then some t.id else s.firstTour (t.core.lh :: seen) r
    else s.firstTour seen r

/-- SHF.READ handed to the engine: it reads at once when a parking slot is free and no earlier tour waits. -/
def State.startRead (s : State) (id : CoreId) (x : Inflight) : State :=
  let s := s.addCmd id .sheaf { x with left := 1 }
  match s.tours.find? (fun t => t.core == primOf id && t.ticket == x.ticket) with
  | none => s
  | some t => if s.firstTour [] s.tours == some t.id then s.openTour t.id x.base else s

/-- TOUR_READ_START: a tour that waited obtains a parking slot, and reads its tile. -/
def execTourReadStart (id : Nat) (s : State) : Out := .next (s.openTour id s.now)

/-! ### SHF.REREAD, R288 -/

/-- A reread carried on from the pages already read. -/
def State.goReread (s : State) (id : CoreId) (ticket base : Nat) : State :=
  match s.core? (primOf id), s.cmdOf id .sheaf ticket with
  | some c, some x =>
    match s.tour? x.gen with
    | none => s.updCmd id .sheaf ticket (fun y => { y with left := 0, due := s.now, status := 3 })
    | some t =>
      match s.readWaits c x t with
      | some s => s
      | none =>
      let rows := twList t.tw
      let plan := tilePlan t.desc (twCblk t.tw) rows
      let (s, m) := s.move c false [] (plan.drop x.page) ⟨x.page, x.data, [], 0, [], false, none, false⟩
      let s := s.updCmd id .sheaf ticket (fun y => { y with page := m.page, data := m.data, started := true })
      match m.fault with
      | some (va, k) => s.stall id .sheaf ticket va k false
      | none =>
        if m.refused then
          (s.updStopRec id x.gen x.mask (fun r => { r with st := .ready 3 })).updCmd id .sheaf ticket
            (fun y => { y with left := 0, due := s.now, status := 3 })
        else
          let loc := (tileLocal t.desc (twCblk t.tw) rows).map (fun (p : Nat × Nat) => (p.2, c.mem.get p.1))
          let tile := linesFrom (assemble (List.replicate (64 * t.lines) 0) plan m.data loc)
          let ring := match c.stopOf x.gen x.mask with | some r => r.ring | none => 0
          let ready := base + s.copyTime c m t.lines
          let s := (s.updCmd id .sheaf ticket (fun y => { y with done := true, due := ready })).access id (readLines t.factorLines) .none
          s.deliver id (some ring) 0 tile c.die (s.portRoute id.lh (s.partOf c.ctx) m.pas c.pos) ready (.reread x.gen x.mask ticket)
  | _, _ => s
/-- The reads that wait for others or for a triage tried again, in the order of their commands. -/
def State.readsGo (s : State) : State :=
  let waiting (x : Inflight) : Bool := !x.started && x.stalled.isNone && x.left != 0
  (s.cores.filter (fun c => !c.id.twin && !s.withheld c.die && c.shfs.any waiting)).foldl (fun s c =>
    (c.shfs.filter waiting).foldl (fun s x => match x.cmd with
      | .shfRead .. => (match s.tourOf c.id x with | some t => s.goRead t.id s.now | none => s)
      | .shfReread _ => s.goReread c.id x.ticket s.now
      | _ => s) s) s
/-- SHF.REREAD handed to the engine; `gen` and `mask` name the tour and the stop that it serves. -/
def State.startReread (s : State) (id : CoreId) (x : Inflight) (ring : Nat) : State :=
  match (s.core? (primOf id)).bind (fun c => c.missedRec ring) with
  | none => s.addCmd id .sheaf { x with due := s.now }
  | some r => (s.addCmd id .sheaf { x with left := 1, gen := r.tour, mask := r.stop }).goReread id x.ticket x.base

/-! ### SHF.REL, R285, R299 -/

/-- The tiles of a ring that have been taken and not released, oldest first, R285. -/
def Core.takenRecs (c : Core) (ring : Nat) : List StopRec :=
  c.stops.filter (fun r => r.ring == ring && (match r.st with | .taken o => o != 3 | _ => false))
/-- The oldest of them. -/
def Core.takenRec (c : Core) (ring : Nat) : Option StopRec := (c.takenRecs ring).head?

/-- Whether an SHF.REL has not acted yet: no command of its ticket has reached the engine. -/
def Core.unreleased (c : Core) (ticket : Nat) : Bool := decide (c.eseq[clsIx .sheaf] < ticket) && !c.shfs.any (fun x => x.ticket == ticket)
/-- What an SHF.REL does at its commit, or behind a FENCE.X that it waits for, and in a mirror launch once both twins have offered it: the stop served, the tile
forwarded when it has not been, and the stop's lines popped once the forward has read them, a line a cycle. The command completes when
the forward has left the ring. -/
def State.release (s : State) (id : CoreId) (ticket ring : Nat) : State :=
  match s.core? id with
  | none => s
  | some c =>
  let x := inflightOf ticket s.now s.now s.timeFine .none (.shfRel ring)
  let add (s : State) (y : Inflight) : State := if (s.cmdOf id .sheaf ticket).isSome then s else s.addCmd id .sheaf y
  let popNow (s : State) (r : StopRec) : State := s.pair id (fun c => (c.popTile r).dropStop r.tour r.stop)
  match c.takenRec ring with
  | none => add s x
  | some r =>
    let o := match r.st with | .taken o => o | _ => 0
    match s.tour? r.tour with
    | none => add (popNow s r) x
    | some t =>
      let i := r.stop
      if o = 4 || t.stopAt i == .served then add (popNow s r) x else
      let last := i == t.last
      let spent := match t.arrivedAt i with | some a => decide (s.now > a + t.itin.hold) | none => false
      let late := o == 0 && (if last then spent else t.sentOn i)
      let go := o == 0 && !last && !t.sentOn i
      let s := s.updTour t.id (fun t => { t with stops := t.stops.set i .served, late := if late then t.late.set i true else t.late })
      let s := s.trace id 4 0x401 (wd (r.word o))
      let keep := o == 0 && last && t.deferred && !t.parked
      let s := if go || keep then s.pair id (fun c => c.updStop r.tour i (fun r => { r with st := .released })) else popNow s r
      let s := if go then
          add s { x with busy := true, gen := t.id, mask := i }
        else add s { x with done := true }
      let s := if go then s.tourForward t.id i else s
      let s := match s.tour? t.id with | some u => if u.deferred then s else s.releaseLast t.id | none => s
      s.tourCheck t.id (s.stopPos t i)

/-- SHEAF_COMMAND_COMPLETION: the forward of an SHF.REL has read its lines, which are popped; the oldest command with nothing
left to do completes, and ESEQ[3] advances. -/
def execSheafCommandCompletion (c : CoreId) (ticket : Nat) (s : State) : Out :=
  .next (match s.cmdOf c .sheaf ticket with
  | none => s
  | some x =>
    let rel := match x.cmd with | .shfRel _ => true | _ => false
    let s := if rel && !x.done && !x.busy && decide (x.due ≤ s.now) then
        (s.popStop c x.gen x.mask).updCmd c .sheaf ticket (fun y => { y with done := true })
      else s
    match (s.core? (primOf c)).bind (fun d => s.headDone d .sheaf) with
    | some n => if n = ticket then
        s.complete c .sheaf x (match x.cmd with | .shfReread _ => true | _ => false)
      else s
    | none => s)

/-! ### A core that is vacated or fenced (R253, R286, R298) -/

/-- The cells that zero the lines of a record. -/
def Core.zeroCells (c : Core) (r : StopRec) : List Host.Cell :=
  (c.recLines r).flatMap (fun a => cellsAt a (List.replicate 64 0))
/-- The lines of a record popped and zeroed. -/
def State.reclaim (s : State) (id : CoreId) (r : StopRec) : State :=
  s.pair id (fun c => (c.popTile r).poke (s.umbra id.lh) (c.zeroCells r))

/-- The tile of a last stop whose core is being vacated parked at once; with a parking fault outstanding, now or before, the DEFERRED stops
are MISSED, R254. -/
def State.parkNow (s : State) (n : Nat) : State :=
  let stuck (s : State) : Bool := ((s.tour? n).map (fun t => t.parkFault.isSome)).getD false
  if stuck s then s.parkDeny n else
  let s := s.park n
  if stuck s then s.parkDeny n else s

/-- One stop record of a core that enters SAVING: its lines are reclaimed and its stop becomes DEFERRED; lines that serve
gleaning are parked first. -/
def State.saveStop (s : State) (id : CoreId) (r : StopRec) : State :=
  match s.tour? r.tour with
  | none => s
  | some t =>
    let i := r.stop
    match r.st with
    | .pending => s
    | .released =>
      if i != t.last || t.ended then s else
      let cells := ((s.core? (primOf id)).map (fun c => c.zeroCells r)).getD []
      (s.parkNow t.id).pokeAt id cells
    | .ready o | .taken o =>
      if o = 3 then s
      else if o = 4 then (s.reclaim id r).updStopRec id t.id i (fun r => { r with st := .ready 3, addr := 0 })
      else
        let s := (s.reclaim id r).updStopRec id t.id i (fun r => { r with st := .pending, addr := 0 })
        if o != 0 then s.updTour t.id (fun t => { t with glean := t.glean.set i 0 }) else
        let spent := match t.arrivedAt i with | some a => decide (s.now ≥ a + t.itin.hold) | none => true
        let s := s.updTour t.id (fun t => { t with stops := t.stops.set i .deferred, arrived := t.arrived.set i none })
        if i == t.last then s.parkNow t.id else if spent then s.tourForward t.id i else s

/-- The sheaf stops of a core that enters SAVING. -/
def State.sheafSaving (s : State) (id : CoreId) : State :=
  match s.core? (primOf id) with
  | none => s
  | some c => c.stops.foldl (fun s r => s.saveStop (primOf id) r) s
/-- What reaches a core that is being saved already is treated as the rest of its stops. -/
def State.sheafLate (s : State) (id : CoreId) : State :=
  match s.core? (primOf id) with
  | some c => if c.gone then s.sheafSaving id else s
  | none => s

/-- The stops of a core that is fenced become MISSED, R253; a tile that it holds goes on. -/
def State.fenceStops (s : State) (id : CoreId) : State :=
  s.tours.foldl (fun s t =>
    match indexOf? (fun p => p.1 == id.lc) t.itin.stops with
    | none => s
    | some i =>
      if t.core.lh != id.lh || t.ended then s else
      let served := t.stopAt i == .served
      let s := if served then s else s.updTour t.id (fun t => { t with stops := t.stops.set i .missed })
      let held := (t.arrivedAt i).isSome
      let s := s.updTour t.id (fun t => { t with arrived := t.arrived.set i none })
      let s := if held && i != t.last then s.tourForward t.id i
        else if held && t.deferred then s.park t.id else s
      s.tourCheck t.id (s.stopPos t i)) s

/-! ### The events of a tour -/

/-- TILE_ARRIVAL: the tile's last line has landed at a stop: SHF.TAKE may return, the hold is counted, and after the last stop
gleaning begins, R252. -/
def execTileArrival (id stop : Nat) (s : State) : Out :=
  .next (match s.tour? id with
  | none => s
  | some t =>
    let s := s.updStopRec (t.coreAt stop) id stop (fun r => { r with st := .ready 0 })
    let s := s.updTour id (fun t => { t with arrived := t.arrived.set stop (some s.now) })
    let s := if stop = t.last then s.tourForward id stop
      else s.sched (s.now + t.itin.hold) true (.holdLimitExpiry id stop)
    s.sheafLate (t.coreAt stop))

/-- HOLD_LIMIT_EXPIRY: the tile goes on; a core that is still stopping forwards it when it enters SAVING, R286. -/
def execHoldLimitExpiry (id stop : Nat) (s : State) : Out :=
  .next (match s.tour? id with
  | none => s
  | some t =>
    match s.core? (t.coreAt stop) with
    | some c => if c.run == .stopping then s else s.tourForward id stop
    | none => s.tourForward id stop)

/-- GLEANING_DELIVERY: the tile has returned to a resumed stop. -/
def execGleaningDelivery (id stop : Nat) (s : State) : Out :=
  .next (match s.tour? id with
  | none => s
  | some t => (s.updStopRec (t.coreAt stop) id stop (fun r => { r with st := .ready (nth t.glean stop 1) })).sheafLate
      (t.coreAt stop))

/-- GLEANING_BOUND_EXPIRY: with a stop still DEFERRED the tile is parked, R254. -/
def execGleaningBoundExpiry (id : Nat) (s : State) : Out :=
  .next (match s.tour? id with
  | none => s
  | some t => if t.ended || t.parking || !t.deferred then s else s.park id)

/-- TOUR_END: the SHF.READ of the reading core has nothing left to do. -/
def execTourEnd (id : Nat) (s : State) : Out :=
  .next (match s.tour? id with
  | none => s
  | some t => s.updCmd t.core .sheaf t.ticket (fun x => { x with left := 0, due := s.now, status := t.status }))

end Sys2Proof.Machine
end

