-- ==== Sys2Proof/Machine/CollEngine.lean ====
section
/-! DEFINITION. The collective engine at work: bindings, reductions chunk by chunk, graphs and aborts
(spec/08_isa_memory_engines.md R220 to R226; spec/10_prog_allreduce.md R231, R232; spec/18_recovery.md R366). The other members of
a group are other packages: what they send, and whether they can be reached, comes from outside. -/

namespace Sys2Proof.Machine

/-! ### The arithmetic of R222 -/

/-- The float format of a reduction's format code. -/
def redFmt (code : Nat) : FloatFmt := if code = 20 then fmtFp16 else if code = 21 then fmtBf16 else fmtFp32
/-- An element widened exactly to FP32. -/
def widen32 (code c : Nat) : Nat :=
  match decodeF (redFmt code) c with
  | .nan sig => if sig then 0x7F800001 else fmtFp32.nanCode
  | .inf neg => fmtFp32.infCode neg
  | .num neg m e => (roundLane fmtFp32 .rne neg m e false).1
/-- One element of every member, in member order, reduced and rounded. -/
def reduceElem (op outfmt : Nat) : List Nat → Nat × Flags
  | [] => (0, 0)
  | a :: t =>
    let acc := t.foldl (fun (z : Nat × Flags) b =>
      let r := match op with
        | 0 => fadd fmtFp32 .rne z.1 b
        | 1 => fminmax fmtFp32 true z.1 b
        | _ => fminmax fmtFp32 false z.1 b
      (r.1, z.2 ||| r.2)) (a, 0)
    let o := narrowF (redFmt outfmt) .rne false (decodeF fmtFp32 acc.1)
    (o.1, (acc.2 ||| o.2) &&& (fNV ||| fOF ||| fUF ||| fNX))
/-- The i-th element of a source. -/
def srcElem (code : Nat) (bs : List Byte) (i : Nat) : Nat :=
  let w := fmtBits code / 8
  widen32 code (blkField bs (i * w) w)

/-- The elements of one chunk of the result. -/
def RedBlk.chunkElems (r : RedBlk) (k : Nat) : List Nat :=
  let n := 2048 / fmtBits r.outfmt
  (List.range (Nat.min n (r.elems - k * n))).map (k * n + ·)
/-- A chunk of the result with its flags, from the members' sources in member order. -/
def RedBlk.chunk (r : RedBlk) (srcs : List (List Byte)) (k : Nat) : List Byte × Flags :=
  let es := (r.chunkElems k).map (fun i => reduceElem r.op r.outfmt (srcs.map (fun b => srcElem r.infmt b i)))
  (es.flatMap (fun e => leBytes (fmtBits r.outfmt / 8) e.1), fAll (es.map (·.2)))

/-! ### Commands in flight -/

/-- The binding of an AGID in a context. -/
def State.agBind (s : State) (ctx agid : Nat) : Option AgBind := (s.ctx ctx).agids.find? (fun g => g.agid == agid)
/-- A change of a binding. -/
def State.updAg (s : State) (ctx agid : Nat) (f : AgBind → AgBind) : State :=
  s.updCtx ctx (fun c => { c with agids := c.agids.map (fun g => if g.agid == agid then f g else g) })
/-- The reduction of a command. -/
def redOf : Cmd → Option RedBlk
  | .reduce b => some b
  | _ => none
/-- Whether a command is a reduction on an AGID that has not ended. -/
def Inflight.reduces (x : Inflight) (agid : Nat) : Bool :=
  match x.cmd with
  | .reduce b => b.agid == agid && x.left != 0
  | _ => false
/-- Whether a context has a reduction outstanding on an AGID. -/
def State.outstanding (s : State) (ctx agid : Nat) : Bool :=
  s.cores.any (fun c => c.ctx == ctx && c.colls.any (fun x => x.reduces agid))
/-- The ticket under which a graph's node is kept: the CRUN's ticket and the node. -/
def nodeTicket (ticket node : Nat) : Nat := ticket + 2 ^ 32 * (node + 1)
/-- The generation that a reduction uses: its AGID's, counting the CAGRPs of its core that are still to complete, R220, R231. -/
def State.redGen (s : State) (c : Core) (agid : Nat) : Nat :=
  (((s.agBind c.ctx agid).map (·.gen)).getD 0 +
    (c.colls.filter (fun x => match x.cmd with | .cagrp b => b.agid == agid | _ => false)).length) % 2 ^ 16

/-- T_ar in the unit of TIME's count for a number of bytes and members, R226. -/
def arTime (sw bytes n : Nat) : Nat :=
  let log := if n ≤ 1 then 0 else Nat.log2 (n - 1) + 1
  fineOf (180 + 2 * (220 + sw) + 36 * log + 120) + 660 * bytes

/-- A reduction handed to the engine under the binding that its member has then; alone in its group it meets nobody else, and starts at
once. -/
def State.startReduce (s : State) (id : CoreId) (x : Inflight) (b : RedBlk) : State :=
  match s.core? (primOf id) with
  | none => s
  | some c =>
    let g := s.agBind c.ctx b.agid
    let members := (g.map (·.members)).getD []
    let s := s.addCmd id .coll { x with
      left := 1, gen := s.redGen c b.agid, staddr := b.staddr, started := false, due := s.now
      members := members, me := (g.map (·.myidx)).getD 0 }
    if members.length = 1 then s.sched (s.now + 1) false (.reductionStart (primOf id) x.ticket []) else s

/-- The status area of R223. -/
def redArea (x : Inflight) (b : RedBlk) (stale ticket : Nat) : List Byte :=
  let n := b.chunks
  leBytes 8 (resultWord ticket x.status) ++ leBytes 2 x.gen ++ leBytes 2 0 ++ leBytes 4 stale ++ leBytes 4 n ++ leBytes 4 x.page ++
  leBytes 8 0 ++ leBytes 64 x.mask ++ leBytes ((n + 7) / 8) (2 ^ x.page - 1)

/-- A reduction that is over: it has nothing left to do from now on. -/
def State.endReduce (s : State) (id : CoreId) (ticket status mask : Nat) : State :=
  s.updCmd id .coll ticket (fun x => { x with
    left := 0, status := status, mask := mask, due := s.now, till := 0, started := true, stalled := none })
/-- A reduction that ends early: packets of its generation may stay in the switch for a time that no rule gives (R220; log entry 99). -/
def State.endEarly (s : State) (id : CoreId) (x : Inflight) (status mask : Nat) : State :=
  match s.core? (primOf id), redOf x.cmd with
  | some c, some b =>
    let s := s.tickFresh
    (s.updAg c.ctx b.agid (fun g => { g with lingers := Nat.max g.lingers (s.now + Config.switchHold s.fresh) })).endReduce id x.ticket status mask
  | _, _ => s

/-- The cells of a chunk of a local result, none elsewhere. -/
def RedBlk.localCells (b : RedBlk) (k : Nat) (bs : List Byte) : List Host.Cell := if b.dstLocal then cellsAt (b.dst + 256 * k) bs else []
/-- The marks that a chunk gets in the status area, R223. -/
def chunkMarks (x : Inflight) (k : Nat) : List Host.Cell :=
  match x.staddr with
  | some a => cellsAt (a + 0x14) (leBytes 4 (k + 1)) ++ cellsAt (a + 0x60 + k / 8) (leBytes 1 (2 ^ (k % 8 + 1) - 1))
  | none => []
/-- One chunk written at this member, R223, R224: in device memory at once, in the scratchpad line by line with its mark behind it, each line in
a cycle in which its bank is free (R15). -/
def State.writeChunk (s : State) (id : CoreId) (x : Inflight) (b : RedBlk) (k : Nat) : State :=
  match s.core? (primOf id) with
  | none => s
  | some c =>
    let srcs := pieces b.srcBytes (x.data.length / Nat.max 1 b.srcBytes) x.data
    let r := b.chunk srcs k
    let mark (s : State) : State :=
      let lines := byLine (b.localCells k r.1) ++ byLine (chunkMarks x k)
      (s.updCmd id .coll x.ticket (fun y => { y with page := k + 1, flags := y.flags ||| r.2, busy := !lines.isEmpty })).access id lines
        (.chunk x.ticket k)
    if b.dstLocal then mark s else
    let (s, m) := s.move c true r.1 (piecesOf (b.dst + 256 * k) r.1.length 0) ⟨0, [], [], 0, [], false, none, false⟩
    match m.fault with
    | some (va, f) => s.stall id .coll x.ticket va f true
    | none =>
      if m.refused then s.endReduce id x.ticket 3 0
      else mark (m.out.foldl (fun s w => s.engWrite id w) s)

/-- The chunk that is in progress when a reduction ends early may be written here, R224; one whose lines are being written is written whole. -/
def State.lastChunk (s : State) (id : CoreId) (x : Inflight) : State :=
  match redOf x.cmd with
  | none => s
  | some b =>
    let s := s.tickFresh
    if x.started && !x.busy && x.stalled.isNone && decide (x.page < b.chunks) && !x.data.isEmpty && Config.chunkLast s.fresh then
      s.writeChunk id x b x.page
    else s
/-- The latest TIME at which a chunk begins, so that the last is written, a line a cycle, by the end of T_ar, R226. -/
def RedBlk.latest (b : RedBlk) (x : Inflight) (k : Nat) : Nat :=
  x.till - 20000 * (8 * (b.chunks - k) + (if x.staddr.isSome then areaLines b else 0) + 2)
/-- The TIME at which a chunk begins: a free time after the one before it, and no later than that. -/
def State.chunkAt (s : State) (b : RedBlk) (x : Inflight) (k : Nat) : Nat :=
  Nat.max (s.timeFine + 20000) (Nat.min (b.latest x k) (s.timeFine + 20000 * (1 + Config.chunkTime s.fresh)))
/-- What follows a chunk that is written: the next one, or the end of the reduction with T_ar, R224, R226. -/
def State.chunkDone (s : State) (id : CoreId) (ticket k : Nat) : State :=
  let s := (s.updCmd id .coll ticket (fun y => { y with busy := false })).tickFresh
  match s.cmdOf id .coll ticket with
  | none => s
  | some y =>
    match redOf y.cmd with
    | none => s
    | some b =>
      if y.stalled.isSome || y.left = 0 then s
      else if k + 1 ≥ b.chunks then s.updCmd id .coll ticket (fun y => { y with left := 0, due := s.now })
      else s.schedTime (s.chunkAt b y (k + 1)) (.chunkWrite id ticket (k + 1))

/-- What the members of a group must agree on, R221. -/
def RedBlk.head (b : RedBlk) : List Nat := [b.op, b.infmt, b.outfmt, b.elems]
/-- What another member has issued. -/
def RedPeer.head (p : RedPeer) : List Nat := [p.op, p.infmt, p.outfmt, p.elems]
/-- How the commands of the members meet: one is missing; this member's differs from every other; another one differs, and this one waits; or
all agree, with the sources of the others. -/
inductive Meeting where
  | missing | differs | waits | agree
  deriving DecidableEq, Repr
/-- The meeting of a reduction with what the other members have issued, R221, R231. -/
def RedBlk.meet (b : RedBlk) (n me : Nat) (ps : List RedPeer) : Meeting :=
  let others := (List.range n).filter (· != me)
  if !others.all (fun i => ps.any (fun p => p.member == i)) then .missing
  else
    let heads := (ps.filter (fun p => others.contains p.member)).map RedPeer.head
    if heads.all (· == b.head) then .agree else if heads.contains b.head then .waits else .differs

/-- The sources of a reduction put in member order: this member's own, and what the others sent. -/
def inOrder (n me : Nat) (own : List Byte) (ps : List RedPeer) : List Byte :=
  (List.range n).flatMap (fun i => if i = me then own else
    match ps.find? (fun p => p.member == i) with
    | some p => padTo own.length p.src
    | none => List.replicate own.length 0)

/-! ### The ordering kinds of the pages that reductions touch, R162, R163 -/

/-- The strongest kind of the pages that a reduction touches, under which all of it is performed. -/
def State.redKind (s : State) (ctx : Nat) (b : RedBlk) : Nat :=
  Nat.max (if b.srcLocal then 0 else s.planKind ctx false (piecesOf b.src b.srcBytes 0))
    (if b.dstLocal then 0 else s.planKind ctx true (piecesOf b.dst b.dstBytes 0))
/-- Whether two runs of bytes meet. -/
def overlap (a n b m : Nat) : Bool := decide (a < b + m) && decide (b < a + n)
/-- Whether two reductions access a byte of device memory that one of them writes. -/
def RedBlk.clashes (a b : RedBlk) : Bool :=
  (!a.dstLocal && !b.dstLocal && overlap a.dst a.dstBytes b.dst b.dstBytes) ||
  (!a.dstLocal && !b.srcLocal && overlap a.dst a.dstBytes b.src b.srcBytes) ||
  (!a.srcLocal && !b.dstLocal && overlap a.src a.srcBytes b.dst b.dstBytes)
/-- Whether a command, or a node of a graph, was issued before another of its core. -/
def Inflight.before (y x : Inflight) : Bool :=
  decide (y.ticket % 2 ^ 32 < x.ticket % 2 ^ 32) || (y.ticket % 2 ^ 32 == x.ticket % 2 ^ 32 && decide (y.ticket < x.ticket))
/-- Whether a reduction may make its accesses, R162: under SO every earlier one of the path under SO has ended, and under RC or SO every
earlier one under either that it clashes with. -/
def State.mayReduce (s : State) (c : Core) (x : Inflight) (b : RedBlk) : Bool :=
  c.colls.all (fun y => match redOf y.cmd with
    | none => true
    | some a =>
      y.left == 0 || !y.before x ||
      (let k := Nat.min (s.redKind c.ctx a) (s.redKind c.ctx b)
       k != 2 && (k == 0 || !a.clashes b)))

/-- The switch's read of this member's source, carried on from the pages already read (R319), and the reduction begun; its time counts from a
TIME, in 1/66,000 ns. A source in the scratchpad takes a bank for each line (R14). A result whose local destination is held then is not
written, R207. -/
def State.goReduce (s : State) (id : CoreId) (x : Inflight) (b : RedBlk) (peers : List RedPeer) (base : Nat) : State :=
  match s.core? (primOf id) with
  | none => s
  | some c =>
    let m0 : Moved := ⟨x.page, x.data, [], 0, [], false, none, false⟩
    let (s, m) := if b.srcLocal then (s, { m0 with data := c.mem.getN b.src b.srcBytes })
      else s.move c false [] ((piecesOf b.src b.srcBytes 0).drop x.page) m0
    match m.fault with
    | some (va, f) =>
      (s.updCmd id .coll x.ticket (fun y => { y with peers := peers, page := m.page, data := m.data })).stall id .coll x.ticket va f false
    | none =>
      if m.refused then s.endReduce id x.ticket 3 0 else
      let s := s.tickFresh
      let till := base + arTime (Config.switchNs s.fresh) b.srcBytes x.members.length
      let s := s.updCmd id .coll x.ticket (fun y => { y with
        data := inOrder x.members.length x.me m.data peers, page := 0, started := true, till := till, peers := [] })
      let s := if b.srcLocal then s.access id (readLines ((linesTouched (span b.src b.srcBytes)).map (64 * ·))) .none else s
      if b.dstLocal && c.touchesHeld (b.dst / 64 * 64) ((b.dst % 64 + b.dstBytes + 63) / 64) then
        s.updCmd id .coll x.ticket (fun y => { y with left := 0, status := 2, due := s.now + 1, till := 0 })
      else s.schedTime (s.chunkAt b { x with till := till } 0) (.chunkWrite (primOf id) x.ticket 0)

/-- The last commit of a reduction's members, in 1/66,000 ns of TIME: this member's own, or that of another, R226, R231. -/
def lastCommit (x : Inflight) (peers : List RedPeer) : Nat :=
  (peers.filter (fun p => decide (p.member < x.members.length) && p.member != x.me)).foldl (fun t p => Nat.max t (fineOf p.time)) x.time
/-- REDUCTION_START: every member's command of the generation has arrived; `peers` holds what the other members have issued. The time counts
from the last commit of all, R226, R231. A member whose values differ
completes with ACCV, and the others wait, R221; the reduction waits for those before it that the pages' kinds put first, R162, and for the
triage of a mirror pair whose sources differ; what such a pair sends leaves 12 cycles later, R362. -/
def execReductionStart (c : CoreId) (ticket : Nat) (peers : List RedPeer) (s : State) : Out :=
  .next (match s.cmdOf c .coll ticket, s.core? (primOf c) with
  | some x, some d =>
    match redOf x.cmd with
    | none => s
    | some b =>
      if x.started || x.left = 0 || x.stalled.isSome then s else
      if !s.mayReduce d x b then s.sched (s.now + 1) true (.reductionStart c ticket peers) else
      match b.meet x.members.length x.me peers with
      | .missing | .waits => s
      | .differs => s.endReduce c ticket 3 0
      | .agree =>
        if b.srcLocal && !s.readsAgree c b.src b.srcBytes then (s.readTriage c).sched (s.now + 1) true (.reductionStart c ticket peers)
        else if b.srcLocal && s.mirrorWait c.lh != 0 && x.since = 0 then
          (s.updCmd c .coll ticket (fun y => { y with since := s.timeFine + 1 })).sched (s.now + s.mirrorWait c.lh) true (.reductionStart c ticket peers)
        else s.goReduce c x b peers (lastCommit x peers + (if x.since = 0 then 0 else s.timeFine + 1 - x.since))
  | _, _ => s)

/-- The scratchpad lines that a chunk of a reduction and its marks write. -/
def RedBlk.chunkLines (b : RedBlk) (k : Nat) : List Nat :=
  (if b.dstLocal then [b.dst + 256 * k, Nat.min (b.dst + 256 * k + 255) (b.dst + b.dstBytes - 1)] else []) ++
  (match b.staddr with | some a => [a + 0x14, a + 0x60 + k / 8] | none => [])
/-- CHUNK_WRITE: one reduced chunk is written at this member; the next one follows, or the reduction's end. In an Umbra launch the first
write of a 256-byte line is held, R358. -/
def execChunkWrite (c : CoreId) (ticket k : Nat) (s : State) : Out :=
  .next (match s.cmdOf c .coll ticket with
  | none => s
  | some x =>
    match redOf x.cmd with
    | none => s
    | some b =>
      if x.left = 0 || x.page != k || x.busy || x.stalled.isSome || !x.started then s else
      match s.undoHold c.lh (fun d => d.id.lh == c.lh && d.id.lc == c.lc) (b.chunkLines k) with
      | some s => s.sched (s.now + 4) false (.chunkWrite c ticket k)
      | none =>
      let s := s.writeChunk c x b k
      match s.cmdOf c .coll ticket with
      | none => s
      | some y => if y.busy then s else s.chunkDone c ticket k)

/-- MEMBER_ABSENT: the switch finds members unreachable, R224, R232. -/
def execMemberAbsent (c : CoreId) (ticket : Nat) (mask : BitVec 512) (s : State) : Out :=
  .next (match s.cmdOf c .coll ticket with
  | none => s
  | some x => if (redOf x.cmd).isNone || x.left = 0 then s else (s.lastChunk c x).endEarly c x 4 mask.toNat)

/-- Whether a generation is older than another, counted modulo 2^16. -/
def olderGen (old new : Nat) : Bool :=
  let d := (new + 2 ^ 16 - old % 2 ^ 16) % 2 ^ 16
  decide (0 < d) && decide (d < 2 ^ 15)
/-- STALE_PACKET_ARRIVAL: a packet of an older generation is dropped and counted, R220. -/
def execStalePacketArrival (ctx agid gen : Nat) (s : State) : Out :=
  .next (s.updAg ctx agid (fun g => if olderGen gen g.gen then { g with staledrop := (g.staledrop + 1) % 2 ^ 32 } else g))

/-! ### CAGRP, R220, R231 -/

/-- An address group bound in a context, R220, R231: its generation rises when the CAGRP completes. -/
def State.bindGroup (s : State) (ctx : Nat) (b : CagrpBlk) : State :=
  s.updCtx ctx (fun x =>
    let old := x.agids.find? (fun g => g.agid == b.agid)
    let gen := match old with | some g => g.gen | none => 0
    let lingers := match old with | some g => g.lingers | none => 0
    { x with agids := x.agids.filter (fun g => g.agid != b.agid) ++ [AgBind.mk b.agid gen b.members b.myidx 0 lingers] })
/-- CAGRP handed to the engine: the group is bound, and it completes 64 cycles after it issues, or once the group's packets have drained, or
its bound has elapsed on TIME. -/
def State.startCagrp (s : State) (id : CoreId) (x : Inflight) (b : CagrpBlk) : State :=
  match s.core? (primOf id) with
  | none => s
  | some c =>
    let busy := s.outstanding c.ctx b.agid
    let lingers := ((s.agBind c.ctx b.agid).map (·.lingers)).getD 0
    let s := (s.bindGroup c.ctx b).addCmd id .coll { x with due := Nat.max (x.base + 64) lingers, left := nbit busy }
    if busy || decide (s.now < lingers) then s.schedTime (x.time + fineOf b.drain) (.cagrpDrainExpiry (primOf id) x.ticket) else s

/-- The CAGRPs and CABORTs of a context that waited for an AGID's last reduction: a CAGRP waits on for what lingers in the switch. -/
def State.agDrained (s : State) (ctx agid : Nat) : State :=
  if s.outstanding ctx agid then s else
  let lingers := ((s.agBind ctx agid).map (·.lingers)).getD 0
  s.mapCores (fun c => c.ctx == ctx) (fun c => { c with colls := c.colls.map (fun x => match x.cmd with
    | .cagrp b => if b.agid == agid && x.left != 0 then { x with left := 0, due := Nat.max (Nat.max x.due s.now) lingers } else x
    | .cabort a => if a == agid && x.left != 0 then { x with left := 0, due := Nat.max x.due s.now } else x
    | _ => x) })

/-- CAGRP_DRAIN_EXPIRY: the bound has elapsed; the CAGRP waits no longer. -/
def execCagrpDrainExpiry (c : CoreId) (ticket : Nat) (s : State) : Out :=
  .next (s.updCmd c .coll ticket (fun x => match x.cmd with
    | .cagrp _ => { x with left := 0, due := Nat.max (x.base + 64) s.now }
    | _ => x))

/-- CAGRP_COMPLETION: the generation rises and the status area is written, R231. -/
def execCagrpCompletion (c : CoreId) (ticket : Nat) (s : State) : Out :=
  .next (match s.cmdOf c .coll ticket, s.core? (primOf c) with
  | some x, some d =>
    match x.cmd with
    | .cagrp b =>
      let gen := (((s.agBind d.ctx b.agid).map (·.gen)).getD 0 + 1) % 2 ^ 16
      let record := match b.staddr with
        | some a => cellsAt a (leBytes 8 (resultWord ticket 0) ++ leBytes 2 gen ++ leBytes 6 0)
        | none => []
      match s.record c .coll x record with
      | some s => s
      | none => (s.updAg d.ctx b.agid (fun g => { g with gen := gen })).complete c .coll x b.staddr.isSome
    | _ => s
  | _, _ => s)

/-! ### CRUN and CABORT -/

/-- The nodes of a graph whose predecessors have completed and that have not started handed to the engine, R225. `done` holds a
mask of the completed nodes, `begun` of those started. -/
def State.startNodes (s : State) (id : CoreId) (x : Inflight) (nodes : List (List Nat × RedBlk)) : State :=
  (List.range nodes.length).foldl (fun s i =>
    let n := nth nodes i ([], ⟨false, 0, 0, 0, 0, 0, 0, false, false, 0, none, none⟩)
    match s.cmdOf id .coll x.ticket with
    | none => s
    | some y =>
      if bitOf y.mask i || !n.1.all (fun j => bitOf y.gen j) then s else
      let flag : FlagDst := match n.2.flag with | some a => .localAt a | none => .none
      let s := s.updCmd id .coll x.ticket (fun y => { y with mask := y.mask + 2 ^ i })
      s.startReduce id (inflightOf (nodeTicket x.ticket i) s.now s.now s.timeFine flag (.reduce n.2)) n.2) s
/-- CRUN handed to the engine: `mask` holds the nodes begun, `gen` those completed, `page` the lowest one that failed. -/
def State.startCrun (s : State) (id : CoreId) (x : Inflight) (nodes : List (List Nat × RedBlk)) : State :=
  (s.addCmd id .coll { x with left := nodes.length, page := nodes.length }).startNodes id x nodes

/-- A node of a graph completed, its status area written: its flag, then the nodes that waited for it. -/
def State.nodeDone (s : State) (id : CoreId) (x : Inflight) : State :=
  let ticket := x.ticket % 2 ^ 32
  let node := x.ticket / 2 ^ 32 - 1
  let s := s.pair id (fun c => { c with colls := c.colls.filter (fun y => y.ticket != x.ticket) })
  let s := s.engFlags id x.flags
  let s := s.writeFlag id x.flag (resultWord ticket x.status)
  let s := s.updCmd id .coll ticket (fun y => { y with
    gen := y.gen + 2 ^ node
    left := y.left - 1
    due := Nat.max y.due s.now
    status := if x.status != 0 && decide (node < y.page) then x.status else y.status
    page := if x.status != 0 then Nat.min y.page node else y.page })
  match s.cmdOf id .coll ticket with
  | some y => (match y.cmd with | .crun nodes _ => s.startNodes id y nodes | _ => s)
  | none => s

/-- CABORT handed to the engine: it ends the reductions outstanding on its AGID, R224; the other members' take their time. -/
def State.startCabort (s : State) (id : CoreId) (x : Inflight) (agid : Nat) : State :=
  match s.core? (primOf id) with
  | none => s
  | some c =>
    if !s.outstanding c.ctx agid then s.addCmd id .coll { x with due := s.now } else
    let s := s.cores.foldl (fun s d =>
      if d.ctx != c.ctx || d.id.twin then s else
      d.colls.foldl (fun s y => if y.reduces agid then (s.lastChunk d.id y).endEarly d.id y 5 0 else s) s) s
    let s := s.tickFresh
    s.addCmd id .coll { x with due := s.now + Config.peerTime s.fresh }

/-- The oldest collective command, or a node of a graph, that has nothing left to do but complete. -/
def State.collReady (s : State) (c : Core) : Option Instr :=
  match c.colls.find? (fun x => decide (x.ticket ≥ 2 ^ 32) && s.ended x) with
  | some x => some (.collCompletion c.id x.ticket)
  | none =>
    match s.headDone c .coll with
    | some n => (match c.cmdOf .coll n with
      | some y => (match y.cmd with
        | .cagrp _ => some (.cagrpCompletion c.id n)
        | _ => some (.collCompletion c.id n))
      | none => none)
    | none => none

/-- COLL_COMPLETION: a collective command completes; its status area, bitmap and flag are written, at SYSTEM scope. One that
reaches a reduction still outstanding is the end that another member's CABORT gives it, R224. -/
def execCollCompletion (c : CoreId) (ticket : Nat) (s : State) : Out :=
  .next (match s.cmdOf c .coll ticket, s.core? (primOf c) with
  | some x, some d =>
    match x.cmd with
    | .reduce b =>
      if x.left != 0 then (s.lastChunk c x).endEarly c x 5 0 else
      let stale := ((s.agBind d.ctx b.agid).map (·.staledrop)).getD 0
      let record := match x.staddr with
        | some a => cellsAt a (redArea x b stale (ticket % 2 ^ 32))
        | none => []
      match s.record c .coll x record with
      | some s => s
      | none =>
        if ticket ≥ 2 ^ 32 then (s.nodeDone c x).agDrained d.ctx b.agid else
        ((s.engFlags c x.flags).complete c .coll x x.staddr.isSome).agDrained d.ctx b.agid
    | .crun _ resAt =>
      let record := cellsAt resAt (leBytes 8 (resultWord ticket x.status))
      (match s.record c .coll x record with
      | some s => s
      | none => s.complete c .coll x true)
    | _ => s.complete c .coll x false
  | _, _ => s)

end Sys2Proof.Machine
end

