-- ==== Sys2Proof/Machine/MmaArith.lean ====
section
/-! DEFINITION. The arithmetic of the joint matrix array (spec/06_matrix_arithmetic.md R132 to R140). -/

namespace Sys2Proof.Machine

/-- An element read by the array: its value, and whether it is the reserved code of TERN2 (R81). -/
structure Elem where
  v : Fv
  tern : Bool
  deriving DecidableEq, Repr

/-- An integer as a value. -/
def intFv (x : Int) : Fv := .num (decide (x < 0)) x.natAbs 0

/-- The element value of a code, before its row's factor, R79, R134. -/
def elemOf (fmt code : Nat) : Elem :=
  let int (w : Nat) : Elem := ⟨intFv (signedOf w code), false⟩
  let nat (w : Nat) : Elem := ⟨.num false (code % 2 ^ w) 0, false⟩
  let flt (f : FloatFmt) : Elem := ⟨decodeF f code, false⟩
  if fmt ≤ 6 then int (fmt + 2) else
  match fmt with
  | 7 => ⟨.num (code % 2 == 1) 1 0, false⟩
  | 8 => if code % 4 = 2 then ⟨.num false 0 0, true⟩ else int 2
  | 9 => int 2
  | 10 | 29 => int 4
  | 11 => nat 4
  | 12 | 30 => int 8
  | 13 => nat 8
  | 14 => int 16
  | 15 | 24 => flt fmtFp4
  | 16 | 25 => flt fmtFp6a
  | 17 | 26 => flt fmtFp6b
  | 18 | 27 => flt fmtFp8a
  | 19 | 28 => flt fmtFp8b
  | 20 => flt fmtFp16
  | 21 => flt fmtBf16
  | 22 => ⟨decodeF fmtFp19 (code / 2 ^ 13), false⟩
  | 23 => flt fmtFp32
  | _ => flt fmtFp64

/-- The factor of a row, R82, R83, R134; none when every element of the block reads as NaN. -/
def factorOf (fmt code : Nat) : Option Dy :=
  if fmt ≤ 6 then (if code = 0xFF then none else some ⟨1, (code : Int) - 127 - ((fmt : Int) + 1)⟩)
  else if 24 ≤ fmt ∧ fmt ≤ 30 then (sc8Value code).map (fun p => ⟨(p.1 : Int), p.2⟩)
  else some ⟨1, 0⟩

/-- A row of an operand tile: its elements and its factor. -/
structure TileRow where
  elems : List Elem
  factor : Option Dy
  deriving DecidableEq, Repr

/-- Row r of a tile in the ring layout of R133, from the tile's bytes: `rows` rows of k elements. -/
def tileRow (fmt k rows : Nat) (bytes : List Byte) (r : Nat) : TileRow :=
  let w := fmtBits fmt
  let rb := k * w / 8
  let n := leNat ((bytes.drop (r * rb)).take rb)
  let fline := 64 * ((rows * k * w + 511) / 512)
  ⟨(List.range k).map (fun j => elemOf fmt (n / 2 ^ (w * j) % 2 ^ w)),
   if fmtFactor fmt then factorOf fmt (nth bytes (fline + r) 0).toNat else some ⟨1, 0⟩⟩

/-- Whether a format is of the window class, R136. -/
def windowFormat (fmt : Nat) : Bool := fmt == 21 || fmt == 22 || fmt == 23 || fmt == 31

/-- The flags that matrix commands set, R84. -/
def mmaFlags (f : Flags) : Flags := f &&& (fNV ||| fOF ||| fACCSAT)
/-- A sum rounded to binary64 under RNE. -/
def round64 (d : Dy) : Nat × Flags := let r := roundDy fmtFp64 .rne false d; (r.1, mmaFlags r.2)

/-- floor(log2 |p|) of a number other than 0. -/
def Dy.top (d : Dy) : Int := (bitLen d.m.natAbs : Int) - 1 + d.e
/-- A number truncated toward zero to a multiple of 2^q, as that multiple, and whether it is none. -/
def Dy.truncAt (d : Dy) (q : Int) : Int × Bool :=
  if q ≤ d.e then (d.at q, false) else
  let k := (2 : Int) ^ (q - d.e).toNat
  (Int.tdiv d.m k, Int.tmod d.m k != 0)

/-- The partial of a window-class slice from its exact products, R136. -/
def windowSum (w : Nat) (ps : List Dy) : Nat × Flags :=
  let nz := ps.filter (fun p => p.m != 0)
  match nz with
  | [] => (0, 0)
  | p :: t =>
    let emax := t.foldl (fun m p => if m < p.top then p.top else m) p.top
    let q := emax - w
    let ts := nz.map (fun p => p.truncAt q)
    let sum : Int := ts.foldl (fun a x => a + x.1) 0
    let sticky := ts.any (·.2)
    if sum = 0 then (0, 0)
    else if sticky then round64 ⟨4 * sum + (if sum > 0 then 1 else -1), q - 2⟩
    else round64 ⟨sum, q⟩

/-- The sign of an infinite product. -/
def prodSign (a b : Fv) : Bool :=
  let neg (v : Fv) : Bool := match v with | .num n _ _ => n | .inf n => n | .nan _ => false
  neg a != neg b

/-- The special cases of a slice, R137, in the order of its table. -/
def sliceSpecial (ps : List (Elem × Elem)) (blockNan : Bool) : Option (Nat × Flags) :=
  let nan := (fmtFp64.nanCode, fNV)
  let infs := ps.filter (fun p => (p.1.v.isInf && !p.2.v.isZero) || (p.2.v.isInf && !p.1.v.isZero))
  if blockNan || ps.any (fun p => p.1.v.isNan || p.2.v.isNan) then
    some (fmtFp64.nanCode, fIf (ps.any (fun p => p.1.v.isSig || p.2.v.isSig)) fNV)
  else if ps.any (fun p => (p.1.v.isInf && p.2.v.isZero) || (p.1.v.isZero && p.2.v.isInf)) then some nan
  else if infs.isEmpty then none
  else if infs.all (fun p => prodSign p.1.v p.2.v) then some (fmtFp64.infCode true, 0)
  else if infs.all (fun p => !prodSign p.1.v p.2.v) then some (fmtFp64.infCode false, 0)
  else some nan

/-- An integer held to the int64 range, with ACCSAT when it leaves it, as its 64-bit pattern. -/
def satInt64 (x : Int) : Nat × Flags :=
  if x > 2 ^ 63 - 1 then (2 ^ 63 - 1, fACCSAT)
  else if x < -(2 : Int) ^ 63 then (2 ^ 63, fACCSAT)
  else (intCode 64 x, 0)

/-- The partial of one member for one output, R134 to R137. -/
def sliceSum (acci : Bool) (fmtA fmtB : Nat) (a b : TileRow) : Nat × Flags :=
  let ps := a.elems.zip b.elems
  let tern := fIf (ps.any (fun p => p.1.tern || p.2.tern)) fNV
  let r : Nat × Flags :=
    match sliceSpecial ps (a.factor.isNone || b.factor.isNone) with
    | some r => r
    | none =>
      let f := (a.factor.getD ⟨1, 0⟩).mul (b.factor.getD ⟨1, 0⟩)
      if windowFormat fmtA || windowFormat fmtB then
        windowSum (if fmtA = 31 || fmtB = 31 then 220 else 160) (ps.map (fun p => (p.1.v.dy.mul p.2.v.dy).mul f))
      else
        let s : Dy := ps.foldl (fun (acc : Dy) p => acc.add (p.1.v.dy.mul p.2.v.dy)) (Dy.mk 0 0)
        if acci then satInt64 (s.at 0) else round64 (s.mul f)
  (r.1, r.2 ||| tern)

/-- One addition of the tree or into the accumulator, R138. -/
def accAdd (acci : Bool) (a b : Nat) : Nat × Flags :=
  if acci then satInt64 (signedOf 64 a + signedOf 64 b)
  else let r := fadd fmtFp64 .rne a b; (r.1, mmaFlags r.2)

/-- The balanced tree over the partials in member order, by levels, R138. -/
def accTree (acci : Bool) : Nat → List (Nat × Flags) → Nat × Flags
  | 0, l => match l with | [] => (0, 0) | x :: _ => x
  | n + 1, l =>
    let h := 2 ^ n
    if l.length ≤ h then accTree acci n l else
    let x := accTree acci n (l.take h)
    let y := accTree acci n (l.drop h)
    let r := accAdd acci x.1 y.1
    (r.1, r.2 ||| x.2 ||| y.2)

/-- ⌈log2 G⌉ of a gang of 1, 2, 4 or 8. -/
def log2Up (g : Nat) : Nat := if g ≤ 1 then 0 else if g ≤ 2 then 1 else if g ≤ 4 then 2 else 3

/-- A, the accumulation cycles of an output of m by n elements, 16 a cycle, R140. -/
def accCycles (m n : Nat) : Nat := (m * n + 15) / 16
/-- max(C, A), the cycles by which successive commands complete apart, R140. -/
def mmaBound (m n ks fmtA fmtB : Nat) : Nat :=
  let p := fmtPasses fmtA * ((fmtPasses fmtB + 7) / 8)
  Nat.max ((m * n * ks * p + 8191) / 8192) (accCycles m n)
/-- The fixed part of T_mma. -/
def mmaFixed (g : Nat) : Nat := 30 + 6 * log2Up g

end Sys2Proof.Machine
end

