-- ==== Sys2Proof/Machine/MmaEngine.lean ====
section
/-! DEFINITION. The matrix engine at work: the gang barrier, the start and the completion of a gang command
(spec/06_matrix_arithmetic.md R138, R140, R143, R144). -/

namespace Sys2Proof.Machine

/-- The members of a gang, in member order, in one of the twins. -/
def State.gangCores (s : State) (lh g : Nat) (twin : Bool) : List (Option Core) :=
  let size := Nat.max 1 (s.recOf lh).gang
  (List.range size).map (fun m => s.core? ⟨lh, g * size + m, twin⟩)
/-- The n-th matrix command of a core, while it is in flight. -/
def Core.mmaOf (c : Core) (n : Nat) : Option MmaCmd := c.mma.find? (fun x => x.n == n)

/-- The lines that the commands before the n-th claim in a ring. -/
def Core.claimedBefore (c : Core) (n ring : Nat) : Nat :=
  (c.mma.filter (fun x => decide (x.n < n))).foldl (fun k x =>
    k + (if opRingA x.opw == ring then x.linesA else 0) + (if opRingB x.opw == ring then x.linesB else 0)) 0
/-- The place, in lines behind the head, of the claims of a command: of its A tile and of its B tile, R143; lines released behind
claimed ones lie between (log entry 38). -/
def Core.claimAt (c : Core) (x : MmaCmd) : Nat × Nat :=
  let past (ring k : Nat) : Nat :=
    let r := ringAt c.erings ring
    if r.gap != 0 && decide (r.gapAt ≤ k) then k + r.gap else k
  let a := past (opRingA x.opw) (c.claimedBefore x.n (opRingA x.opw))
  let b := if opRingA x.opw == opRingB x.opw then a + x.linesA
    else past (opRingB x.opw) (c.claimedBefore x.n (opRingB x.opw))
  (a, b)
/-- Whether the lines that a command claims are committed. -/
def Core.linesReady (c : Core) (x : MmaCmd) : Bool :=
  let p := c.claimAt x
  decide (p.1 + x.linesA ≤ (ringAt c.erings (opRingA x.opw)).held) &&
  decide (p.2 + x.linesB ≤ (ringAt c.erings (opRingB x.opw)).held)

/-- Whether the n-th gang command can start: every member has issued it and its lines are committed, and the one before it has
started, R143. -/
def State.gangReady (s : State) (lh g n : Nat) (twin : Bool) : Bool :=
  (s.gangCores lh g twin).all (fun o => match o with
    | none => false
    | some c => match c.mmaOf n with
      | none => false
      | some x => x.started.isNone && !c.gone && c.linesReady x &&
          c.mma.all (fun y => decide (n ≤ y.n) || y.started.isSome))

/-- Whether the members agree on what they compute, R143. -/
def agree : List (MmaCmd) → Bool
  | [] => true
  | x :: t => t.all (fun y => dRows y.dC == dRows x.dC && dCols y.dC == dCols x.dC && dKslice y.dA == dKslice x.dA &&
      dFmt y.dA == dFmt x.dA && dFmt y.dB == dFmt x.dB && dAcci y.dC == dAcci x.dC)

/-- The commands of a gang's members for one number. -/
def State.gangCmds (s : State) (lh g n : Nat) (twin : Bool) : List (Core × MmaCmd) :=
  (s.gangCores lh g twin).filterMap (fun o => o.bind (fun c => (c.mmaOf n).map (fun x => (c, x))))

/-- The cycle in which the last of a command's lines had been committed at a member, of those committed since the oldest work that still
drains. -/
def Core.linesSince (c : Core) (x : MmaCmd) : Nat :=
  let p := c.claimAt x
  Nat.max (c.readyBy (opRingA x.opw) (p.1 + x.linesA)) (c.readyBy (opRingB x.opw) (p.2 + x.linesB))
/-- A gang command started, R140, R143: its start is the last of its members' commits and of the commits of its lines; its completion cycle is
that of R140 when no other requester lengthens the accumulation, which may begin with the array's work; the last command of the gang completes
before it. -/
def State.startGang (s : State) (lh g n : Nat) (twin : Bool) : State :=
  if !s.gangReady lh g n twin then s else
  let cs := s.gangCmds lh g n twin
  match cs with
  | [] => s
  | (c, x) :: _ =>
    let fresh := cs.any (fun p => p.2.drained == s.now)
    let start := if fresh then cs.foldl (fun m p => Nat.max m (Nat.max p.2.at_ (p.1.linesSince p.2))) 0 else s.now
    let same := agree (cs.map (·.2))
    let bound := if same then mmaBound (dRows x.dC) (dCols x.dC) (dKslice x.dA) (dFmt x.dA) (dFmt x.dB) else 0
    let prev := c.mma.foldl (fun m y => if y.n < n then Nat.max m (y.started.getD 0) else m) 0
    let due := Nat.max (s.now + 1) (Nat.max (start + mmaFixed cs.length + bound) (prev + bound))
    let ids := cs.map (fun p => p.1.id)
    let s := s.mapCores (fun d => ids.contains d.id) (fun d =>
      { d with mma := d.mma.map (fun y => if y.n == n then { y with started := some due, next := due - bound } else y) })
    s.sched due false (.mmaCompletion lh g n)

/-- MMA_GANG_START: every member has issued the command and its claimed lines are committed. -/
def execMmaGangStart (lh gang n : Nat) (s : State) : Out := .next ((s.startGang lh gang n false).startGang lh gang n true)

/-- The bytes of a claimed tile: lines from a place behind the head. -/
def Core.claimBytes (c : Core) (ring off lines : Nat) : List Byte :=
  let r := ringAt c.erings ring
  (List.range lines).flatMap (fun i => c.mem.getN (r.lineAt (off + i)) 64)

/-- What one member brings to a command: the rows of its tiles. -/
def Core.tiles (c : Core) (x : MmaCmd) : List TileRow × List TileRow :=
  let p := c.claimAt x
  let k := dKslice x.dA
  let a := c.claimBytes (opRingA x.opw) p.1 x.linesA
  let b := c.claimBytes (opRingB x.opw) p.2 x.linesB
  ((List.range (dRows x.dC)).map (tileRow (dFmt x.dA) k (dRows x.dC) a),
   (List.range (dCols x.dC)).map (tileRow (dFmt x.dB) k (dCols x.dC) b))

/-- One accumulator element of a gang command: the tree of the members' partials, added to the element by the adder of its bank, R135 to
R138. -/
def gangElem (lead : Core) (x : MmaCmd) (ts : List (List TileRow × List TileRow)) (i j : Nat) : List Host.Cell × Flags :=
  let acci := dAcci x.dC
  let none_ : TileRow := ⟨[], some ⟨1, 0⟩⟩
  let ps := ts.map (fun t => sliceSum acci (dFmt x.dA) (dFmt x.dB) (nth t.1 i none_) (nth t.2 j none_))
  let tree := accTree acci 3 ps
  let at_ := x.acc.toNat + i * dStride x.dC + 8 * j
  let r := if x.zero then tree else
    let e := accAdd acci (lead.mem.num at_ 8) tree.1
    (e.1, e.2 ||| tree.2)
  (cellsAt at_ (leBytes 8 r.1), r.2)
/-- The elements of one group of 16, in row-major order: their rows and columns. -/
def MmaCmd.group (x : MmaCmd) (n : Nat) : List (Nat × Nat) :=
  let cols := dCols x.dC
  ((List.range 16).map (fun i => ((16 * n + i) / cols, (16 * n + i) % cols))).filter (fun p => decide (p.1 < dRows x.dC))
/-- What the adders write for a group of elements, with their flags. -/
def gangPart (lead : Core) (x : MmaCmd) (members : List (Core × MmaCmd)) (n : Nat) : List Host.Cell × Flags :=
  let ts := members.map (fun p => p.1.tiles p.2)
  let rs := (x.group n).map (fun p => gangElem lead x ts p.1 p.2)
  (rs.flatMap (·.1), fAll (rs.map (·.2)))
/-- The groups of elements that a gang command writes: none when its members do not agree, R143. -/
def partsOf (all : List (Core × MmaCmd)) : Nat :=
  match all with
  | [] => 0
  | (_, x) :: _ => if agree (all.map (·.2)) then accCycles (dRows x.dC) (dCols x.dC) else 0

/-- The group of 16 accumulator elements that a leader's adders write in this cycle, for its oldest command that has started, R18, R138,
R140: the adders are dynamic requesters, so that a group waits while another requester has one of its banks (R15); the groups come in
row-major order, the last before the command's completion (log entry 94). In an Umbra launch the first write of a 256-byte line is held,
R358. -/
def State.addPart (s : State) (id : CoreId) (gang : Nat) : State :=
  match (s.core? id).bind (fun c => c.mma.head?) with
  | none => s
  | some y =>
    let all := s.gangCmds id.lh (id.lc / gang) y.n id.twin
    match all with
    | [] => s
    | (lead, x) :: _ =>
      if x.started.isNone || decide (s.now < x.next) || decide (partsOf all ≤ x.part) then s else
      let w := gangPart lead x all x.part
      let upd (s : State) (f : MmaCmd → MmaCmd) : State :=
        s.updCore id (fun c => { c with mma := c.mma.map (fun z => if z.n = x.n then f z else z) })
      if w.1.any (fun p => s.bankBusy lead p.1) then s else
      match s.undoHold id.lh (fun c => c.id == id) (w.1.map (·.1)) with
      | some s => upd s (fun z => { z with next := s.now + 4 })
      | none =>
        upd ((w.1.foldl (fun s p => s.useBank id p.1) s).updCore id (fun c => c.poke (s.umbra id.lh) w.1))
          (fun z => { z with part := z.part + 1, next := s.now + 1, flags := z.flags ||| w.2 })
/-- The adders of every leader in this cycle. -/
def State.addParts (s : State) : State :=
  (s.cores.filter (fun c => (c.mma.any (fun x => x.started.isSome)) && c.id.lc % Nat.max 1 (s.recOf c.id.lh).gang == 0)).foldl
    (fun s c => if s.withheld c.die then s else s.addPart c.id (Nat.max 1 (s.recOf c.id.lh).gang)) s

/-- The next line of its tiles that a member's engine reads, in ring order. -/
def Core.tileLine (c : Core) (x : MmaCmd) : Nat :=
  let p := c.claimAt x
  if x.rd < x.linesA then (ringAt c.erings (opRingA x.opw)).lineAt (p.1 + x.rd)
  else (ringAt c.erings (opRingB x.opw)).lineAt (p.2 + (x.rd - x.linesA))
/-- The reads of the tiles of a member's oldest commands that have started, in this cycle: up to 16 lines, each from a bank that no other
requester takes, R14. -/
def State.readTiles (s : State) (id : CoreId) : State :=
  (List.range 16).foldl (fun s _ => match s.core? id with
    | none => s
    | some c => match c.mma.find? (fun x => x.started.isSome && decide (x.rd < x.linesA + x.linesB)) with
      | none => s
      | some x =>
        let a := c.tileLine x
        if s.bankBusy c a then s else
        (s.useBank id a).updCore id (fun c => { c with mma := c.mma.map (fun z => if z.n = x.n then { z with rd := z.rd + 1 } else z) })) s
/-- The tile reads of every member in this cycle, behind every other access. -/
def State.tileReads (s : State) : State :=
  (s.cores.filter (fun c => c.mma.any (fun x => x.started.isSome))).foldl (fun s c => if s.withheld c.die then s else s.readTiles c.id) s

/-- One gang command completed in one of the twins, once its accumulator is written and the commands before it have completed: the claims popped, ESEQ[1] advanced in every
member, and the flags given to the leader, R143, R144. -/
def State.completeGang (s : State) (lh g n : Nat) (twin : Bool) : State :=
  match s.gangCmds lh g n twin with
  | [] => s
  | (lead, x) :: rest =>
    match x.started with
    | none => s
    | some due =>
      let all := (lead, x) :: rest
      if s.now < due then s.schedOnce due false (.mmaCompletion lh g n)
      else if all.any (fun p => (p.1.mma.head?.map (·.n)) != some n) then s.schedOnce (s.now + 1) false (.mmaCompletion lh g n)
      else if x.part < partsOf all then s.schedOnce (s.now + 1) false (.mmaCompletion lh g n) else
      let same := agree (all.map (·.2))
      let s := s.updCore lead.id (fun c => c.engineFlags s.now x.flags)
      all.foldl (fun s p =>
        let y := p.2
        let s := s.updCore p.1.id (fun c =>
          let c1 := c.engRing (opRingA y.opw) (fun r => r.popClaim y.linesA)
          let c2 := c1.engRing (opRingB y.opw) (fun r => r.popClaim y.linesB)
          { c2 with
            mma := c2.mma.filter (fun z => z.n != n)
            eseq := c2.eseq.set (clsIx .mma) n
            mmaLast := if same then 0 else 1
            mmaErr := c2.mmaErr || !same
            mmaFail := if !same && !c2.mmaErr then n else c2.mmaFail })
        (s.trace p.1.id 2 (0x200 + clsPath .mma) (wd (resultWord n (if same then 0 else 1)))).snapAgain p.1.id) s

/-- MMA_COMPLETION: the leader's last accumulator write is done. -/
def execMmaCompletion (lh gang n : Nat) (s : State) : Out :=
  .next ((s.completeGang lh gang n false).completeGang lh gang n true)

/-- The first gang command of a launch that can start, for a core and its twin. -/
def State.gangWaiting (s : State) (c : Core) : Option Instr :=
  let size := Nat.max 1 (s.recOf c.id.lh).gang
  let g := c.id.lc / size
  match c.mma.find? (fun x => x.started.isNone) with
  | some x => if s.gangReady c.id.lh g x.n c.id.twin then some (.mmaGangStart c.id.lh g x.n) else none
  | none => none

/-- A matrix command handed to the engine. -/
def State.startMma (s : State) (id : CoreId) (d : Drain) (zero : Bool) (acc opw : Word) (dA dB dC : BitVec 256) : State :=
  let la := tileLines (dRows dC) (dKslice dA) (dFmt dA)
  let lb := tileLines (dCols dC) (dKslice dB) (dFmt dB)
  s.updCore id (fun c => { c with mma := c.mma ++ [MmaCmd.mk d.ticket d.base s.now zero acc opw dA dB dC la lb 0 none 0 0 0] })

end Sys2Proof.Machine
end

