-- ==== Sys2Proof/Machine/Kill.lean ====
section
/-! DEFINITION. The end of a launch: its completion record, LQDONE and flag (spec/11_progress.md R240), the kill (R250), and
what the end of a core leaves behind (spec/16_isolation.md R321; spec/12_isa_flow_sync.md R269, R271). -/

namespace Sys2Proof.Machine

/-- The codes of R240. -/
def stOk : Nat := 0
/-- REJECTED. -/
def stRejected : Nat := 1
/-- LOADFAIL. -/
def stLoadFail : Nat := 2
/-- KILLED. -/
def stKilled : Nat := 3
/-- CTXCORRUPT. -/
def stCtxCorrupt : Nat := 4
/-- CANCELLED. -/
def stCancelled : Nat := 5

/-- The cycles that the firmware takes to act, a free value within 1 µs (log entry 53). -/
def actTime (n : Nat) : Nat := 1 + Config.firmwareTime n % cyclesIn 1000
/-- The waiting launches considered by the firmware in a cycle, R242. -/
def State.lookAt (s : State) (at_ : Nat) : State :=
  s.launches.foldl (fun s l => match l.status with
    | .taken | .eligible => s.sched at_ true (.launchEligible l.h)
    | .started => if l.vacatedCores.isEmpty then s else s.sched at_ true (.launchEligible l.h)
    | .complete _ => s) s
/-- The waiting launches considered again by the firmware. -/
def State.kick (s : State) : State := let s := s.tickFresh; s.lookAt (s.now + actTime s.fresh)
/-- The waiting launches considered again at once: as cores enter EMPTY, so that the bound of R259 on a request that has waited for a save is
kept, and as the scrub of some cores completes (R321). -/
def State.freed (s : State) : State := s.lookAt s.now
/-- The waiting launches considered again in the cycle in which the scrub of an EMPTY core completes. -/
def State.cleaned (s : State) : State :=
  if s.phys.any (fun p => p.2.scrubbed == s.now && (s.slotRec p.1).state == .empty) || s.mgmt.dieScrub.toList.contains s.now then s.freed else s

/-- Whether the record of a sequence of a queue has completed. -/
def State.seqDone (s : State) (q seq : Nat) : Bool :=
  s.launches.any (fun l => l.queue == q && l.seq == seq && (match l.status with | .complete _ => true | _ => false))
/-- The largest n from a start such that every record up to it has completed. -/
def State.doneFrom (s : State) (q : Nat) : Nat → Nat → Nat
  | 0, n => n
  | k + 1, n => if s.seqDone q (n + 1) then s.doneFrom q k (n + 1) else n

/-- The flag word of a completed record, when it asks for one, R240. -/
def State.launchFlag (s : State) (l : Launch) : State :=
  match l.status with
  | .complete status =>
    if !l.lrec.flagEn then s else s.ctxWrite l.ctx l.lrec.flagAddr (leBytes 8 (l.seq % 2 ^ 56 + status * 2 ^ 56)) 0
  | _ => s
/-- LQDONE of a queue advanced over the records that have completed, and their flag words written in order, R240. -/
def State.advanceDone (s : State) (q : Nat) : State :=
  let old := (s.queue q).done.toNat
  let new := s.doneFrom q s.launches.length old
  let s := s.updQueue q (fun k => { k with done := wd new })
  (List.range (new - old)).foldl (fun s i =>
    match s.launches.find? (fun l => l.queue == q && l.seq == old + 1 + i) with
    | some l => s.launchFlag l
    | none => s) s

/-- A launch completed with a status: the completion record, LQDONE once every earlier record has completed, and the flag word after it,
R34, R240. A record of a queue's former life has no LQDONE to wait for. -/
def State.completeLaunch (s : State) (lh status : Nat) : State :=
  match s.launch? lh with
  | none => s
  | some l =>
    match l.status with
    | .complete _ => s
    | _ =>
      let s := s.updLaunch lh (fun l => { l with status := .complete status })
      let s := { s with
        completions := s.completions ++ [(l.queue % 64, l.seq, status)]
        requests := s.requests.filter (fun r => r.lh != lh) }
      (if l.queue ≥ 64 then s.launchFlag { l with status := .complete status } else s.advanceDone l.queue).kick

/-- The mutexes of the cores that a test names released and granted to the next requester, and their requests withdrawn, R271. -/
def State.releaseMutexes (s : State) (p : Nat × Nat → Bool) : State :=
  { s with evsets := s.evsets.map (fun e => { e with mutexes := e.mutexes.map (fun m =>
      let m := { m with queue := m.queue.filter (fun k => !p k) }
      match m.holder with
      | some k => if p k then m.grant else m
      | none => m) }) }

/-- Whether a core's physical core is bound to it, R243. -/
def State.seated (s : State) (c : Core) : Bool :=
  let r := s.slotRec c.slot
  r.state != .empty && r.lhandle == c.id.lh && r.lcore == c.id.lc

/-- Whether a vacated core holds a mutex of a set, R269. -/
def State.heldByVacated (s : State) (e : EvSet) : Bool :=
  e.mutexes.toList.any (fun m => match m.holder with
    | some k => s.cores.any (fun c => c.key == k && c.ctx == e.ctx && c.run == .vacated)
    | none => false)
/-- The sets of lines of contexts that have left the cluster dropped, with what launches would undo in them, unless a vacated core holds one of their mutexes, R269. -/
def State.pruneEvents (s : State) : State :=
  let stays (e : EvSet) : Bool :=
    s.cores.any (fun c => c.run != .vacated && c.run != .empty && (c.run != .halted || s.seated c) && !c.id.twin &&
      c.cluster == e.cluster && c.ctx == e.ctx) || s.heldByVacated e
  let sets := s.evsets.filter stays
  { s with
    evsets := sets
    launches := s.launches.map (fun l => if l.evs.isEmpty then l else
      { l with evs := l.evs.filter (fun d => sets.any (fun e => e.cluster == d.cluster && e.ctx == l.ctx)) }) }

/-- Logical cores ended: their cores dropped, the physical cores that they hold scrubbed into EMPTY, R243, R321. -/
def State.dropCores (s : State) (p : Core → Bool) : State :=
  let gone := s.cores.filter p
  let left := s.cores.filter (fun c => !p c)
  let s := match left with
    | [] => { s with core := Core.empty, others := [] }
    | c :: t => { s with core := c, others := t }
  gone.foldl (fun s c => if c.run == .vacated || !s.seated c then s else
    s.enterEmpty c.slot) s

/-- A core of a killed launch that leaves its physical core through SAVING: it has nothing left to do (R243, R248). -/
def Core.hushed (c : Core) : Core :=
  { c with drainq := [], mirror := [], mma := [], copies := [], shfs := [], colls := [], scan := Scan.idle, flights := [], stops := [], forwards := [] }

/-- A launch killed: every core stopped and its region discarded, pending commands dropped, scratchpads scrubbed; the record
completes KILLED, or with the status given, R249, R250. Cores in VACATE and SAVING reach EMPTY through their saves, which always complete
(R243, R248); one in BIND is never dispatched (log entry 53). -/
def State.killLaunchWith (s : State) (lh status : Nat) : State :=
  let leaving (c : Core) : Bool := c.run == .stopping || c.run == .saving || (s.seated c && (s.slotRec c.slot).state == .vacate)
  let s := s.releaseMutexes (fun k => k.1 == lh)
  let s := s.dropCores (fun c => c.id.lh == lh && !leaving c)
  let s := s.mapCores (fun c => c.id.lh == lh) (fun c => { c.hushed with run := if c.run == .saving then .saving else .stopping, snapD := none })
  let held := (s.slots.filter (fun p => p.2.lhandle == lh && (p.2.state == .bind || p.2.state == .run))).map (·.1)
  let s := held.foldl (fun s ix => s.enterEmpty ix) s
  let s := { s with
    agenda := s.agenda.filter (fun d => match d.ev with | .dispatch ix => !held.contains ix | _ => true)
    packets := s.packets.filter (fun p => p.lh != lh)
    tlines := s.tlines.filter (fun t => t.core.lh != lh)
    delivs := s.delivs.filter (fun d => d.core.lh != lh)
    accs := s.accs.filter (fun a => a.core.lh != lh)
    tours := s.tours.filter (fun t => t.core.lh != lh)
    saved := s.saved.filter (fun v => v.lhandle != lh || s.cores.any (fun c => c.id == v.id)) }
  (s.pruneEvents.completeLaunch lh status).freed

/-- A launch killed with status KILLED. -/
def State.killLaunch (s : State) (lh : Nat) : State := s.killLaunchWith lh stKilled

/-! ### Rolling an Umbra launch back, R360 -/

/-- A core put back into its snapshot image; its own undo lines are written back. CYCLE returns with the image's REGS; trace records are
never undone, and so their sequence goes on (log entry 47). -/
def Core.rolledBack (c : Core) : Core :=
  match c.image with
  | none => c
  | some m =>
    let mem := c.undo.foldl (fun mem (u : Nat × List Byte) => mem.setN (256 * u.1) u.2) c.mem
    { c with
      pc := m.pc, regpc := m.pc, regcnt := 0, arch := m.arch, ckpt := m.arch, skip := false
      cause := m.cause, tval := m.tval, epc := m.epc, trapvec := m.trapvec, reglim := m.reglim, cycles := m.cycles
      traceBase := m.traceBase, traceXb := m.traceXb, slotFirst := m.slotFirst, slotCount := m.slotCount, slaved := m.slaved
      mmaErr := m.mmaErr, mmaFail := m.mmaFail, mmaLast := m.mmaLast
      anchor := none, anchored := false, iseq := c.iseq + 2, flights := [], bankUse := [], mem := mem, sbuf := [], drainq := []
      rings := m.rings, erings := m.rings, tails := [], eseq := m.eseq, issued := m.issued, window := none
      drainHold := false, forwards := [], mma := [], copies := [], shfs := [], colls := [], graphs := m.graphs
      stops := m.stops, tours := m.tours, scan := m.scan, armed := m.armed, log := [], arrivedAt := m.arrivedAt, credits := m.credits
      ownItins := m.ownItins, seen := [], loadAfter := [], snapD := none, atom := none
      undo := [], undoSent := 0, staged := [], stagedBytes := 0, mirror := []
      failed := c.failed.filter (fun f => decide (f.2.1 ≤ m.eseq[clsIx f.1])) }

/-- A rollback begun, R360: every core stops and discards its region, and the messages on their way to the launch are dropped; the commands
that its engines have go on while the cores stop, within the T_stop of R259, a free value (log entry 47). The fourth in one epoch kills the
launch; one that is being rolled back, or is to be killed, is left alone. -/
def State.rollback (s : State) (lh : Nat) : State :=
  match s.launch? lh with
  | none => s
  | some l =>
    if l.doomed.isSome || l.rolling.isSome then s
    else if l.rollbacks ≥ 3 then s.killLaunch lh else
    let s := s.tickFresh
    let s := { s with
      packets := s.packets.filter (fun p => p.lh != lh)
      saved := s.saved.map (fun (v : Saved) => if v.lhandle == lh then { v with kept := [] } else v) }
    let s := s.mapCores (fun c => c.id.lh == lh) (fun c =>
      let c := { c with loadAfter := [], snapD := none }
      if c.resident then { c.discard with run := .rolling, forwards := [] } else c)
    s.updLaunch lh (fun l => { l with
      snapFiring := false, rollbacks := l.rollbacks + 1, rolled := false
      rolling := some (s.timeFine + Config.stopTime s.fresh % fineOf 990) })

/-- Whether a step of the agenda belongs to the work of a launch that a rollback undoes. -/
def undoneBy (lh : Nat) : Instr → Bool
  | .mmaGangStart h _ _ | .mmaCompletion h _ _ | .groupBarrierFire h _ | .snapFire h | .mirrorItemCompare h _ | .mirrorHashMismatch h _
  | .mirrorHashTimeout h _ | .mirrorResyncComplete h _ => h == lh
  | .copyCompletion c _ | .scanCommandCompletion c | .carryDelivery c | .cagrpCompletion c _ | .cagrpDrainExpiry c _ | .reductionStart c _ _
  | .chunkWrite c _ _ | .collCompletion c _ | .memberAbsent c _ _ | .sheafCommandCompletion c _ | .scopeAcknowledgement c
  | .regionReentry c | .rewalk c _ => c.lh == lh
  | _ => false

/-- A detected error that concerns committed work, R365: it rolls an Umbra launch back, and kills any other. -/
def State.failCommitted (s : State) (lh : Nat) : State := if s.umbra lh then s.rollback lh else s.killLaunch lh

/-- Every launch of a context killed, R249, R322. -/
def State.killContext (s : State) (ctx : Nat) : State :=
  (s.launches.filter (fun l => l.ctx == ctx)).foldl (fun s l => match l.status with
    | .complete _ => s
    | _ => s.killLaunch l.h) s

end Sys2Proof.Machine
end

