-- ==== Sys2Proof/Machine/Sheaf.lean ====
section
/-! DEFINITION. The SHEAF and SCAN instructions as they check, buffer and commit (spec/12_isa_flow_sync.md R281 to R293). -/

namespace Sys2Proof.Machine

/-! ### Itineraries, R282 -/

/-- An itinerary of the format of R70, from its 72 bytes. -/
def itinOf (b : List Byte) : Itin :=
  ⟨blkField b 2 2, (List.range (blkField b 0 2)).map (fun i => (blkField b (8 + 4 * i) 2, blkField b (10 + 4 * i) 1))⟩
/-- The limits of an itinerary record, R282; unused stops are 0 (R70). -/
def itinOk (b : List Byte) (grid : Nat) : Bool :=
  let n := blkField b 0 2
  let it := itinOf b
  decide (1 ≤ n) && decide (n ≤ 16) && decide (1 ≤ it.hold) && blkZero b 4 4 &&
  (List.range 16).all (fun i => blkField b (11 + 4 * i) 1 == 0) && blkZero b (8 + 4 * n) (64 - 4 * n) &&
  it.stops.all (fun p => decide (p.1 < grid) && decide (p.2 ≤ 7)) &&
  decide ((it.stops.map (·.1)).Nodup)
/-- Whether a tour that has not ended uses an entry. -/
def State.itinBusy (s : State) (lh ix : Nat) : Bool := s.tours.any (fun t => t.core.lh == lh && t.ix == ix && !t.ended)

/-- SHF.ITIN. -/
def execShfItin (r : R3) (s : State) : Out :=
  s.ecmd r (fun c x y => do
    need (decide (y.toNat < 256)) .access 0xC8
    need (decide (x.toNat % 8 = 0)) .misalign x
    need (decide (x.toNat + 72 ≤ lmemSize)) .localrange x
    let b := c.bytesAt x.toNat 72
    need (itinOk b (s.gridOf c)) .access 0xC8
    need (!s.itinBusy c.id.lh y.toNat) .access 0xC9
    .ok (.shfItin y.toNat (itinOf b)))

/-- SHF.HOLD. -/
def execShfHold (r : R3) (s : State) : Out :=
  s.ecmd r (fun c x y => do
    need (decide (x.toNat < 256)) .access 0xC8
    need (s.itinView x.toNat).isSome .access 0xC2
    need (decide (1 ≤ y.toNat) && decide (y.toNat ≤ 65535)) .access 0xC8
    need (!s.itinBusy c.id.lh x.toNat) .access 0xC9
    .ok (.shfHold x.toNat y.toNat))

/-! ### Tours, R283 to R288 -/

/-- SHF.READ. -/
def execShfRead (r : R3) (s : State) : Out :=
  s.ecmd r (fun _ x y => do
    let d ← s.checkTensor x false
    need (decide (y.toNat < 256)) .access 0xC1
    match s.itinView y.toNat with
    | none => access 0xC2
    | some it => .ok (.shfRead x d y.toNat it))

/-- The ring that an instruction names, R284. -/
def ringArg (x : Word) : Res Nat := do
  need (decide (x.toNat < 8)) .access 0xCA
  .ok x.toNat

/-- SHF.TAKE. -/
def execShfTake (r : R2) (s : State) : Out :=
  s.runWait (fun s => do
    let (c, x) ← s.core.srcA r.a r.la
    let n ← ringArg x
    (s.withCore c).sleep (.take n r.d))

/-- The releases of a ring that have committed and are still to act: those of a mirror launch, which wait to be compared, and those behind a
FENCE.X; any other acts at its commit. -/
def State.relsPending (s : State) (c : Core) (n : Nat) : Nat :=
  ((c.drainq ++ c.mirror.map (·.item)).filter (fun d => match d.item with
    | .cmd _ _ (.shfRel m) => m == n && ((s.recOf c.id.lh).mirror || c.unreleased d.ticket)
    | _ => false)).length
/-- Whether a release waits to be drained: in a mirror launch for the comparison (R362), elsewhere behind a FENCE.X whose consumer is the SHEAF
path (R169). -/
def State.relWaits (s : State) (c : Core) : Bool :=
  (s.recOf c.id.lh).mirror || c.drainq.any (fun d => match d.item with | .fence f => f.sheaf | _ => false)
/-- SHF.REL: the region commits with the release as its last command, R285, R297. -/
def execShfRel (r : R2) (s : State) : Out :=
  s.run (do
    s.marker
    let (c, x) ← s.core.srcA r.a r.la
    let n ← ringArg x
    need (decide (s.relsPending c n < (c.takenRecs n).length)) .access 0xC3
    let c' ← c.command r.d (.shfRel n)
    let s1 ← (s.withCore (c'.advance s.now wordSize)).commit true
    let s2 := if s1.relWaits s1.core then s1 else s1.release c.id s1.core.issued[clsIx .sheaf] n
    .ok (s2.withCore (s2.core.openRegion s2.core.pc)))

/-- The code of a stop's state, R287. -/
def TourStop.code : TourStop → Nat
  | .pending => 0
  | .served => 1
  | .deferred => 2
  | .missed => 3
/-- The tour word of R287. -/
def Tour.word (t : Tour) : Word :=
  wd (nbit t.ended * 2 ^ 63 + nbit t.parked * 2 ^ 62 + Nat.min t.parkrd 15 * 2 ^ 52 + nbit t.read * 2 ^ 48 +
    packNat 1 (t.late.map nbit) * 2 ^ 32 + packNat 2 (t.stops.map TourStop.code))

/-- SHF.STAT. -/
def execShfStat (r : R2) (s : State) : Out :=
  s.runCore (do
    s.core.notInHandler
    let (c, x) ← s.core.srcA r.a r.la
    match (c.tours.find? (fun p => p.1 == x.toNat)).bind (fun p => s.tour? p.2) with
    | none => access 0xC4
    | some t => .ok ((c.writeX s.now 2 r.d t.word).advance s.now wordSize))

/-- SHF.REREAD. -/
def execShfReread (r : R2) (s : State) : Out :=
  s.ecmd1 r (fun c x => do
    let n ← ringArg x
    need (c.missedRec n).isSome .access 0xC7
    .ok (.shfReread n))

/-! ### Scan commands, R289 to R293 -/

/-- The width in bytes of a component of a type, R290. -/
def scanWidth (type : Nat) : Nat := if type = 0 ∨ type = 2 then 4 else 8
/-- The components of an element, R290. -/
def scanComps (op : Nat) : Nat :=
  match op with
  | 4 | 6 | 7 => 2
  | 5 => 6
  | _ => 1
/-- The operators and types of R154. -/
def scanPair (op type : Nat) : Bool :=
  if op ≤ 3 then decide (type ≤ 3)
  else if op ≤ 6 then type == 2 || type == 3
  else op == 7 && (type == 0 || type == 2)
/-- The bytes of a tile. -/
def ScanCfg.bytes (g : ScanCfg) : Nat := g.steps * g.chans * scanComps g.op * scanWidth g.type
/-- A configuration from its 32-byte block. -/
def scanCfgOf (b : List Byte) : ScanCfg := ⟨blkField b 0 1, blkField b 1 1, blkField b 2 2, blkField b 4 2, blkField b 6 2⟩

/-- SCN.CFG. -/
def execScnCfg (r : R2) (s : State) : Out :=
  s.ecmd1 r (fun c x => do
    need (decide (x.toNat % 8 = 0)) .misalign x
    need (decide (x.toNat + 32 ≤ lmemSize)) .localrange x
    let b := c.bytesAt x.toNat 32
    let g := scanCfgOf b
    need (scanPair g.op g.type) .access 0xD1
    match indexOf? (· == c.id.lc) (s.groupOf c.id.lh g.group) with
    | none => access 0xD2
    | some k => do
      need (decide (1 ≤ g.steps) && decide (g.steps ≤ 4096) && decide (1 ≤ g.chans) && decide (g.chans ≤ 1024) && blkZero b 8 24)
        .access 0xD3
      need (!c.scanView.2) .access 0xD6
      .ok (.scnCfg g k))

/-- SRC and DST of a scan command, R291. -/
def scanSrc (x : Word) : Nat := bitsOf x.toNat 19 0
/-- DST. -/
def scanDst (x : Word) : Nat := bitsOf x.toNat 39 20
/-- A tile's place: in the scratchpad and aligned. -/
def scanPlace (g : ScanCfg) (a : Nat) : Bool := decide (a + g.bytes ≤ lmemSize) && decide (a % scanWidth g.type = 0)
/-- SRC and DST that are equal or apart. -/
def scanApart (g : ScanCfg) (a b : Nat) : Bool := a == b || decide (a + g.bytes ≤ b) || decide (b + g.bytes ≤ a)
/-- The configuration that governs a scan command, R291. -/
def Core.scanGov (c : Core) : Res ScanCfg :=
  match c.scanView.1 with
  | some g => .ok g.1
  | none => access 0xD5

/-- SCN.RUN. -/
def execScnRun (r : R2) (s : State) : Out :=
  s.ecmd1 r (fun c x => do
    let g ← c.scanGov
    need (decide (x.toNat < 2 ^ 40) && scanPlace g (scanSrc x) && scanPlace g (scanDst x) && scanApart g (scanSrc x) (scanDst x))
      .access 0xD4
    .ok (.scnRun (scanSrc x) (scanDst x)))

/-- SCN.RED. -/
def execScnRed (r : R2) (s : State) : Out :=
  s.ecmd1 r (fun c x => do
    let g ← c.scanGov
    need (decide (x.toNat < 2 ^ 20) && scanPlace g (scanSrc x)) .access 0xD4
    .ok (.scnRed (scanSrc x)))

/-- SCN.APPLY. -/
def execScnApply (r : R2) (s : State) : Out :=
  s.ecmd1 r (fun c x => do
    let g ← c.scanGov
    let raw := bitOf x.toNat 40
    need (decide (x.toNat < 2 ^ 41) && scanPlace g (scanDst x) &&
      (if raw then scanPlace g (scanSrc x) && scanApart g (scanSrc x) (scanDst x) else scanSrc x == 0)) .access 0xD4
    .ok (.scnApply (scanSrc x) (scanDst x) raw))

/-- SCN.CLOSE. -/
def execScnClose (d : XReg) (s : State) : Out :=
  s.runWait (fun s => do
    need s.core.scan.ran .access 0xD7
    s.sleep (.close d))

/-- The scan status word, R293, R303. -/
def Scan.word (sc : Scan) : Word :=
  wd (Nat.min sc.dups 0xFF * 2 ^ 56 + sc.clen % 2 ^ 16 * 2 ^ 32 + sc.k % 2 ^ 12 * 2 ^ 20 + nbit sc.cfg.isSome * 2 ^ 19 +
    nbit sc.carry?.isSome * 2 ^ 18 + nbit sc.aggSent * 2 ^ 17 + sc.gen % 2 ^ 16)
/-- SCN.STAT. -/
def execScnStat (d : XReg) (s : State) : Out :=
  s.runCore (do
    s.core.notInHandler
    s.core.opD s.now 2 wordSize d s.core.scan.word)

end Sys2Proof.Machine
end

