-- ==== Sys2Proof/Machine/ScanArith.lean ====
section
/-! DEFINITION. The arithmetic of scans (spec/06_matrix_arithmetic.md R154, R155). -/

namespace Sys2Proof.Machine

/-- The float format of a scan type, for types 2 and 3. -/
def scanFmt (type : Nat) : FloatFmt := if type = 3 then fmtFp64 else fmtFp32
/-- Whether a type is a floating-point one. -/
def scanFloat (type : Nat) : Bool := decide (2 ≤ type)

/-- The exact sum of products, rounded once, RNE: the special values of a fused operation. -/
def dotV (f : FloatFmt) (ps : List (Fv × Fv)) : Nat × Flags :=
  let bad := ps.any (fun p => (p.1.isInf && p.2.isZero) || (p.1.isZero && p.2.isInf))
  let sig := ps.any (fun p => p.1.isSig || p.2.isSig)
  let neg (v : Fv) : Bool := match v with | .num n _ _ => n | .inf n => n | .nan _ => false
  let infs := ps.filter (fun p => p.1.isInf || p.2.isInf)
  let pos := infs.any (fun p => neg p.1 == neg p.2)
  let min := infs.any (fun p => neg p.1 != neg p.2)
  if ps.any (fun p => p.1.isNan || p.2.isNan) then nanResult f (sig || bad)
  else if bad || (pos && min) then nanResult f true
  else if pos || min then (f.infCode min, 0)
  else roundDy f .rne (ps.all (fun p => (p.1.isZero || p.2.isZero) && neg p.1 != neg p.2))
    (ps.foldl (fun (acc : Dy) p => acc.add (p.1.dy.mul p.2.dy)) (Dy.mk 0 0))

/-- A NaN made canonical. -/
def canon (f : FloatFmt) (c : Nat) : Nat := if (decodeF f c).isNan then f.nanCode else c

/-- LSE of two elements, R154; between values that do not compare the larger one is free (log entry 44). -/
def combLse (f : FloatFmt) (x y : Nat × Nat) : List Nat × Flags :=
  let swap := if (decodeF f x.1).isNan || (decodeF f y.1).isNan then Config.lseSecond x.1 y.1
    else fvLt (decodeF f x.1) (decodeF f y.1)
  let h := if swap then y else x
  let l := if swap then x else y
  if decodeF f h.1 == .inf true then
    let r := fadd f .rne x.2 y.2
    ([f.infCode true, r.1], r.2)
  else
    let d := fsub f .rne l.1 h.1
    let e := fexp2 f .rne (decodeF f d.1)
    let r := ffma f .rne h.2 l.2 e.1
    ([canon f h.1, r.1], d.2 ||| e.2 ||| r.2)

/-- ARGMAX of two elements: a NaN is greater than every number, and x is kept between equals, R154. -/
def combArgmax (type : Nat) (x y : List Nat) : List Nat × Flags :=
  let vx := nth x 0 0
  let vy := nth y 0 0
  let above := if scanFloat type then
      let a := decodeF fmtFp32 vx
      let b := decodeF fmtFp32 vy
      if a.isNan then false else b.isNan || fvLt a b
    else decide (signedOf 32 vx < signedOf 32 vy)
  let r := if above then y else x
  (if scanFloat type then [canon fmtFp32 (nth r 0 0), nth r 1 0] else r, 0)

/-- x ∘ y, R154. -/
def combine (op type : Nat) (x y : List Nat) : List Nat × Flags :=
  let w := 8 * scanWidth type
  let f := scanFmt type
  let a := nth x 0 0
  let b := nth y 0 0
  let v (l : List Nat) (i : Nat) : Fv := decodeF f (nth l i 0)
  match op with
  | 0 => if scanFloat type then (let r := fadd f .rne a b; ([r.1], r.2)) else ([(a + b) % 2 ^ w], 0)
  | 1 => if scanFloat type then (let r := fminmax f true a b; ([r.1], r.2))
         else ([if signedOf w a < signedOf w b then b else a], 0)
  | 2 => if scanFloat type then (let r := fminmax f false a b; ([r.1], r.2))
         else ([if signedOf w b < signedOf w a then b else a], 0)
  | 3 => if scanFloat type then (let r := fmul f .rne a b; ([r.1], r.2)) else ([a * b % 2 ^ w], 0)
  | 4 =>
    let p := fmul f .rne a b
    let q := ffma f .rne (nth y 1 0) b (nth x 1 0)
    ([p.1, q.1], p.2 ||| q.2)
  | 5 =>
    let m (i k : Nat) : Nat × Flags := dotV f [(v y (2 * i), v x k), (v y (2 * i + 1), v x (2 + k))]
    let u (i : Nat) : Nat × Flags := dotV f [(v y (2 * i), v x 4), (v y (2 * i + 1), v x 5), (v y (4 + i), .one)]
    let rs := [m 0 0, m 0 1, m 1 0, m 1 1, u 0, u 1]
    (rs.map (·.1), fAll (rs.map (·.2)))
  | 6 => combLse f (a, nth x 1 0) (b, nth y 1 0)
  | _ => combArgmax type x y

/-- A row of elements, one a channel, from bytes. -/
def scanRow (g : ScanCfg) (bs : List Byte) : List (List Nat) :=
  let e := scanComps g.op
  let w := scanWidth g.type
  (List.range g.chans).map (fun c => (List.range e).map (fun i => blkField bs ((c * e + i) * w) w))
/-- The bytes of a row. -/
def rowBytesOf (g : ScanCfg) (r : List (List Nat)) : List Byte := r.flatMap (fun x => x.flatMap (fun v => leBytes (scanWidth g.type) v))
/-- The bytes of a row of a configuration. -/
def ScanCfg.rowSize (g : ScanCfg) : Nat := g.chans * scanComps g.op * scanWidth g.type
/-- The rows of a tile, one a step. -/
def scanRows (g : ScanCfg) (bs : List Byte) : List (List (List Nat)) :=
  (List.range g.steps).map (fun t => scanRow g ((bs.drop (t * g.rowSize)).take g.rowSize))

/-- Two rows combined channel by channel. -/
def combineRow (g : ScanCfg) (x y : List (List Nat)) : List (List Nat) × Flags :=
  let rs := (x.zip y).map (fun p => combine g.op g.type p.1 p.2)
  (rs.map (·.1), fAll (rs.map (·.2)))

/-- The prefixes of a tile in step order, R155. -/
def prefixes (g : ScanCfg) : List (List (List Nat)) → List (List (List Nat)) × Flags
  | [] => ([], 0)
  | r :: t =>
    let z := t.foldl (fun (acc : List (List Nat) × List (List (List Nat)) × Flags) x =>
      let c := combineRow g acc.1 x
      (c.1, acc.2.1 ++ [c.1], acc.2.2 ||| c.2)) (r, [r], 0)
    (z.2.1, z.2.2)
/-- A carry applied to every prefix. -/
def applyCarry (g : ScanCfg) (c : List (List Nat)) (pre : List (List (List Nat))) : List (List (List Nat)) × Flags :=
  let rs := pre.map (fun p => combineRow g c p)
  (rs.map (·.1), fAll (rs.map (·.2)))
/-- The strict left fold of aggregates in member order, R155. -/
def foldAggs (g : ScanCfg) : List (List Byte) → List (List Nat) × Flags
  | [] => ([], 0)
  | a :: t => t.foldl (fun (acc : List (List Nat) × Flags) b =>
      let c := combineRow g acc.1 (scanRow g b)
      (c.1, acc.2 ||| c.2)) (scanRow g a, 0)

end Sys2Proof.Machine
end

