-- ==== Sys2Proof/Machine/ScanEngine.lean ====
section
/-! DEFINITION. The scan engine and the carry network at work (spec/06_matrix_arithmetic.md R155; spec/11_progress.md R255;
spec/12_isa_flow_sync.md R290 to R294; spec/14_prog_scan.md R302, R303). -/

namespace Sys2Proof.Machine

/-- The time of a scan command that starts, R294, R302. -/
def ScanCmd.time (x : ScanCmd) : Nat :=
  let su := x.cfg.steps * ((x.cfg.chans * scanComps x.cfg.op + 15) / 16)
  match x.cmd with
  | .scnCfg _ _ => 4
  | .scnApply _ _ raw => if raw then 24 + 2 * su else if x.k = 0 then 24 else 24 + su
  | _ => 24 + su

/-- The cycle from which the oldest scan command of a core may run; none while it waits for its carry. -/
def Scan.readyAt (sc : Scan) (x : ScanCmd) : Option Nat :=
  let t := Nat.max x.at_ sc.free
  match x.cmd with
  | .scnApply _ _ _ => (sc.carries.find? (fun y => y.serial == x.serial)).map (fun y => Nat.max t y.at_)
  | _ => some t

/-- Whether a command applies a carry, which a vacated member is given when it resumes, R255. -/
def ScanCmd.appliesCarry (x : ScanCmd) : Bool := match x.cmd with | .scnApply .. => x.k != 0 | _ => false
/-- The oldest scan command of a core started, when it has reached the engine and none runs, R302; a vacated core's go on (R246). -/
def State.scanStart (s : State) (id : CoreId) : State :=
  match s.core? id with
  | none => s
  | some c =>
    if c.scan.running.isSome then s else
    match c.scan.queue with
    | [] => s
    | x :: _ =>
      if !x.drained || (c.gone && x.appliesCarry) then s else
      match c.scan.readyAt x with
      | none => s
      | some t =>
        let due := Nat.max (t + x.time) (s.now + 1)
        (s.updCore id (fun c => { c with scan := { c.scan with running := some due, res := none } })).sched due false (.scanCommandCompletion id)

/-- A scan command that has reached its engine. -/
def State.scanDrained (s : State) (id : CoreId) (ticket : Nat) : State :=
  (s.updCore id (fun c => { c with scan := { c.scan with queue := c.scan.queue.map (fun x =>
    if x.ticket == ticket then { x with drained := true } else x) } })).scanStart id

/-- The aggregates of an epoch and generation of a group. -/
def Launch.aggsOf (l : Launch) (g epoch gen : Nat) : List Aggregate :=
  l.aggs.filter (fun (a : Aggregate) => a.group == g && a.epoch == epoch && a.gen == gen)
/-- Those of them that are folded. -/
def Launch.folded (l : Launch) (g epoch gen : Nat) : List Aggregate := (l.aggsOf g epoch gen).filter (fun a => a.whole)

/-- The aggregates that member k's carry needs, in member order; none while one is missing. -/
def needed (as : List Aggregate) (k : Nat) : Option (List Aggregate) :=
  (List.range k).foldr (fun m (acc : Option (List Aggregate)) =>
    match acc, as.find? (fun a => a.member == m) with
    | some l, some a => some (a :: l)
    | _, _ => none) (some [])

/-- The carries that a member's aggregate, folded now, completes: each arrives T_carry after it, the last that it needs, R24, R255; in a mirror
launch at both twins. -/
def State.sendCarries (s : State) (lh : Nat) (a : Aggregate) : State :=
  match s.launch? lh with
  | none => s
  | some l =>
    let mem := s.groupOf lh a.group
    let as := l.folded a.group a.epoch a.gen
    ((List.range mem.length).filter (fun k => decide (a.member < k))).foldl (fun s k =>
      match needed as k with
      | none => s
      | some _ =>
        let x := s.posOf lh (nth mem 0 0)
        let y := s.posOf lh (nth mem k 0)
        let due := s.now + 6 + 3 * k + 2 * pathHops x y
        (if l.lrec.mirror then [false, true] else [false]).foldl (fun s twin =>
          let tgt : CoreId := ⟨lh, nth mem k 0, twin⟩
          let legs := carryLegs x y due
          (s.updLaunch lh (fun l => { l with carries := l.carries ++ [⟨tgt, a.group, a.epoch, a.gen, k, due, legs⟩] })).schedLegs due false
            (.carryDelivery tgt) legs) s) s

/-- A carry received by a core for its current generation in a cycle; member 0's is empty, R302. -/
def State.giveCarry (s : State) (id : CoreId) (bytes : List Byte) (fl : Flags) (at_ : Nat) : State :=
  (s.updCore id (fun c =>
    if c.scan.carry?.isSome then c else
    { c with scan := { c.scan with used := true, carries := c.scan.carries ++ [⟨c.scan.serial, bytes, fl, at_⟩] } })).scanStart id

/-- CARRYMISMATCH: DETECTED of unit 5, recorded at the core whose aggregate or carry shows it and for the firmware; it concerns committed
work, R334, R340, R365. -/
def State.carryMismatch (s : State) (id : CoreId) : State :=
  let s := (s.updCore id (fun c => { c with cause := wd Cause.detected.code, tval := 5 })).trace (primOf id) 1 0x111 5
  (s.updLaunch id.lh (fun l => { l with recorded := l.recorded ++ [(some id.lc, .detected, 5)] })).failCommitted id.lh
/-- An aggregate sent on the carry network, R155, R255: a duplicate with the same bits is discarded, one with other bits, or of
another configuration, raises CARRYMISMATCH. The twins of a mirror launch both send theirs: it is folded once both are the same, and a
difference between them starts their triage (R362, R365; log entry 49). -/
def State.sendAgg (s : State) (c : Core) (x : ScanCmd) (bytes : List Byte) : State :=
  let s := s.updCore c.id (fun c => { c with scan := { c.scan with aggSent := c.scan.aggSent || x.serial == c.scan.serial } })
  match s.launch? c.id.lh with
  | none => s
  | some l =>
    let s := if x.k = 0 && x.serial == ((s.core? c.id).map (fun d => d.scan.serial)).getD 0 then s.giveCarry c.id [] 0 s.now else s
    let new : Aggregate := ⟨x.cfg.group, x.epoch, x.gen, x.k, c.id.twin, s.now, x.cfg, bytes, !l.lrec.mirror⟩
    let as := l.aggsOf new.group new.epoch new.gen
    let put (s : State) : State := s.updLaunch c.id.lh (fun l => { l with aggs := l.aggs ++ [new] })
    match as.find? (fun a => a.member == x.k) with
    | some a =>
      if a.bytes == bytes && a.cfg == x.cfg then
        let s := s.pair c.id (fun c => { c with scan := { c.scan with dups := Nat.min 255 (c.scan.dups + 1) } })
        if a.whole || a.twin == c.id.twin then s else
        (s.updLaunch c.id.lh (fun l => { l with aggs := l.aggs.map (fun b => if b == a then { a with whole := true } else b) })).sendCarries c.id.lh a
      else if !a.whole && a.twin != c.id.twin then (put s).sched s.now true (.mirrorHashMismatch c.id.lh c.id.lc)
      else s.carryMismatch c.id
    | none =>
      if as.any (fun a => a.cfg != x.cfg) then s.carryMismatch c.id else
      let old (a : Aggregate) : Bool := a.group == x.cfg.group && a.member == x.k && (a.epoch != x.epoch || (a.gen + 1) % 2 ^ 16 != x.gen)
      let s := put (s.updLaunch c.id.lh (fun l => { l with aggs := l.aggs.filter (fun a => !old a) }))
      if new.whole then s.sendCarries c.id.lh new else s
/-- What a twin of a mirror pair has sent stands for both once the other has been blamed: the loser's aggregates that are not folded are
dropped, and the winner's folded, R365. -/
def State.foldWinner (s : State) (id : CoreId) (winner : Bool) : State :=
  let mine (g m : Nat) : Bool := nth ((s.groupOf id.lh g).map some) m none == some id.lc
  match s.launch? id.lh with
  | none => s
  | some l =>
    let keep := l.aggs.filter (fun a => a.whole || !mine a.group a.member || a.twin == winner)
    let now := keep.filter (fun a => !a.whole && mine a.group a.member)
    now.foldl (fun s a => s.sendCarries id.lh a) (s.updLaunch id.lh (fun l => { l with
      aggs := keep.map (fun a => if mine a.group a.member then { a with whole := true } else a) }))

/-- Bytes at an address cut at the boundaries of 64-byte lines, by the number of lines. -/
def cutLines : Nat → Nat → List Byte → List (Nat × List Byte)
  | 0, _, _ => []
  | n + 1, a, bs =>
    if bs.isEmpty then [] else
    let m := 64 - a % 64
    (a, bs.take m) :: cutLines n (a + m) (bs.drop m)
/-- The lines of rows written at an address. -/
def ScanCfg.linesAt (g : ScanCfg) (a : Nat) (rows : List (List (List Nat))) : List (Nat × List Byte) :=
  let bs := rows.flatMap (rowBytesOf g)
  cutLines (bs.length / 64 + 2) a bs

/-- What a scan command works out in a core: the lines it writes, the aggregate it sends and its flags, R155, R291. -/
def Core.scanResult (c : Core) (x : ScanCmd) : ScanRes :=
  let tile (a : Nat) : List (List (List Nat)) := scanRows x.cfg (c.mem.getN a x.cfg.bytes)
  match x.cmd with
  | .scnRun src dst =>
    let p := prefixes x.cfg (tile src)
    ⟨x.cfg.linesAt dst p.1, 0, rowBytesOf x.cfg (nth p.1 (x.cfg.steps - 1) []), p.2⟩
  | .scnRed src =>
    let p := prefixes x.cfg (tile src)
    ⟨[], 0, rowBytesOf x.cfg (nth p.1 (x.cfg.steps - 1) []), p.2⟩
  | .scnApply src dst raw =>
    let p := if raw then prefixes x.cfg (tile src) else (tile dst, 0)
    if x.k = 0 then (if raw then ⟨x.cfg.linesAt dst p.1, 0, [], p.2⟩ else ⟨[], 0, [], 0⟩) else
    match c.scan.carries.find? (fun y => y.serial == x.serial) with
    | none => ⟨[], 0, [], 0⟩
    | some y =>
      let o := applyCarry x.cfg (scanRow x.cfg y.bytes) p.1
      ⟨x.cfg.linesAt dst o.1, 0, [], p.2 ||| o.2 ||| y.flags⟩
  | _ => ⟨[], 0, [], 0⟩
/-- The lines that a scan command writes, by the layout of its tile. -/
def ScanCmd.lineCount (x : ScanCmd) : Nat :=
  let n (a : Nat) : Nat := (a + x.cfg.bytes + 63) / 64 - a / 64
  match x.cmd with
  | .scnRun _ dst => n dst
  | .scnApply _ dst raw => if x.k = 0 && !raw then 0 else n dst
  | _ => 0

/-- The line of a scan's output that lands in this cycle, R15, R302: the results are worked out in time for the last line to land before
the command's completion, and each line lands in ascending order, one a cycle, once its bank is free (log entry 94). In an Umbra launch the
first write of a 256-byte line is held, R358. -/
def State.scanLine (s : State) (id : CoreId) : State :=
  match s.core? id with
  | none => s
  | some c =>
    match c.scan.queue, c.scan.running with
    | x :: _, some due =>
      let set (s : State) (r : ScanRes) : State := s.updCore id (fun c => { c with scan := { c.scan with res := some r } })
      let r := c.scan.res.getD { c.scanResult x with next := due - x.lineCount }
      if c.scan.res.isNone && decide (s.now + x.lineCount < due) then s else
      match r.lines with
      | [] => if c.scan.res.isNone then set s r else s
      | (a, bs) :: t =>
        if decide (s.now < r.next) || s.bankBusy c a then set s r else
        match s.undoHold id.lh (fun d => d.id == id) [a] with
        | some s => set s { r with next := s.now + 4 }
        | none =>
          let s := if c.run == .vacated && !id.twin then s.keepAct id (.cells (cellsAt a bs)) else s
          set ((s.updCore id (fun d => d.poke (s.umbra id.lh) (cellsAt a bs))).useBank id a) { r with lines := t, next := s.now + 1 }
    | _, _ => s
/-- The lines of every core's scan output that land in this cycle. -/
def State.scanLines (s : State) : State :=
  (s.cores.filter (fun c => c.scan.running.isSome)).foldl (fun s c => if s.withheld c.die then s else s.scanLine c.id) s

/-- What a scan command that is done sends, with its flags, R302. -/
def State.scanSend (s : State) (c : Core) (x : ScanCmd) (r : ScanRes) : State :=
  let s := if c.run == .vacated && !c.id.twin && r.flags != 0 then s.keepAct c.id (.flags r.flags) else s
  let s := s.updCore c.id (fun d => d.engineFlags s.now r.flags)
  match x.cmd with
  | .scnRun .. | .scnRed .. => s.sendAgg c x r.agg
  | _ => s

/-- The carries that no queued command and no current generation needs any more dropped. -/
def Scan.prune (sc : Scan) : Scan :=
  { sc with carries := sc.carries.filter (fun y => y.serial == sc.serial || sc.queue.any (fun x => x.serial == y.serial)) }

/-- SCAN_COMMAND_COMPLETION: the oldest scan command of a core is done, its last line landed; ESEQ[4] advances, and the next one starts. -/
def execScanCommandCompletion (c : CoreId) (s : State) : Out :=
  .next (match s.core? c with
  | none => s
  | some d =>
    match d.scan.queue, d.scan.running with
    | x :: t, some due =>
      let r := d.scan.res.getD (d.scanResult x)
      if s.now < due then s.sched due false (.scanCommandCompletion c)
      else if !r.lines.isEmpty then s.sched (s.now + 1) false (.scanCommandCompletion c) else
      let s := s.updCore c (fun d => { d with
        scan := { d.scan with queue := t, running := none, free := s.now, res := none }
        eseq := d.eseq.set (clsIx .scan) x.ticket })
      let s := s.scanSend d x r
      let s := s.trace c 2 (0x200 + clsPath .scan) (wd (resultWord x.ticket 0))
      let s := s.updCore c (fun d => { d with scan := d.scan.prune })
      (s.scanStart c).snapAgain c
    | _, _ => s)

/-- What becomes of a carry that has arrived at a member: it is given to it, it raises CARRYMISMATCH, it is dropped, or it is held until the
member reaches its generation. -/
inductive Arrival where
  | give | mismatch | drop | hold
  deriving DecidableEq, Repr
/-- Whether a configuration differs from another in OP, TYPE, S or Ch, R290. -/
def ScanCfg.differs (a b : ScanCfg) : Bool := a.op != b.op || a.type != b.type || a.steps != b.steps || a.chans != b.chans
/-- The place of a member before, at or behind a generation of an epoch of a chain: 0, 1 or 2. -/
def placeOrder (p at_ : Nat × Nat) : Nat :=
  if p = at_ then 1
  else if p.1 > at_.1 || (p.1 == at_.1 && decide ((p.2 + 2 ^ 16 - at_.2) % 2 ^ 16 < 2 ^ 15)) then 2 else 0
/-- The arrival of a carry formed under a configuration at a member, R255, R290: a member configured for the chain at its generation is given it
when the configurations agree; one that has left the chain for another and is configured otherwise raises CARRYMISMATCH (log entry 87). -/
def Scan.arrival (sc : Scan) (m : CarryMsg) (under : ScanCfg) : Arrival :=
  match sc.cfg with
  | none => .hold
  | some g =>
    let o := placeOrder (sc.place m.group) (m.epoch, m.gen)
    if g.group = m.group then
      if o = 1 then (if g.differs under then .mismatch else if sc.carry?.isSome then .drop else .give)
      else if o = 2 then (if g.differs under then .mismatch else .drop) else .hold
    else if o = 2 || (o = 1 && sc.left.contains m.group) then (if g.differs under then .mismatch else if o = 2 then .drop else .hold)
    else .hold
/-- One carry that has arrived settled, or held. -/
def State.settleCarry (s : State) (m : CarryMsg) : State :=
  let rid (s : State) : State := s.updLaunch m.core.lh (fun l => { l with carries := l.carries.erase m })
  match s.core? m.core, s.launch? m.core.lh with
  | some d, some l =>
    match needed (l.folded m.group m.epoch m.gen) m.k with
    | none | some [] => rid s
    | some (a :: t) =>
      match d.scan.arrival m a.cfg with
      | .hold => s
      | .drop => rid s
      | .mismatch => (rid s).carryMismatch m.core
      | .give =>
        let f := foldAggs a.cfg ((a :: t).map (·.bytes))
        (rid s).giveCarry m.core (rowBytesOf a.cfg f.1) f.2 m.due
  | _, _ => s
/-- CARRY_DELIVERY: the carry network delivers to a member the carries that have arrived for it; one that finds the member configured otherwise
raises CARRYMISMATCH, and one for a member that has not opened its generation yet is held (R255, R290). A carry that reaches a vacated member
is held in its saved state. -/
def execCarryDelivery (c : CoreId) (s : State) : Out :=
  let due (s : State) : List CarryMsg := ((s.launch? c.lh).map (fun l => l.carries.filter (fun m => m.core == c && decide (m.due ≤ s.now)))).getD []
  let t := (due s).foldl (fun s m => s.settleCarry m) s
  .next (if (due t).isEmpty then t else t.schedOnce (t.now + 1) false (.carryDelivery c))

end Sys2Proof.Machine
end

