-- ==== Sys2Proof/Machine/Landing.lean ====
section
/-! DEFINITION. What reaches a scratchpad and a register file: the lines of deliveries (spec/01_machine.md R15;
spec/06_matrix_arithmetic.md R148), register writes (spec/02_encoding.md R44, R45), messages and log entries
(spec/08_isa_memory_engines.md R194, R198), and timed lines (spec/07_ordering.md R186). -/

namespace Sys2Proof.Machine

/-! ### Deliveries -/

/-- A delivery tried again in the next cycle. -/
def State.again (s : State) (n : Nat) : State := s.sched (s.now + 1) true (.dynamicLineLanding n)
/-- A delivery ended. -/
def State.dropDeliv (s : State) (n : Nat) : State := { s with delivs := s.delivs.filter (fun d => d.id != n) }

/-- Lines that a sheaf stop holds in a ring. -/
def State.holdLines (s : State) (id : CoreId) (ring : Option Nat) (n : Nat) : State :=
  match ring with
  | some r => s.pair id (fun c => c.engRing r (fun o => { o with stops := o.stops + n }))
  | none => s

/-- What follows the landing of a delivery's last line; `a` is the address of its first, R148, R210, R252, R288. -/
def State.landed (s : State) (d : Delivery) (a : Nat) : State :=
  let ring := d.ring.getD 0
  match d.act with
  | .cmd c p ticket => (s.dropDeliv d.id).updCmd c p ticket (fun x => { x with left := x.left - 1, due := s.now })
  | .tour t i o =>
    let s := (s.dropDeliv d.id).holdLines d.core d.ring d.total
    if o = 0 then
      (s.addStop d.core ⟨ring, t, i, d.total, a, .pending⟩).sched s.now false (.tileArrival t i)
    else
      (s.updStopRec d.core t i (fun r => { r with addr := a, lines := d.total })).sched s.now false (.gleaningDelivery t i)
  | .reread t i ticket =>
    let s := ((s.dropDeliv d.id).holdLines d.core d.ring d.total).updStopRec d.core t i
      (fun r => { r with addr := a, lines := d.total, st := .ready 4 })
    s.updCmd d.core .sheaf ticket (fun x => { x with left := 0, due := s.now })
  | .mcast .. => (s.updDeliv d.id (fun d => { d with lines := [], ring := none })).sched s.now true (.mcastDelivery d.id)
  | .none => s.dropDeliv d.id

/-- The next line of a delivery that has begun, R15: one a cycle, in a cycle in which its bank is free; the last one follows the
deliveries begun before it. In an Umbra launch the first write of a 256-byte line is held, R358. -/
def State.landLine (s : State) (d : Delivery) : State :=
  match s.core? d.core, d.lines with
  | some c, l :: t =>
    let a := s.landAddr c d
    if s.bankTaken d.core a || (t.isEmpty && s.linesAhead d != 0) then s.again d.id else
    match s.undoHold d.core.lh (fun c => c.id.lh == d.core.lh && c.id.lc == d.core.lc) [a] with
    | some s => s.sched (s.now + 4) true (.dynamicLineLanding d.id)
    | none =>
    let first := match d.ring with
      | some n => (ringAt c.erings n).lineAt (ringAt c.erings n).held
      | none => d.addr
    let s := (s.pokeAt d.core (cellsAt a (padTo 64 l))).useBanks d.core a
    let s := match d.ring with
      | some n => s.pair d.core (fun c => c.engRing n (fun r => { r with appended := r.appended + 1 }))
      | none => s
    let s := s.updDeliv d.id (fun d => { d with lines := t })
    if t.isEmpty then (s.commitDeliv d).landed d first else s.again d.id
  | _, _ => s.dropDeliv d.id

/-- Whether a receiver of a multicast faults, R214. -/
def Core.mcastFaults (c : Core) (d : Delivery) : Bool :=
  match d.ring with
  | some n => !(ringAt c.erings n).conf
  | none => decide (d.addr + 64 * d.total > lmemSize) || c.touchesHeld d.addr d.total

/-- A multicast that faults at a receiver: no held line is written, and any other may be, R214. -/
def State.mcastFail (s : State) (c : Core) (d : Delivery) : State :=
  let s := s.tickFresh
  let ok (k : Nat) : Bool := d.ring.isNone && decide (d.addr + 64 * k + 64 ≤ lmemSize) &&
    (heldBy c.erings (d.addr + 64 * k)).isNone && Config.mcastLine s.fresh k
  let s := ((List.range d.total).filter ok).foldl (fun s k =>
    s.pokeAt d.core (cellsAt (d.addr + 64 * k) (padTo 64 (nth d.lines k [])))) s
  (s.updDeliv d.id (fun d => { d with failed := true, lines := [], ring := none })).sched (Nat.max s.now d.ready) true
    (.mcastDelivery d.id)

/-- A delivery that begins, and lands its first line. -/
def State.beginLand (s : State) (d : Delivery) : State := (s.beginDeliv d).landLine { d with begun := true }

/-- A delivery kept for a vacated core, R214, R344: written whole, with what follows its landing, while the core is restored; one that its
ring has no room for goes on as any other. -/
def State.landKept (s : State) (d : Delivery) : State :=
  match s.core? d.core with
  | none => s.dropDeliv d.id
  | some c =>
    let fails := match d.act with | .mcast .. => c.mcastFaults d | _ => false
    if fails then s.mcastFail c d else
    if !(match d.ring with | some n => s.hasRoom c n d.total | none => true) then s.sched s.now true (.dynamicLineLanding d.id) else
    let s := s.beginDeliv d
    let d := { d with begun := true }
    match s.core? d.core with
    | none => s
    | some c =>
      let first := s.landAddr c d
      let s := (List.range d.total).foldl (fun s k =>
        s.pokeAt d.core (cellsAt (s.landAddr c { d with lines := d.lines.drop k }) (padTo 64 (nth d.lines k [])))) s
      let s := match d.ring with
        | some n => s.pair d.core (fun c => c.engRing n (fun r => { r with appended := r.appended + d.total }))
        | none => s
      ((s.updDeliv d.id (fun d => { d with lines := [] })).commitDeliv d).landed d first

/-- A delivery that has not begun, R148, R194, R214, R253, R286: it begins when its ring has room; it is parked while its core is
vacated; and a stop that cannot take a tile is passed when the tile would have arrived, R295. A core that is bound and has not been dispatched yet is
waited for, a stop no longer than the hold limit (log entry 96). -/
def State.tryDeliv (s : State) (d : Delivery) : State :=
  let late (t : Nat) : Bool := decide (d.ready + ((s.tour? t).map (fun t => t.itin.hold)).getD 0 ≤ s.now)
  let pass (t i : Nat) (st : TourStop) : State :=
    if s.now < d.ready then s.sched d.ready true (.dynamicLineLanding d.id) else (s.dropDeliv d.id).tourPass t i st
  match s.core? d.core with
  | none =>
    if !s.bindingCore d.core then s.dropDeliv d.id else
    match d.act with
    | .tour t i o => if o = 0 && late t then pass t i .deferred else s.again d.id
    | _ => s.again d.id
  | some c =>
    let room := match d.ring with | some n => s.hasRoom c n d.total | none => true
    let conf := match d.ring with | some n => (ringAt c.erings n).conf | none => true
    match d.act with
    | .tour t i o =>
      if o = 0 then
        if c.run == .fenced || (!conf && !c.gone) then pass t i .missed
        else if c.gone then pass t i .deferred
        else if room then s.beginLand d
        else if late t then pass t i .deferred
        else s.again d.id
      else if !s.isResident c then (s.dropDeliv d.id).updTour t (fun t => { t with glean := t.glean.set i 0 })
      else if conf && room then s.beginLand d
      else s.again d.id
    | .mcast .. =>
      if c.gone then s
      else if c.mcastFaults d then s.mcastFail c d
      else if room then s.beginLand d
      else s.again d.id
    | .cmd .. | .reread .. | .none =>
      if c.gone then s else if room then s.beginLand d else s.again d.id

/-! ### The other accesses of the engines, R14, R15 -/

/-- What follows the last line of an engine's access. -/
def State.accessDone (s : State) (a : Access) : State :=
  match a.act with
  | .none => s
  | .read ticket => s.sourceRead a.core ticket
  | .forward ticket => (s.updCmd a.core .sheaf ticket (fun y => { y with busy := false, due := s.now + 1 })).sched (s.now + 1) false
      (.sheafCommandCompletion a.core ticket)
  | .record p ticket => s.updCmd a.core p ticket (fun y => { y with busy := false, done := true, due := s.now, legs := [] })
  | .chunk ticket k => s.chunkDone a.core ticket k
/-- The next line of an engine's access, in a cycle in which its bank is free. -/
def State.accessLine (s : State) (a : Access) : State :=
  let ended (s : State) : State := { s with accs := s.accs.filter (fun (x : Access) => x.id != a.id) }
  match a.lines with
  | [] => ended s
  | (at_, cells) :: t =>
    if s.bankTaken a.core at_ then s.again a.id else
    let s := (s.pokeAt a.core cells).useBanks a.core at_
    if t.isEmpty then (ended s).accessDone a
    else ({ s with accs := s.accs.map (fun (x : Access) => if x.id == a.id then { x with lines := t } else x) } : State).again a.id

/-- DYNAMIC_LINE_LANDING: a line of a delivery, or of another access of an engine, finds its bank free. -/
def execDynamicLineLanding (id : Nat) (s : State) : Out :=
  .next (match s.delivs.find? (fun d => d.id == id), s.accs.find? (fun a => a.id == id) with
  | some d, _ => if d.begun then s.landLine d else s.tryDeliv d
  | none, some a => s.accessLine a
  | none, none => s)

/-! ### Register writes, R44, R45 -/

/-- REGISTER_WRITE_LANDING: the oldest write of a core that is due becomes visible and raises its flags; one to a bound stream
register is a push, whose trap names the instruction that wrote (R129, R130). A push that finds no room beside the committed lines (R348), or
in the handler a committed store to its line still to drain (R160), waits a cycle, and the handler's first write of a line in an
epoch for its copy (R358); the later pushes of that register wait behind it. -/
def execRegisterWriteLanding (c : CoreId) (s : State) : Out :=
  .next (match s.core? c with
  | none => s
  | some d =>
    match (byLanding d.flights).find? (fun f => decide (f.due ≤ s.now)) with
    | none => s
    | some f =>
      let d := { d with flights := d.flights.erase f }
      let r : Res Core := match f.dst with
        | .v v val bytes => if d.bound v then d.push (s.umbra c.lh) f v val bytes else .ok (d.landReg f)
        | _ => .ok (d.landReg f)
      match r with
      | .ok e => s.updCore c (fun _ => e.raise s.now f.flags)
      | .error (.trap t) => ((s.updCore c (fun _ => d)).focus c).takeTrap t f.pc
      | .error e =>
        let n := match e with | .copy _ => 4 | _ => 1
        let later := match f.dst with | .v v _ _ => d.waitPush v n | _ => d.flights
        s.updCore c (fun _ => { d with
          undo := match e with | .copy l => d.undoWith l | _ => d.undo
          flights := { f with due := s.now + n } :: later }))

/-! ### Messages and log entries, R194, R198 -/

/-- A packet that has been performed, or dropped. -/
def State.dropPacket (s : State) (n : Nat) : State :=
  { s with packets := s.packets.filter (fun p => p.id != n) }.mapCores (fun c => c.loadAfter.contains n)
    (fun c => { c with loadAfter := c.loadAfter.filter (· != n) })
/-- A packet kept with the saved context of a vacated core. -/
def State.keepPacket (s : State) (p : Packet) : State := (s.dropPacket p.id).keepAct ⟨p.lh, p.dst, false⟩ (.packet p)
/-- Whether a packet that arrived before another at the same core is still to be performed. -/
def State.earlier (s : State) (p : Packet) : Bool :=
  s.packets.any (fun q => q.lh == p.lh && q.dst == p.dst && decide (q.due ≤ s.now) &&
    (decide (q.due < p.due) || (q.due == p.due && decide (q.id < p.id))))

/-- Bits of a byte replaced. -/
def mergeBits (old v : Byte) (pos width : Nat) : Byte :=
  BitVec.ofNat 8 (old.toNat % 2 ^ pos + v.toNat % 2 ^ width * 2 ^ pos + old.toNat / 2 ^ (pos + width) * 2 ^ (pos + width))

/-- The bytes that a message writes at its destination. -/
def MsgKind.cells (m : MsgKind) (c : Core) (a : Nat) : List Host.Cell :=
  match m with
  | .bytes b => cellsAt a b
  | .bits pos width v => [(a, mergeBits (c.mem.get a) v pos width)]
  | .event _ => []

/-- A message performed at a core, R194: dropped whole when it touches a held span; an event is raised in the event unit of the
core's cluster while the core is bound there. -/
def State.perform (s : State) (id : CoreId) (a : Nat) (m : MsgKind) : State :=
  match s.core? id with
  | none => s
  | some c =>
    match m with
    | .event n => if c.resident || c.run == .stopping then s.raiseEvent id.lh (s.evCluster c) c.ctx n else s
    | _ =>
      let cells := m.cells c a
      if (firstHeld c.erings (cells.map (·.1))).isSome then
        s.pair id (fun c => { c with msgDrop := Nat.min (2 ^ 32 - 1) (c.msgDrop + 1) })
      else s.pokeAt id cells

/-- A log entry that has arrived at a core: appended, or dropped when the log is full, R198. -/
def State.appendLog (s : State) (id : CoreId) (e : LogEntry) : State :=
  s.pair id (fun c => if c.log.length ≥ 2048 then { c with logDrop := Nat.min 0xFFFF (c.logDrop + 1) }
    else { c with log := c.log ++ [e] })

/-- MESSAGE_ARRIVAL: the message unit performs a message in arrival order, in a cycle in which its bank is free; one to a vacated
core is kept, and in an Umbra launch the first write of a line is held (R358). -/
def execMessageArrival (id : Nat) (s : State) : Out :=
  .next (match s.packets.find? (fun p => p.id == id) with
  | none => s
  | some p =>
    let tgt : CoreId := ⟨p.lh, p.dst, false⟩
    match s.core? tgt, p.body with
    | some c, .inl m =>
      if s.earlier p then s.sched (s.now + 1) true (.messageArrival id)
      else if c.gone then s.keepPacket p
      else if p.addr < lmemSize && s.bankTaken tgt p.addr then s.sched (s.now + 1) true (.messageArrival id)
      else
        let ws := (m.cells c p.addr).map (·.1)
        match s.undoHold p.lh (fun d => d.id.lh == p.lh && d.id.lc == p.dst) (if (firstHeld c.erings ws).isSome then [] else ws) with
        | some s => s.sched (s.now + 4) true (.messageArrival id)
        | none => ((if ws.isEmpty then s else s.useBanks tgt p.addr).perform tgt p.addr m).dropPacket id
    | none, _ => if s.bindingCore tgt then s.sched (s.now + 1) true (.messageArrival id) else s.dropPacket id
    | _, _ => s.dropPacket id)

/-- LOG_ENTRY_ARRIVAL: an entry joins the log of its core; one to a vacated core is kept. -/
def execLogEntryArrival (id : Nat) (s : State) : Out :=
  .next (match s.packets.find? (fun p => p.id == id) with
  | none => s
  | some p =>
    let tgt : CoreId := ⟨p.lh, p.dst, false⟩
    match s.core? tgt, p.body with
    | some c, .inr e =>
      if s.earlier p then s.sched (s.now + 1) true (.logEntryArrival id)
      else if c.gone then s.keepPacket p
      else (s.appendLog tgt e).dropPacket id
    | none, _ => if s.bindingCore tgt then s.sched (s.now + 1) true (.logEntryArrival id) else s.dropPacket id
    | _, _ => s.dropPacket id)

/-! ### Timed lines, R186, R278 -/

/-- The address of a lane load of a core that reads a bank in this cycle, while its result is in flight. -/
def Core.laneRead (c : Core) (now bank : Nat) : Option Word :=
  match c.bankUse.find? (fun u => u.code == 1 && u.bank == bank && decide (u.lo ≤ now) && decide (now ≤ u.hi)) with
  | some u => (c.flights.find? (fun f => f.issued == u.lo)).map (·.pc)
  | none => none

/-- The claim that a timed line has on a bank in a cycle moved to a later one. -/
def Core.moveClaim (c : Core) (bank now to_ : Nat) : Core :=
  { c with bankUse := c.bankUse.map (fun u => if u.code == 4 && u.bank == bank && u.lo == now then { u with lo := to_, hi := to_ } else u) }
/-- TSEND_LANDING: a timed line lands whole; one that touches a held span is dropped and counted. A lane load that reads the bank in
this cycle traps BANKCONF, R15. A core that is bound and has not been dispatched yet is waited for, and a line that reaches a vacated one is
kept for its resume (R307, R344). In an Umbra launch the first write of a 256-byte line is held, R358, and the line's claim with it. -/
def execTsendLanding (id : Nat) (s : State) : Out :=
  .next (match s.tlines.find? (fun t => t.id == id) with
  | none => s
  | some t =>
    if (s.core? t.core).isNone && s.bindingCore t.core then s.sched (s.now + 1) false (.tsendLanding id) else
    let s := ({ s with tlines := s.tlines.filter (fun u => u.id != id) }.mapCores (fun c => c.loadAfter.contains id)
      (fun c => { c with loadAfter := c.loadAfter.filter (· != id) })).updLaunch t.core.lh
      (fun l => { l with doomed := l.doomed.map (fun n => Nat.max n (s.now + 1)) })
    match s.core? t.core with
    | none => s
    | some c =>
      if (firstHeld c.erings (span t.addr 64)).isSome then
        s.updCore t.core (fun c => { c with msgDrop := Nat.min (2 ^ 32 - 1) (c.msgDrop + 1) })
      else if c.run == .vacated then (if t.core.twin then s else s.keepAct t.core (.cells (cellsAt t.addr t.bytes)))
      else
        let b := bankOf t.addr
        match s.undoHold t.core.lh (fun d => d.id == t.core) [t.addr] with
        | some u => ({ u with tlines := u.tlines ++ [t] }.updCore t.core (fun c => c.moveClaim b u.now (u.now + 4))).sched (u.now + 4) false
            (.tsendLanding id)
        | none =>
        let s := s.updCore t.core (fun c => c.poke (s.umbra t.core.lh) (cellsAt t.addr t.bytes))
        match c.laneRead s.now b with
        | some pc => (s.focus t.core).takeTrap ⟨.bankconf, wd (b + 0x410)⟩ pc
        | none => s)

end Sys2Proof.Machine
end

