-- ==== Sys2Proof/Machine/Drain.lean ====
section
/-! DEFINITION. Committed work as it drains (spec/18_recovery.md R348): stores performed, packets sent, commands handed to their
engines; in a mirror launch, items offered for comparison (R362). -/

namespace Sys2Proof.Machine

/-! ### Sending -/

/-- A packet sent: it arrives T_msg later, and no earlier than the packets its source sent to the same core before, R24, R179. -/
def State.send (s : State) (id : CoreId) (dst addr at_ : Nat) (body : MsgKind ⊕ LogEntry) : State :=
  let t := s.now + s.tMsg (s.posOf id.lh id.lc) (s.posOf id.lh dst)
  let due := (s.packets.filter (fun p => p.lh == id.lh && p.src == id.lc && p.dst == dst)).foldl (fun m p => Nat.max m p.due) t
  let n := s.nextId
  let s := { s with nextId := n + 1, packets := s.packets ++ [Packet.mk n at_ id.lc id.lh dst addr due body] }
  let a := s.posOf id.lh id.lc
  s.schedLegs due true (match body with | .inl _ => .messageArrival n | .inr _ => .logEntryArrival n)
    (legsOf (dieOf a.1 a.2) (s.route id.lh a (s.posOf id.lh dst)) due)

/-- BOSET performed, as a store of the core's own path: EXPECT, ARRIVED, GEN and BSTAT of the object, R217. -/
def State.setObject (s : State) (id : CoreId) (a : Nat) (expect : BitVec 32) : State :=
  (s.pair id (fun c => c.poke (s.umbra id.lh) (cellsAt a (bosetBytes expect (c.mem.num (a + 8) 2))))).useBanks id a

/-- A command handed to its engine; what a command has done at its commit is not done again. In a mirror launch, what is seen beside
the twins is done here, R362. -/
def State.handOver (s : State) (id : CoreId) (d : Drain) (cm : Cmd) : State :=
  let x := inflightOf d.ticket d.at_ d.base d.time d.flag cm
  let ids := (s.pairOf id).map (·.id)
  match cm with
  | .mma zero acc opw dA dB dC => ids.foldl (fun s i => s.startMma i d zero acc opw dA dB dC) s
  | .copyIn .. | .copyOut .. | .gather .. | .mcast .. | .copyLoc .. => s.queueCopy id x
  | .tidDef .. | .tidSwap .. | .tidInv .. =>
    if (s.recOf id.lh).mirror then (match s.core? id with | some c => s.ctxTid c.ctx cm | none => s) else s
  | .trcEmit ev p => if (s.recOf id.lh).mirror then s.traceAt (d.time / 66000) id 0 (0x8000 + ev.toNat) p else s
  | .trcCfg .. => s
  | .boset a (some e) => s.setObject id a e
  | .boset _ none => s
  | .shfItin .. | .shfHold .. => s.addCmd id .sheaf x
  | .shfRead .. => s.startRead id x
  | .shfRel ring =>
    if (s.recOf id.lh).mirror || (((s.core? id).map (fun c => c.unreleased d.ticket)).getD false) then s.release (primOf id) d.ticket ring else s
  | .shfReread ring => s.startReread id x ring
  | .scnCfg .. | .scnRun .. | .scnRed .. | .scnApply .. => ids.foldl (fun s i => s.scanDrained i d.ticket) s
  | .cagrp b => s.startCagrp id x b
  | .reduce b => s.startReduce id x b
  | .cgraph .. => s.addCmd id .coll x
  | .crun nodes _ => s.startCrun id x nodes
  | .cabort agid => s.startCabort id x agid

/-- One piece of committed work performed. -/
def State.performItem (s : State) (id : CoreId) (d : Drain) : State :=
  match d.item with
  | .line ln bs => (s.updCore id (fun c => c.poke (s.umbra id.lh) (lineCells ln bs))).useBank id (64 * ln)
  | .msg dst a m => s.send id dst a d.at_ (.inl m)
  | .log dst e => s.send id dst e.addr d.at_ (.inr e)
  | .cmd _ _ cm => s.handOver id d cm
  | .slotSel .. | .ring .. | .fence .. => s
  | .act (.eventStore off v) => (match s.core? id with | some c => s.storeEvent c off v | none => s)
  | .act (.arrive g) => s.arrive id.lh g id.lc

/-! ### What the twins compare, R362 -/

/-- Numbers on the wire, 8 bytes each. -/
def wireNums (l : List Nat) : List Byte := l.flatMap (leBytes 8)
/-- Descriptors on the wire. -/
def wireDescs (l : List (BitVec 256)) : List Byte := l.flatMap (fun d => leBytes 32 d.toNat)
/-- An optional number on the wire. -/
def wireOpt (o : Option Nat) : List Nat := match o with | some n => [1, n] | none => [0, 0]
/-- A reduction block on the wire. -/
def RedBlk.wire (b : RedBlk) : List Nat :=
  [nbit b.store, b.agid, b.op, b.infmt, b.outfmt, b.src, b.elems, nbit b.srcLocal, nbit b.dstLocal, b.dst] ++
  wireOpt b.flag ++ wireOpt b.staddr
/-- The nodes of a graph on the wire. -/
def wireNodes (l : List (List Nat × RedBlk)) : List Byte := l.flatMap (fun n => wireNums (n.1 ++ n.2.wire))
/-- An itinerary on the wire. -/
def Itin.wire (i : Itin) : List Nat := i.hold :: i.stops.flatMap (fun p => [p.1, p.2])

/-- A command on the wire: its kind, its register operands and the blocks it read at issue; the codes of the kinds are the model's
(log entry 48). -/
def Cmd.wire : Cmd → List Byte
  | .mma z acc opw a b c => wireNums [0, nbit z, acc.toNat, opw.toNat] ++ wireDescs [a, b, c]
  | .copyIn xa xb d f => wireNums [1, xa.toNat, xb.toNat] ++ wireDescs [d, f]
  | .copyOut xa xb d f => wireNums [2, xa.toNat, xb.toNat] ++ wireDescs [d, f]
  | .gather xa xb d f rows => wireNums ([3, xa.toNat, xb.toNat] ++ rows) ++ wireDescs [d, f]
  | .mcast b m _ => wireNums ([4, b.src, b.lines, b.group, b.wbase, b.dst, b.fscope] ++ wireOpt b.dring ++ wireOpt b.bobj ++
      wireOpt b.staddr ++ wireOpt b.flag ++ [m.toNat])
  | .copyLoc src xb => wireNums [5, src, xb.toNat]
  | .tidDef ix d => wireNums [6, ix] ++ wireDescs [d]
  | .tidSwap i j => wireNums [7, i, j]
  | .tidInv i => wireNums [8, i]
  | .shfItin ix it => wireNums ([9, ix] ++ it.wire)
  | .shfHold ix h => wireNums [10, ix, h]
  | .shfRead xa d ix it => wireNums ([11, xa.toNat, ix] ++ it.wire) ++ wireDescs [d]
  | .shfRel r => wireNums [12, r]
  | .shfReread r => wireNums [13, r]
  | .scnCfg c k => wireNums [14, c.op, c.type, c.group, c.steps, c.chans, k]
  | .scnRun a b => wireNums [15, a, b]
  | .scnRed a => wireNums [16, a]
  | .scnApply a b raw => wireNums [17, a, b, nbit raw]
  | .cagrp b => wireNums ([18, b.agid, b.myidx, b.drain] ++ wireOpt b.staddr ++ b.members)
  | .reduce b => wireNums (19 :: b.wire)
  | .cgraph slot ns => wireNums [20, slot] ++ wireNodes ns
  | .crun ns r => wireNums [21, r] ++ wireNodes ns
  | .cabort a => wireNums [22, a]
  | .boset a e => wireNums ([23, a] ++ wireOpt (e.map BitVec.toNat))
  | .trcEmit ev p => wireNums [24, ev.toNat, p.toNat]
  | .trcCfg b x => wireNums [25, b.toNat, x.toNat]

/-- A message's payload on the wire. -/
def MsgKind.wire : MsgKind → List Byte
  | .bytes b => [1, BitVec.ofNat 8 b.length] ++ b
  | .bits p w v => [2, 1, BitVec.ofNat 8 p, BitVec.ofNat 8 w, v]
  | .event n => [3, 0] ++ leBytes 2 n
/-- The code of a logged atomic. -/
def LogOp.code : LogOp → Nat
  | .add => 0
  | .min => 1
  | .max => 2
  | .or => 3
  | .fadd => 4
/-- An item on the wire: destination, kind, length and payload. -/
def Buf.wire : Buf → List Byte
  | .msg dst a m => leBytes 2 dst ++ leBytes 4 a ++ m.wire
  | .log dst e => leBytes 2 dst ++ leBytes 4 e.addr ++ [4, if e.wide then 8 else 4] ++ leBytes 1 e.op.code ++ leBytes 8 e.val.toNat
  | .cmd _ _ cm => [5] ++ cm.wire
  | .act (.eventStore off v) => [6, 8] ++ leBytes 2 off ++ leBytes 8 v.toNat
  | .act (.arrive g) => [7, 2] ++ leBytes 2 g
  | .line .. | .slotSel .. | .ring .. | .fence .. => []

/-- An item offered for comparison by a twin. -/
def Core.offer (c : Core) (now : Nat) (d : Drain) : Core :=
  { c with
    mirror := c.mirror ++ [MirrorItem.mk c.mirrorN (crc64 d.item.wire) now d]
    mirrorN := c.mirrorN + 1 }

/-! ### The drains -/

/-- The next piece of a core's committed work drained, R348; in an Umbra launch the first write of a line is held, R358. -/
def State.drainOne (s : State) (id : CoreId) : State :=
  match s.core? id with
  | none => s
  | some c =>
    let wait := s.loadsAfter c
    let s := if wait.isEmpty then s else s.updCore id (fun c => { c with loadAfter := (c.loadAfter ++ wait).eraseDups })
    match s.dropFences c with
    | [] => s.updCore id (fun c => { c with drainq := [] })
    | d :: t =>
      let copied := match d.item with
        | .line ln bs => s.undoHold id.lh (fun c => c.id == id) ((lineCells ln bs).map (fun (x : Host.Cell) => x.1))
        | .cmd _ _ (.boset a (some _)) => if (s.recOf id.lh).mirror then none else s.undoHold id.lh (fun c => c.id == id) [a]
        | .msg .. | .log .. | .cmd .. | .slotSel .. | .ring .. | .fence .. | .act .. => none
      match copied with
      | some s => s.updCore id (fun c => { c with drainq := d :: t, nextDrain := s.now + 4 })
      | none =>
      let s := s.updCore id (fun c => { c with drainq := t, nextDrain := s.now + 1 })
      let compared := match d.item with | .line .. | .slotSel .. | .ring .. | .fence .. => false | .msg .. | .log .. | .cmd .. | .act .. => true
      let s := if compared && (s.recOf id.lh).mirror then s.updCore id (fun c => c.offer s.now d) else s.performItem id d
      s.snapAgain id

/-- STORE_LINE_DRAIN: a committed line's stores are performed, or its message or append is sent. -/
def execStoreLineDrain (c : CoreId) (s : State) : Out := .next (s.drainOne c)
/-- COMMAND_DRAIN: a committed command is handed to its engine. -/
def execCommandDrain (c : CoreId) (s : State) : Out := .next (s.drainOne c)

end Sys2Proof.Machine
end

