-- ==== Sys2Proof/Machine/Saved.lean ====
section
/-! DEFINITION. The saved context: its segments and the checks of a restore (spec/17_isa_system.md R342 to R345). -/

namespace Sys2Proof.Machine

/-- CRC-32C, polynomial 0x1EDC_6F41 reflected, initial value and final XOR all ones. -/
def crc32c (bs : List Byte) : BitVec 32 :=
  let step (c : BitVec 32) : BitVec 32 := if c.getLsbD 0 then (c >>> 1) ^^^ 0x82F63B78 else c >>> 1
  ~~~(bs.foldl (fun c b => (List.range 8).foldl (fun c _ => step c) (c ^^^ b.setWidth 32)) (0xFFFFFFFF : BitVec 32))

/-- The types of segments, in the order of R247. -/
inductive SegType where
  | regs | live | lmem | ring | strm | barrier | sheaf | scan | mma
  deriving DecidableEq, Repr
/-- The code of a type. -/
def SegType.code : SegType → Nat
  | .regs => 1
  | .live => 2
  | .lmem => 3
  | .ring => 4
  | .strm => 5
  | .barrier => 6
  | .sheaf => 7
  | .scan => 8
  | .mma => 9

/-! ### Payloads, R343 -/

/-- REGS. -/
def Core.regsPayload (c : Core) (now : Nat) : List Byte :=
  let w (x : Word) : List Byte := leBytes 8 x.toNat
  let a := c.arch
  [a.status, a.fflags, c.cause, c.tval, c.epc, c.trapvec, c.regpc, wd c.regcnt, wd c.reglim, zx (a.livex ||| 1), c.livevWord].flatMap w ++
  a.k.toList.tail.flatMap w ++ (a.lc.toList ++ a.ls.toList ++ a.le.toList).flatMap w ++
  a.seed.toList.flatMap (fun x => leBytes 4 x.toNat) ++ c.eseq.toList.flatMap (leBytes 8) ++ leBytes 8 c.cycles ++ w c.mmaWord ++
  w c.traceBase ++ w c.traceXb ++ leBytes 8 c.traceSeq ++ w (c.exchangeWord now) ++ leBytes 8 (nbit c.slaved)
/-- LIVE: what LIVEX and LIVEV name; a bound stream register is live (R43). -/
def Core.livePayload (c : Core) : List Byte :=
  ((List.range 32).filter (fun i => i != 0 && c.arch.livex.getLsbD i)).flatMap (fun i => leBytes 8 (nth c.arch.x.toList i 0).toNat) ++
  ((List.range 16).filter (fun i => c.livevWord.getLsbD i)).flatMap (fun i => laneBytes (nth c.arch.v.toList i 0))

/-- The lines of a memory that are not all zero, in order. -/
def nonzeroLines (m : Mem) : List Nat :=
  m.foldl (fun l p => if l.getLast? == some (p.1 / 64) then l else l ++ [p.1 / 64]) []
/-- Lines cut into runs of at most 63. -/
def lineRuns (ls : List Nat) : List (Nat × Nat) :=
  ls.foldl (fun rs l => match rs.getLast? with
    | some (a, n) => if a + n = l && n < 63 then rs.dropLast ++ [(a, n + 1)] else rs ++ [(l, 1)]
    | none => [(l, 1)]) []
/-- LMEM, a payload for each run. -/
def Core.lmemPayloads (c : Core) : List (List Byte) :=
  (lineRuns (nonzeroLines c.mem)).map (fun r => leBytes 4 (64 * r.1) ++ leBytes 4 r.2 ++ c.mem.getN (64 * r.1) (64 * r.2))
/-- RING. -/
def Core.ringPayload (c : Core) : List Byte :=
  ((List.range 8).filter (fun n => (ringAt c.rings n).conf)).flatMap (fun n =>
    let r := ringAt c.rings n
    [n, r.size, r.headAddr, r.tailAddr, r.appended, r.claimed, 0, 0].flatMap (leBytes 4))
/-- STRM. -/
def Core.strmPayload (c : Core) : List Byte :=
  ((List.range 4).filter (fun n => (c.stream n).conf)).flatMap (fun n =>
    let s := c.stream n
    leBytes 4 n ++ leBytes 4 (nbit s.bound) ++ leBytes 8 s.pos ++
    [s.base.toNat, s.icount.toNat, s.istride.toNat, s.ocount.toNat, s.ostride.toNat, nbit s.write, 0, 0].flatMap (leBytes 8))
/-- BARRIER: the armed slots, the mutexes held, and for each group of the core the first generation for which this vacate counts as an
arrival (R256). -/
def State.barrierPayload (s : State) (c : Core) : List Byte :=
  let armed := (List.range 16).filter (fun j => (nth c.armed.toList j none).isSome)
  let held := s.evsets.flatMap (fun e =>
    ((List.range 16).filter (fun i => e.ctx == c.ctx && (e.mutex i).holder == some c.key)).map (fun i => (e.cluster, i)))
  let groups := (s.kernOf c.id.lh).groupsWith c.id.lc
  if armed.isEmpty && held.isEmpty && groups.isEmpty then [] else
  leBytes 8 armed.length ++ armed.flatMap (fun j => leBytes 16 (c.armedWord j)) ++
  leBytes 8 held.length ++ held.flatMap (fun p => leBytes 2 p.1 ++ leBytes 2 p.2) ++
  padTo 16 (groups.flatMap (fun g => leBytes 2 g ++ leBytes 2 (s.ownGen c g)))
/-- SHEAF: the stop records, and the words of the tours that the core started. -/
def State.sheafPayload (s : State) (c : Core) : List Byte :=
  c.stops.flatMap (fun r => leBytes 4 r.ring ++
    leBytes 8 (r.word (match r.st with | .ready o | .taken o => o | .pending | .released => 0))) ++
  c.tours.flatMap (fun p => leBytes 8 (match s.tour? p.2 with | some t => t.word.toNat | none => 0) ++ leBytes 8 p.1)
/-- SCAN. -/
def Core.scanPayload (c : Core) : List Byte :=
  match c.scan.cfg with
  | none => []
  | some g =>
    leBytes 1 g.op ++ leBytes 1 g.type ++ leBytes 2 g.group ++ leBytes 2 g.steps ++ leBytes 2 g.chans ++ leBytes 24 0 ++
    leBytes 4 c.scan.k ++ leBytes 2 c.scan.gen ++ leBytes 2 (nbit c.scan.carry?.isSome + 2 * nbit c.scan.aggSent) ++
    (match c.scan.carry? with | some y => y.bytes | none => [])
/-- MMA: the commands issued and not started. -/
def Core.mmaPayload (c : Core) : List Byte :=
  (c.mma.filter (fun x => x.started.isNone)).flatMap (fun x =>
    leBytes 8 x.n ++ leBytes 8 x.acc.toNat ++ leBytes 8 x.opw.toNat ++ leBytes 1 (nbit x.zero) ++ leBytes 7 0 ++
    [x.dA, x.dB, x.dC].flatMap (fun d => leBytes 32 d.toNat))

/-! ### Payloads restored, R345

What a payload carries is written into the core as it lies in the bytes; what no payload carries (a ring's base, whether a ring whose head and
tail meet is full, the engines' commands in flight, the stop records' tours) stays as the package has kept it (log entry 42). -/

/-- A 64-bit field of a payload. -/
def pay64 (p : List Byte) (off : Nat) : Word := wd (blkField p off 8)
/-- REGS written. -/
def Core.setRegs (c : Core) (p : List Byte) : Core :=
  let w := pay64 p
  let q := w 0x150
  let kept (now field n : Nat) : Nat := if now % n = field then now else field
  { c with
    arch := { c.arch with
      status := w 0, fflags := w 8, livex := (w 0x48).setWidth 32, livev := (w 0x50).setWidth 16
      k := Vector.ofFn (fun (i : Fin 8) => if i.val = 0 then c.arch.k[0] else w (0x50 + 8 * i.val))
      lc := #v[w 0x90, w 0x98], ls := #v[w 0xA0, w 0xA8], le := #v[w 0xB0, w 0xB8]
      seed := Vector.ofFn (fun (i : Fin 16) => BitVec.ofNat 32 (blkField p (0xC0 + 4 * i.val) 4)) }
    cause := w 0x10, tval := w 0x18, epc := w 0x20, trapvec := w 0x28, regpc := w 0x30, regcnt := (w 0x38).toNat, reglim := (w 0x40).toNat
    cycles := (w 0x128).toNat, mmaErr := (w 0x130).getLsbD 0, mmaFail := kept c.mmaFail (bitsOf (w 0x130).toNat 63 32) (2 ^ 32)
    mmaLast := kept c.mmaLast (bitsOf (w 0x130).toNat 23 16) 256, traceBase := w 0x138, traceXb := w 0x140, traceSeq := (w 0x148).toNat
    slotCount := kept c.slotCount (bitsOf q.toNat 59 48) 4096, slotFirst := bitsOf q.toNat 47 32, slaved := (w 0x158).getLsbD 0 }
/-- Values of a list placed at the positions that a test names, in order; the rest 0. -/
def placeBits {α : Type} (zero : α) : List Bool → List α → List α
  | [], _ => []
  | true :: t, v :: vs => v :: placeBits zero t vs
  | _ :: t, vs => zero :: placeBits zero t vs
/-- LIVE written, behind REGS: the registers that LIVEX and LIVEV name, and 0 in the others (R321). -/
def Core.setLive (c : Core) (p : List Byte) : Core :=
  let lx := (List.range 32).map (fun i => i != 0 && c.arch.livex.getLsbD i)
  let lv := (List.range 16).map (fun i => c.arch.livev.getLsbD i)
  let nx := lx.count true
  let xs := placeBits 0 lx ((List.range nx).map (fun i => pay64 p (8 * i)))
  let vs := placeBits 0 lv ((List.range (lv.count true)).map (fun i => laneOf ((p.drop (8 * nx + 64 * i)).take 64)))
  { c with arch := { c.arch with x := Vector.ofFn (fun i => nth xs i.val 0), v := Vector.ofFn (fun i => nth vs i.val 0) } }
/-- One LMEM run written. -/
def Core.setLines (c : Core) (p : List Byte) : Core :=
  { c with mem := c.mem.setN (blkField p 0 4) ((p.drop 8).take (64 * blkField p 4 4)) }
/-- The rings of RING written: the others are not configured. -/
def Core.setRings (c : Core) (p : List Byte) : Core :=
  let of (n : Fin 8) : Ring :=
    match (pieces 32 (p.length / 32) p).find? (fun b => blkField b 0 4 == n.val) with
    | none => Ring.none
    | some b =>
      let r := c.erings[n]
      let size := blkField b 4 4
      let far := (blkField b 12 4 / 64 + size - blkField b 8 4 / 64) % size
      { r with
        conf := true, size := size, head := (blkField b 8 4 - r.base) / 64, held := if far = 0 then r.held else far
        appended := blkField b 16 4, claimed := blkField b 20 4 }
  { c with rings := Vector.ofFn of, erings := Vector.ofFn of }
/-- The streams of STRM written: the others are not configured. -/
def Core.setStreams (c : Core) (p : List Byte) : Core :=
  let of (n : Fin 4) : Stream :=
    match (pieces 80 (p.length / 80) p).find? (fun b => blkField b 0 4 == n.val) with
    | none => Stream.none
    | some b => ⟨true, bitOf (blkField b 4 4) 0, pay64 b 16, pay64 b 24, pay64 b 32, pay64 b 40, pay64 b 48, bitOf (blkField b 56 8) 0, blkField b 8 8⟩
  { c with arch := { c.arch with streams := Vector.ofFn of } }
/-- BARRIER written: the armed objects in their slots, and the generations for which the vacate has arrived. -/
def State.setBarrier (s : State) (c : Core) (p : List Byte) : Core :=
  let n := blkField p 0 8
  let objs := (List.range n).map (fun i => bitsOf (blkField p (8 + 16 * i) 8) 30 0)
  let off := 16 + 16 * n + 4 * blkField p (8 + 16 * n) 8
  let slots := placeBits none (c.armed.toList.map Option.isSome) (objs.map some)
  let groups := (List.range ((s.kernOf c.id.lh).groupsWith c.id.lc).length).map (fun i => (blkField p (off + 4 * i) 2, blkField p (off + 4 * i + 2) 2))
  { c with
    armed := Vector.ofFn (fun i => nth slots i.val none), arrivedAt := []
    credits := groups.flatMap (fun g => s.gensFrom c.id.lh g.1 g.2) }
/-- SCAN written; a carry that has reached the member since its save is the package's, R255. -/
def Core.setScan (c : Core) (p : List Byte) : Core :=
  let b := blkField p 38 2
  let carry := p.drop 40
  { c with scan := { c.scan with
    cfg := some ⟨blkField p 0 1, blkField p 1 1, blkField p 2 2, blkField p 4 2, blkField p 6 2⟩, k := blkField p 32 4, gen := blkField p 36 2
    aggSent := bitOf b 1
    carries := if bitOf b 0 then c.scan.carries.map (fun y => if y.serial = c.scan.serial then { y with bytes := carry } else y)
      else c.scan.carries } }
/-- MMA written: the commands issued and not started, with the claims they have. -/
def Core.setMma (c : Core) (p : List Byte) : Core :=
  let of (x : MmaCmd) : MmaCmd :=
    match (pieces 128 (p.length / 128) p).find? (fun b => blkField b 0 8 == x.n) with
    | none => x
    | some b =>
      let d (off : Nat) : BitVec 256 := BitVec.ofNat 256 (blkField b off 32)
      { x with acc := pay64 b 8, opw := pay64 b 16, zero := bitOf (blkField b 24 1) 0, dA := d 32, dB := d 64, dC := d 96 }
  { c with mma := c.mma.map of }

/-! ### Segments, R342 -/

/-- A payload cut into segments' payloads. -/
def cutPayload (p : List Byte) : List (List Byte) := pieces 4060 ((p.length + 4059) / 4060) p

/-- The payloads of a core's save, with their types, R247. -/
def State.payloads (s : State) (c : Core) : List (SegType × List Byte) :=
  [(.regs, c.regsPayload s.now), (.live, c.livePayload)] ++ c.lmemPayloads.map (fun p => (.lmem, p)) ++
  (cutPayload c.ringPayload).map (fun p => (.ring, p)) ++ (cutPayload c.strmPayload).map (fun p => (.strm, p)) ++
  (cutPayload (s.barrierPayload c)).map (fun p => (.barrier, p)) ++ (cutPayload (s.sheafPayload c)).map (fun p => (.sheaf, p)) ++
  (cutPayload c.scanPayload).map (fun p => (.scan, p)) ++ (cutPayload c.mmaPayload).map (fun p => (.mma, p))

/-- One segment. -/
def segment (c : Core) (time seq : Nat) (t : SegType) (last : Bool) (p : List Byte) : List Byte :=
  let b := leBytes 4 seq ++ leBytes 1 t.code ++ leBytes 1 (nbit last) ++ leBytes 1 c.ctx ++ leBytes 1 0 ++ leBytes 2 c.id.lc ++
    leBytes 2 p.length ++ leBytes 4 c.id.lh ++ leBytes 8 time ++ leBytes 8 0 ++ padTo 4060 p
  b ++ leBytes 4 (crc32c b).toNat
/-- The segments of a core's save. -/
def State.segments (s : State) (c : Core) (time : Nat) : List (List Byte) :=
  let ps := s.payloads c
  (List.range ps.length).map (fun i =>
    let p := nth ps i (.regs, [])
    segment c time (i + 1) p.1 (i + 1 == ps.length) p.2)

/-- The bytes that the segments of one type carry, in order. -/
def payloadOf (segs : List (List Byte)) (t : SegType) : List Byte :=
  segs.flatMap (fun b => if blkField b 4 1 = t.code then (b.drop 0x20).take (blkField b 10 2) else [])
/-- SHEAF written: the stop records, and the tickets of the tours that the core started; the tours themselves, and the records of stops that
the tile has passed since the save, are the package's. -/
def Core.setSheaf (c : Core) (p : List Byte) : Core :=
  let n := (p.length - 16 * c.tours.length) / 12
  let rec_ (i : Nat) (r : StopRec) : StopRec :=
    let w := blkField p (12 * i + 4) 8
    let o := bitsOf w 63 56
    { r with
      ring := blkField p (12 * i) 4, stop := bitsOf w 55 52, lines := bitsOf w 51 36, addr := bitsOf w 35 0
      st := if o = 0 then r.st else .ready o }
  { c with
    stops := (List.range c.stops.length).zipWith (fun i r => if i < n then rec_ i r else r) c.stops
    tours := (List.range c.tours.length).zipWith (fun i t => (blkField p (12 * n + 16 * i + 8) 8, t.2)) c.tours }
/-- A scrubbed core with the segments written in order, R321, R345. -/
def State.restored (s : State) (c : Core) (segs : List (List Byte)) : Core :=
  let p := payloadOf segs
  let part (t : SegType) (f : Core → List Byte → Core) (c : Core) : Core := if (p t).isEmpty then c else f c (p t)
  let c := { c with mem := [], arch := Arch.clear }
  let c := (c.setRegs (p .regs)).setLive (p .live)
  let c := segs.foldl (fun c b => if blkField b 4 1 = SegType.lmem.code then c.setLines ((b.drop 0x20).take (blkField b 10 2)) else c) c
  let c := (c.setRings (p .ring)).setStreams (p .strm)
  let c := part .sheaf Core.setSheaf (part .barrier s.setBarrier c)
  let c := part .mma Core.setMma (part .scan Core.setScan c)
  { c with ckpt := c.arch }

/-- The indices of a translation table's entries of which a byte is listed. -/
def tableIxs (mem : Mem) (table : Nat) : List Nat :=
  ((mem.filter (fun (x : Host.Cell) => decide (table ≤ x.1) && decide (x.1 < table + 4096))).map (fun (x : Host.Cell) => (x.1 - table) / 8)).eraseDups
/-- The ranges of device memory that the leaves below a table at a level map, R312 to R314. -/
def leafRanges (mem : Mem) (p : Partition) : Nat → Nat → List (Nat × Nat)
  | 0, table => (tableIxs mem table).filterMap (fun ix =>
      let pte := mem.num (table + 8 * ix) 8
      if bitOf pte 0 && !bitOf pte 63 then some (ptePa pte, pageBytes (pteSize pte)) else none)
  | lvl + 1, table => (tableIxs mem table).flatMap (fun ix =>
      let pte := mem.num (table + 8 * ix) 8
      if !bitOf pte 0 then []
      else if bitOf pte 1 then (if bitOf pte 63 then [] else [(ptePa pte, pageBytes (pteSize pte))])
      else if inPart p (ptePa pte) then leafRanges mem p lvl (ptePa pte) else [])
/-- The ranges of device memory that some context maps. -/
def State.mapped (s : State) : List (Nat × Nat) :=
  s.ctxs.flatMap (fun x => (x.2.roots.toList.filter (fun r => r != 0)).flatMap (fun r => leafRanges s.hbm (s.partOf x.1) 3 r.toNat))
/-- The place of a save of a number of segments in its partition's physical range, R342: where it is if it fits there, else the firmware's
choice, and else the first place that neither another save holds nor a context maps (log entry 42). -/
def State.savePlace (s : State) (v : Saved) (n : Nat) : Nat :=
  let part := s.partOf v.ctx
  let taken := (s.saved.filter (fun (u : Saved) => u.id != v.id && u.count != 0)).map (fun u => (u.place, 4096 * u.count)) ++ s.mapped
  let up (a : Nat) : Nat := (a + 4095) / 4096 * 4096
  let free (a : Nat) : Bool := decide (part.base ≤ a) && decide (a + 4096 * n ≤ part.limit) &&
    taken.all (fun t => decide (a + 4096 * n ≤ t.1) || decide (t.1 + t.2 ≤ a))
  let pages := Nat.max 1 ((part.limit - part.base) / 4096)
  let first := up part.base + 4096 * (Config.saveArea (s.ctx v.ctx).part % pages)
  (((if v.count = 0 then [] else [v.place]) ++ [first, up part.base] ++ taken.map (fun t => up (t.1 + t.2))).find? free).getD first
/-- The segments of a core written into device memory, R342. -/
def State.writeSegs (s : State) (id : CoreId) : State :=
  match s.core? id, s.saved.find? (fun (v : Saved) => v.id == id) with
  | some c, some v =>
    let segs := s.segments c v.time
    let at_ := s.savePlace v segs.length
    { s.hbmWrite at_ segs.flatten with saved := s.saved.map (fun (v : Saved) =>
        if v.id == id then { v with place := at_, count := segs.length, seq := c.traceSeq } else v) }
  | _, _ => s

/-- The checks of a restore on one segment, R345. -/
def segmentOk (c : Core) (n prev : Nat) (b : List Byte) : Bool :=
  b.length == 4096 && blkField b 0xFFC 4 == (crc32c (b.take 0xFFC)).toNat && blkField b 0 4 == n &&
  decide (prev ≤ blkField b 4 1) && blkField b 6 1 == c.ctx && blkField b 8 2 == c.id.lc && blkField b 12 4 == c.id.lh % 2 ^ 32 &&
  decide (blkField b 10 2 ≤ 4060) && (blkField b 4 1 != 1 || bitOf (blkField b (0x20 + 0x48) 8) 0)
/-- The segments of a save as device memory holds them; none where one of their lines is poisoned (R322). -/
def State.readSegs (s : State) (v : Saved) : List (List Byte) :=
  if s.poison.any (fun l => decide (v.place < 64 * l + 64) && decide (64 * l < v.place + 4096 * v.count)) then []
  else (List.range v.count).map (fun i => s.hbm.getN (v.place + 4096 * i) 4096)

/-- The checks of a restore on every segment, in order; the last has END set. -/
def segmentsOk (c : Core) : Nat → Nat → List (List Byte) → Bool
  | _, _, [] => false
  | n, prev, b :: t =>
    segmentOk c n prev b && (if t.isEmpty then bitOf (blkField b 5 1) 0 else segmentsOk c (n + 1) (blkField b 4 1) t)

end Sys2Proof.Machine
end

