-- ==== Sys2Proof/Machine/System.lean ====
section
/-! DEFINITION. The system instructions and registers (spec/17_isa_system.md R328 to R339), and the group instructions
(spec/12_isa_flow_sync.md R274 to R276). -/

namespace Sys2Proof.Machine

/-! ### System registers, R329 to R332 -/

/-- The value of a system register. -/
def Core.sysValue (c : Core) : SysReg → Word
  | .status => c.arch.status
  | .fflags => c.arch.fflags
  | .cause => c.cause
  | .tval => c.tval
  | .epc => c.epc
  | .trapvec => c.trapvec
  | .regpc => c.regpc
  | .regcnt => wd c.regcnt
  | .reglim => wd c.reglim
  | .livex => zx (c.arch.livex ||| 1)
  | .livev => c.livevWord
  | .gridmap => c.gridmap
  | .lc i => c.arch.lc[i]
  | .ls i => c.arch.ls[i]
  | .le i => c.arch.le[i]
  | .eseq p => wd c.eseq[clsIx p]
  | .seed i => zx c.arch.seed[i]
  | .ringhead i => wd c.rings[i].headAddr
  | .ringtail i => wd c.rings[i].tailAddr

/-- The writable bits of STATUS, R331. -/
def statusMask : Word := 0xFFC

/-- STATUS after a write: TEST rises only where the partition permits test. -/
def statusWrite (old v : Word) (testOk : Bool) : Word :=
  let v' := if v.getLsbD 6 && !testOk then (v &&& ~~~(0x40 : Word)) ||| (old &&& 0x40) else v
  (old &&& ~~~statusMask) ||| (v' &&& statusMask)

/-- A write of a system register; read-only registers and bits ignore it, R330. -/
def Core.sysWrite (c : Core) (now : Nat) (testOk : Bool) (n : SysReg) (v : Word) : Core :=
  match n with
  | .status => { c with arch := { c.arch with status := statusWrite c.arch.status v testOk } }
  | .fflags =>
    { c with arch := { c.arch with fflags := (v &&& 0xFF) ||| (if c.raisedAt = now then zx c.raised else 0) } }
  | .cause => { c with cause := v &&& 0xFF }
  | .tval => { c with tval := v }
  | .epc => { c with epc := v &&& ~~~(1 : Word) }
  | .trapvec => { c with trapvec := v &&& ~~~(1 : Word) }
  | .seed i =>
    let w := v.extractLsb' 0 32
    { c with arch := { c.arch with seed := c.arch.seed.set i (if w = 0 then 1 else w) } }
  | .regpc | .regcnt | .reglim | .livex | .livev | .gridmap | .lc _ | .ls _ | .le _ | .eseq _ | .ringhead _ | .ringtail _ => c

/-- A write formed from the register and X[a], R330. -/
def State.sysUpdate (s : State) (n : SysReg) (r : S1) (f : Word → Word → Word) : Out :=
  s.runCore (do
    let (c, x) ← s.core.srcA r.a r.la
    .ok ((c.sysWrite s.now (s.partOf s.core.ctx).testOk n (f (c.sysValue n) x)).advance s.now wordSize))

/-- SYSR; one of FFLAGS also takes the flags raised later in its cycle, R97. -/
def execSysr (d : XReg) (n : SysReg) (s : State) : Out :=
  s.runCore (
    let c := s.core
    let c' := if d = 0 then c else
      { c with flights := c.flights ++ [⟨c.iseq, s.now, s.now + 2, c.pc, .x d (c.sysValue n), 0, n == .fflags⟩] }
    .ok (c'.advance s.now wordSize))
/-- SYSW. -/
def execSysw (n : SysReg) (r : S1) (s : State) : Out := s.sysUpdate n r (fun _ x => x)
/-- SYSSET. -/
def execSysset (n : SysReg) (r : S1) (s : State) : Out := s.sysUpdate n r (fun v x => v ||| x)
/-- SYSCLR. -/
def execSysclr (n : SysReg) (r : S1) (s : State) : Out := s.sysUpdate n r (fun v x => v &&& ~~~x)

/-! ### Calls, traps and the end of a core, R335 to R339 -/

/-- ECALL: the region commits, and the core sleeps on a SERVICE entry that holds x10 and x11, R336. -/
def execEcall (s : State) : Out :=
  s.run (do
    s.core.notInHandler
    let s' ← s.commitBehind (s.core.advance s.now wordSize)
    let c := s'.core
    let d := { c with arch := c.ckpt }
    let s1 := (s'.trace c.id 1 (0x100 + Cause.code .ecall) 0)
    let (s2, n) := s1.fault c.ctx (d.xval 10).toNat 5 false 0 false ⟨c.id, none⟩ (d.xval 11).toNat
    let c2 := s2.core.record ⟨.ecall, 0⟩ s.core.pc
    .ok (s2.withCore { c2 with arch := c2.ckpt, flights := [], pc := c2.regpc, run := .onFault n }))
/-- EBREAK, R337. -/
def execEbreak (s : State) : Out := s.run (trapR .ebreak 0)
/-- TRAP, R337. -/
def execTrap (r : S1) (s : State) : Out :=
  s.run (do
    let x ← s.core.readX r.a
    trapR .swtrap x)
/-- ERET, R335; it is held until the handler's pushes have been performed (log entry 21). -/
def execEret (s : State) : Out :=
  s.run (do
    need s.core.inh .access 0xE3
    needIdle (!s.core.flights.any s.core.isPush)
    .ok s.eret)
/-- INJECT, R338. -/
def execInject (r : S1) (s : State) : Out :=
  s.run (do
    s.core.notInHandler
    let (c, x) ← s.core.srcA r.a r.la
    let u := bitsOf x.toNat 3 0
    need (decide (1 ≤ u ∧ u ≤ 4) && (x &&& ~~~(0xFF0F : Word)) == 0) .access 0xE2
    need (c.arch.status.getLsbD 6) .access 0xE1
    if c.regcnt ≠ bitsOf x.toNat 15 8 then .ok (s.withCore (c.advance s.now wordSize))
    else .ok (s.detect u true s.core.pc))

/-- Whether a core's rings hold lines of a tour that has not ended, R300. -/
def State.holdsTourLines (s : State) (c : Core) : Bool :=
  c.stops.any (fun r => (s.tours.any (fun t => t.id == r.tour && !t.ended)) && (match r.st with
    | .ready o | .taken o => o != 3
    | .released => true
    | .pending => false))

/-- HALT, R339, R300: the region commits and the logical core ends; its committed work drains on. No region opens after it: REGPC
stays as R372 prints it, and REGCNT is 0 (R350; log entry 58). -/
def execHalt (s : State) : Out :=
  s.run (do
    s.marker
    need (!s.core.anchored) .access 0xC6
    need (!s.holdsTourLines s.core) .access 0xC5
    let s' ← s.commitBehind (s.core.advance s.now wordSize)
    let id := s'.core.id
    let s1 := s'.withCore { s'.core with run := .halted, regpc := s.core.regpc, slaved := false, forwards := [] }
    .ok (s1.updLaunch id.lh (fun l => { l with halted := if l.halted.contains id.lc then l.halted else l.halted ++ [id.lc] })))

/-! ### Groups, R274, R275 -/

/-- The group an operand names; 256 or more traps. -/
def groupNum (x : Word) : Res Nat := do
  need (decide (x.toNat < 256)) .access 0xB1
  .ok x.toNat
/-- A group that the core must be a member of. -/
def State.memberGroup (s : State) (x : Word) : Res Nat := do
  let g ← groupNum x
  need ((s.groupOf s.core.id.lh g).contains s.core.id.lc) .access 0xB2
  .ok g

/-- GRPID. -/
def execGrpid (r : R2) (s : State) : Out :=
  s.runCore (do
    let (c, x) ← s.core.srcA r.a r.la
    let g ← groupNum x
    let v := match indexOf? (· == c.id.lc) (s.groupOf c.id.lh g) with
      | some i => wd i
      | none => BitVec.allOnes 64
    c.opD s.now 2 wordSize r.d v)
/-- GRPSZ. -/
def execGrpsz (r : R2) (s : State) : Out :=
  s.runCore (do
    let (c, x) ← s.core.srcA r.a r.la
    let g ← groupNum x
    c.opD s.now 2 wordSize r.d (wd (s.groupOf c.id.lh g).length))
/-- GBAR. -/
def execGbar (r : R2) (s : State) : Out :=
  s.runWait (fun s => do
    let (c, x) ← s.core.srcA r.a r.la
    let g ← s.memberGroup x
    (s.withCore c).barrierWait g (fun n => .gbar g n r.d))
/-- GARRIVE: the generation it arrives for is the current one, or one that a vacate has arrived for already (R256). -/
def execGarrive (r : R2) (s : State) : Out :=
  s.run (do
    s.core.notInHandler
    let (c, x) ← s.core.srcA r.a r.la
    let g ← s.memberGroup x
    let n := s.ownGen c g
    let here := c.credits.contains (g, n)
    let c1 := ({ c with credits := c.credits.erase (g, n), arrivedAt := c.arrivedAt.erase (g, n) }.writeX s.now 2 r.d
      (wd ((n + 1) % 2 ^ 16))).advance s.now wordSize
    let s' ← s.commitBehind c1
    .ok (if here then s' else s'.act (.arrive g) (fun s => s.arrive c.id.lh g c.id.lc)))
/-- GWAITB. -/
def execGwaitb (r : R3) (s : State) : Out :=
  s.runWait (fun s => do
    let (c, x, y) ← s.core.srcAB r.a r.b r.la r.lb
    let g ← s.memberGroup x
    (s.withCore c).sleep (.gwaitb g (y.extractLsb' 0 16) r.d))
/-- FOLLOW: without effect in a gang of 1 or in a gang that is slaved, R276. -/
def execFollow (s : State) : Out :=
  if s.gangOf s.core = 1 || s.core.slaved then
    s.runCore (do
      s.core.notInHandler
      .ok (s.core.advance s.now wordSize))
  else s.runWait (fun s => s.sleep .follow)
/-- UNFOLLOW: each member of a slaved gang fetches on its own again, R276. -/
def execUnfollow (s : State) : Out :=
  s.runCore (do
    s.core.notInHandler
    .ok { s.core.advance s.now wordSize with slaved := false })
/-- LCORE. -/
def execLcore (r : R2) (s : State) : Out :=
  s.runCore (do
    let (c, x) ← s.core.srcA r.a r.la
    need (decide (x.toNat < s.gridOf c)) .access 0xB4
    let v := match s.core? ⟨c.id.lh, x.toNat, c.id.twin⟩ with
      | some d => if s.isResident d then wd (d.row * 256 + d.col) else 1 <<< 63
      | none => 1 <<< 63
    c.opD s.now 2 wordSize r.d v)

end Sys2Proof.Machine
end

