-- ==== Sys2Proof/Machine/CoreEvents.lean ====
section
/-! DEFINITION. The events of the cores: what a fetch raises instead of an instruction (spec/02_encoding.md R36, R52), the ends of
waits and holds, ticks (spec/11_progress.md R258), detected errors (spec/18_recovery.md R353), and the firing of group barriers and of
SNAP (spec/12_isa_flow_sync.md R275; spec/18_recovery.md R357). -/

namespace Sys2Proof.Machine

/-! ### Fetch, R27, R36, R52 -/

/-- ILLEGAL: the core that issues traps, with the instruction as fetched in TVAL, R53, R334. -/
def execIllegal (w : BitVec 32) (s : State) : Out := s.run (trapR .illegal (zx w))
/-- OUTSIDE_LOADED_TEXT: ACCESS, with the PC in TVAL. -/
def execOutsideLoadedText (s : State) : Out := s.run (trapR .access s.core.pc)
/-- CTX_ECMD: in kernel mode it traps; no list of the management commands is given (R48). -/
def execCtxEcmd (_w : BitVec 32) (s : State) : Out :=
  if s.core.inh then s.run (access 0xE0)
  else if s.core.arch.status.getLsbD 0 then .refused .ctxCommandNotGiven
  else s.run (access 0xF8)

/-! ### Waits and holds that end -/

/-- The return of the wait of a core, when it is one that a test names. -/
def State.endWait (s : State) (id : CoreId) (p : Wait → Bool) : Out :=
  let s := s.focus id
  if s.core.id != id then .next s else
  match s.core.run with
  | .waiting w => if p w then s.run (s.finish w) else .next s
  | _ => .next s

/-- SLEEPU_EXPIRY, R267. -/
def execSleepuExpiry (c : CoreId) (s : State) : Out :=
  s.endWait c (fun w => match w with | .sleepu t => decide (s.timeNs ≥ t.toNat) | _ => false)
/-- WAITA_DEADLINE: the wait returns 4; a deadline of 0 is none, and one with no slot enabled ends at once, R203. -/
def execWaitaDeadline (c : CoreId) (s : State) : Out :=
  s.endWait c (fun w => match w with | .arm _ slots t => if t = 0 then slots.isEmpty else decide (s.timeNs ≥ t.toNat) | _ => false)
/-- SCOPE_ACKNOWLEDGEMENT: the hold of a FENCE.X ends, R200. -/
def execScopeAcknowledgement (c : CoreId) (s : State) : Out :=
  .next (s.updCore c (fun d => if d.run == .waiting .ack && decide (d.nextIssue ≤ s.now) then { d with run := .ready } else d))

/-- TICK: every core of the launch that sleeps in REALIGN goes on, in the first cycle that its die does not lose, R258, R268. A member of a
slaved gang keeps its tick, and returns with every other member (R202). -/
def execTick (lh : Nat) (s : State) : Out :=
  let p := (s.recOf lh).tick
  .next (s.mapCores (fun c => c.id.lh == lh) (fun c => match c.run with
    | .waiting (.realign d t) =>
      if c.slaved then { c with run := .waiting (.realign d (t.or (some (wd (s.timeNs / p))))) } else
      let e := c.realign s.now d (wd (s.timeNs / p))
      if s.withheld c.die then { e with nextIssue := s.now + 1, window := some (s.now + 1) } else e
    | _ => c))

/-! ### Detected errors, R353, R354 -/

/-- The number of a unit, R334. -/
def unitCode : ErrUnit → Nat
  | .regFile => 1
  | .pipeline => 2
  | .lane => 3
  | .netIf => 4

/-- DETECTED_ERROR: the open region of a core is discarded, and re-entered once the unit is reset; a core that sleeps on a page fault
goes on sleeping, and one that another unit's reset keeps waiting is re-entered once both are reset. -/
def execDetectedError (c : CoreId) (u : ErrUnit) (s : State) : Out :=
  let s := s.focus c
  .next (if s.core.id != c then s else
  match s.core.run with
  | .ready | .waiting _ => s.detect (unitCode u) false s.core.pc
  | .resetting =>
    let n := s.core.nextIssue
    let t := s.detect (unitCode u) false s.core.pc
    t.mapCores (fun d => d.run == .resetting && (d.id == c || (s.gangMates s.core).contains d.id))
      (fun d => { d with nextIssue := Nat.max n d.nextIssue })
  | .onFault n =>
    let t := s.detect (unitCode u) false s.core.pc
    if t.core.run == .resetting then { t with core := { t.core with run := .onFault n } } else t
  | _ => s)

/-- REGION_REENTRY: the core, with its slaved gang, starts the region again at REGPC, once the last unit that an error was detected in has
been reset; a mate whose die has lost more cycles follows when its own reset is over (R385). -/
def execRegionReentry (c : CoreId) (s : State) : Out :=
  .next (match s.core? c with
  | none => s
  | some d =>
    let mates := s.gangMates d
    let mine (e : Core) : Bool := (e.id == c || mates.contains e.id) && e.run == .resetting
    let t := s.mapCores (fun e => mine e && decide (e.nextIssue ≤ s.now)) (fun e => e.restart s.now)
    if t.cores.any mine then t.sched (s.now + 1) false (.regionReentry c) else t)

/-! ### Barriers that fire -/

/-- Whether an access on its way counts for a core that arrived by a cycle: its own when it was sent by then, and one that its acquires have
shown it. -/
def Core.owesBy (c : Core) (src id at_ by_ : Nat) : Bool := (src == c.id.lc && decide (at_ ≤ by_)) || c.seen.contains id
/-- Whether an access that a member of a list has observed by a cycle is still to be performed within GROUP scope, R171, R172, R177. -/
def State.unsent (s : State) (lh : Nat) (mem : List Nat) (by_ : Nat) : Bool :=
  (s.coresOf lh).any (fun c => mem.contains c.id.lc && (
    s.packets.any (fun p => s.underWay c .group p && c.owesBy p.src p.id p.at_ by_) ||
    s.tlines.any (fun t => s.lineUnderWay c .group t && c.owesBy t.src t.id t.at_ by_) ||
    c.committed.any (fun d => decide (d.at_ ≤ by_) && (match d.item with | .line .. | .msg .. | .log .. => true | _ => false))))
/-- The release of every member of a group at its barrier: what it had observed by a cycle and is still on its way outside the scope is
ordered for those that acquire there, R172, R173. -/
def State.carryGroup (s : State) (lh g by_ : Nat) : State :=
  (s.coresOf lh).foldl (fun s c => if !(s.groupOf lh g).contains c.id.lc then s else
    let l := (s.carriedAt (.group lh g) ++
      ((s.packets.filter (fun p => p.lh == lh && c.owesBy p.src p.id p.at_ by_)).map (·.id)) ++
      ((s.tlines.filter (fun t => t.core.lh == lh && c.owesBy t.src t.id t.at_ by_)).map (·.id))).eraseDups
    { s with carried := s.carried.filter (fun e => e.1 != .group lh g) ++ (if l.isEmpty then [] else [(.group lh g, l)]) }) s

/-- The logs of the members of a list merged, R177; a vacated member's log stays with it (log entry 28). -/
def State.mergeLogs (s : State) (lh : Nat) (mem : List Nat) : State :=
  (s.coresOf lh).foldl (fun s c => if mem.contains c.id.lc && !c.gone then s.mergeLog c.id else s) s

/-- The merge of the logs of some members held while the old contents of the 256-byte lines that it is the first to write in an epoch are copied,
R358; none when nothing has to be copied. -/
def State.mergeHold (s : State) (lh : Nat) (mem : List Nat) : Option State :=
  let mine (c : Core) : Bool := mem.contains c.id.lc && !c.gone
  let t := (s.coresOf lh).foldl (fun t c => if mine c then (t.undoHold lh (fun d => d.id == c.id) c.mergeAddrs).getD t else t) s
  if (s.coresOf lh).any (fun c => mine c && (s.undoHold lh (fun d => d.id == c.id) c.mergeAddrs).isSome) then some t else none
/-- GROUP_BARRIER_FIRE: what the members sent before they arrived has been performed; their logs are merged, and the generation
rises; members that had passed this generation may have arrived for the next, R177, R256, R275. -/
def execGroupBarrierFire (lh g : Nat) (s : State) : Out :=
  let b := s.gbar lh g
  let mem := s.groupOf lh g
  .next (if b.firing.isNone then s
  else if s.unsent lh mem b.lastAt then s.sched (s.now + 1) true (.groupBarrierFire lh g)
  else match s.mergeHold lh mem with
  | some s => s.sched (s.now + 4) true (.groupBarrierFire lh g)
  | none =>
    let s := (s.mergeLogs lh mem).carryGroup lh g b.lastAt
    let s := s.updGbar lh g (fun b => { b with gen := (b.gen + 1) % 2 ^ 16, arrived := b.next, firing := none, early := [], next := [] })
    s.gbarCheck lh g (nth b.next 0 0))

/-- A core at the firing of SNAP: the epoch in X[d], and the region open behind the SNAP. The firing stands for every core whose arrival
has been counted: one in which an error has been detected since goes on behind the SNAP once its unit is reset (R353, R357). -/
def Core.snapped (c : Core) (now epoch : Nat) : Core :=
  match c.snapD with
  | none => c
  | some d =>
    let e := { c with snapD := none }
    match c.run with
    | .waiting _ => let e := e.wake now d (wd epoch); e.openRegion e.pc
    | _ =>
      let f := (e.setX d (wd epoch)).advance c.nextIssue wordSize
      { (f.openRegion f.pc) with nextIssue := c.nextIssue }
/-- The snapshot of a core, R356, R359. -/
def Core.snapshot (c : Core) : SnapImage := {
  arch := c.ckpt, pc := c.regpc, cause := c.cause, tval := c.tval, epc := c.epc, trapvec := c.trapvec, reglim := c.reglim
  traceBase := c.traceBase, traceXb := c.traceXb, slotFirst := c.slotFirst, slotCount := c.slotCount, slaved := c.slaved
  mmaErr := c.mmaErr, mmaFail := c.mmaFail, mmaLast := c.mmaLast, cycles := c.cycles, stops := c.stops, tours := c.tours, rings := c.erings, armed := c.armed, eseq := c.eseq
  issued := c.issued, arrivedAt := c.arrivedAt, credits := c.credits, scan := c.scan, graphs := c.graphs, ownItins := c.ownItins }
/-- The end of an epoch at a core: a new snapshot, with nothing undone and nothing staged. -/
def Core.closeEpoch (c : Core) : Core := { c with image := some c.snapshot, undo := [], undoSent := 0, staged := [], stagedBytes := 0 }

/-- The staged writes of a launch's cores performed, in issue order within each core, and with them the flag words of its COPYOUTs, those in the
scratchpad too, R359. -/
def State.unstage (s : State) (lh : Nat) : State :=
  (s.coresOf lh).foldl (fun s c => if c.id.twin then s else
    c.staged.foldl (fun s w => if w.loc then s.pokeAt c.id (cellsAt w.pa w.bytes) else s.devWrite ⟨w.peer, w.pa, 0, 0⟩ w.bytes) s) s

/-- The snapshot images of an Umbra launch's cores in their areas, R356: the payloads of R343 one after another. -/
def State.writeImages (s : State) (lh : Nat) : State :=
  (s.coresOf lh).foldl (fun s c => if c.id.twin then s else
    s.parkWrite c.id (2056 * 1024) (c.regsPayload s.now ++ c.livePayload ++ s.barrierPayload c ++ c.ringPayload ++ c.strmPayload)) s

/-- SNAP_FIRE: every core has arrived and what it sent is performed; logs are merged, and an Umbra launch closes its epoch. -/
def execSnapFire (lh : Nat) (s : State) : Out :=
  .next (match s.launch? lh with
  | none => s
  | some l =>
    if !l.snapFiring then s
    else if s.packets.any (fun p => p.lh == lh) || s.tlines.any (fun t => t.core.lh == lh) then s.sched (s.now + 1) true (.snapFire lh)
    else match s.mergeHold lh (List.range l.lrec.grid) with
    | some s => s.sched (s.now + 4) true (.snapFire lh)
    | none =>
      let s := s.mergeLogs lh (List.range l.lrec.grid)
      let n := l.epoch + 1
      let s := s.mapCores (fun c => c.id.lh == lh) (fun c => c.snapped (if s.withheld c.die then s.now + 1 else s.now) n)
      let s := s.updLaunch lh (fun l => { l with epoch := n, snapFiring := false, rollbacks := 0 })
      if l.lrec.umbra then
        let s := ((s.unstage lh).mapCores (fun c => c.id.lh == lh) Core.closeEpoch).writeImages lh
        s.updLaunch lh (fun l => { l with snapGbars := l.gbars, snapTids := l.tids, snapItins := l.itins, snapTour := s.nextId, evs := [] })
      else s)

end Sys2Proof.Machine
end

