-- ==== Sys2Proof/Machine/LaneFp.lean ====
section
/-! DEFINITION. The lane floating-point instructions LFP (spec/05_isa_integer_lane.md R113 to R116), the conversions LCVT (R117 to
R121), reductions and permutations LRED (R122 to R124), the special functions LSFU (R125), and the compact forms of LFP. -/

namespace Sys2Proof.Machine

/-! ### LFP -/

/-- The width of a format's elements under es. -/
def fpWidth (es : Fin 4) : Nat := (esFmt es).width

/-- An element-wise LFP instruction of two sources. -/
def State.lfp (s : State) (r : L3) (f : FloatFmt → Rnd → Nat → Nat → Nat × Flags) : Out :=
  s.runCore (s.core.laneAB s.now 4 r (fpWidth r.es) (f (esFmt r.es) s.core.rm))
/-- An LFP instruction that adds to its destination, which it reads, R101. -/
def Core.lfma (c : Core) (now size : Nat) (srcs : List (VReg × Bool)) (vd va vb : VReg) (km : KReg) (F : FloatFmt)
    (f : FloatFmt → Rnd → Nat → Nat → Nat → Nat × Flags) : Res Core :=
  c.laneOp now 4 size srcs vd km F.width .read (fun v => c.perElem km F.width (elems F.width) (fun j =>
    f F c.rm (elemAt F.width (v vd) j) (elemAt F.width (v va) j) (elemAt F.width (v vb) j)))
/-- The sources of an L-format instruction. -/
def srcs3 (r : L3) : List (VReg × Bool) := [(r.va, r.la), (r.vb, r.lb)]

/-- VFADD. -/
def execVfadd (r : L3) (s : State) : Out := s.lfp r fadd
/-- VFSUB. -/
def execVfsub (r : L3) (s : State) : Out := s.lfp r fsub
/-- VFMUL. -/
def execVfmul (r : L3) (s : State) : Out := s.lfp r fmul
/-- VFMA. -/
def execVfma (r : L3) (s : State) : Out :=
  s.runCore (s.core.lfma s.now wordSize (srcs3 r) r.vd r.va r.vb r.km (esFmt r.es) ffma)
/-- VFMS. -/
def execVfms (r : L3) (s : State) : Out :=
  s.runCore (s.core.lfma s.now wordSize (srcs3 r) r.vd r.va r.vb r.km (esFmt r.es) ffms)
/-- VFNMA. -/
def execVfnma (r : L3) (s : State) : Out :=
  s.runCore (s.core.lfma s.now wordSize (srcs3 r) r.vd r.va r.vb r.km (esFmt r.es) ffnma)
/-- VFMIN. -/
def execVfmin (r : L3) (s : State) : Out := s.lfp r (fun F _ a b => fminmax F false a b)
/-- VFMAX. -/
def execVfmax (r : L3) (s : State) : Out := s.lfp r (fun F _ a b => fminmax F true a b)
/-- VFABS. -/
def execVfabs (r : L2) (s : State) : Out :=
  s.runCore (s.core.laneA s.now 4 wordSize r (fpWidth r.es) (fsign (esFmt r.es) false))
/-- VFNEG. -/
def execVfneg (r : L2) (s : State) : Out :=
  s.runCore (s.core.laneA s.now 4 wordSize r (fpWidth r.es) (fsign (esFmt r.es) true))
/-- A float compare, R114. -/
def State.lfcmp (s : State) (r : LCmp) (k : FCmp) : Out :=
  s.runCore (s.core.laneCmp s.now 4 r (fpWidth r.es) (fcmp (esFmt r.es) k))
/-- VFCMPEQ. -/
def execVfcmpeq (r : LCmp) (s : State) : Out := s.lfcmp r .eq
/-- VFCMPLT. -/
def execVfcmplt (r : LCmp) (s : State) : Out := s.lfcmp r .lt
/-- VFCMPLE. -/
def execVfcmple (r : LCmp) (s : State) : Out := s.lfcmp r .le
/-- VFCLASS, which sets no flag. -/
def execVfclass (r : L2) (s : State) : Out :=
  s.runCore (s.core.laneA s.now 4 wordSize r (fpWidth r.es) (fun a => noFlags (fclass (esFmt r.es) a)))

/-! ### Compact forms, R40 -/

/-- A compact LFP form of two addresses. -/
def State.clfp (s : State) (r : ClOp) (f : FloatFmt → Rnd → Nat → Nat → Nat × Flags) : Out :=
  s.runCore (s.core.laneCl s.now 4 r (szWidth r.sz) (f (szFmt r.sz) s.core.rm))
/-- CL VFADD. -/
def execClVfadd (r : ClOp) (s : State) : Out := s.clfp r fadd
/-- CL VFSUB. -/
def execClVfsub (r : ClOp) (s : State) : Out := s.clfp r fsub
/-- CL VFMUL. -/
def execClVfmul (r : ClOp) (s : State) : Out := s.clfp r fmul
/-- CL VFMAX. -/
def execClVfmax (r : ClOp) (s : State) : Out := s.clfp r (fun F _ a b => fminmax F true a b)
/-- CL VFMIN. -/
def execClVfmin (r : ClOp) (s : State) : Out := s.clfp r (fun F _ a b => fminmax F false a b)
/-- CL VFMACV: vd + vs × v15. -/
def execClVfmacv (r : ClOp) (s : State) : Out :=
  s.runCore (s.core.lfma s.now halfSize [(r.vs, r.ls), (15, false)] r.vd r.vs 15 0 (szFmt r.sz) ffma)
/-- CL VFABS, which does not read vd. -/
def execClVfabs (r : ClOp) (s : State) : Out :=
  s.runCore (s.core.laneA s.now 4 halfSize ⟨r.vd, r.vs, 0, 0, r.ls⟩ (szWidth r.sz) (fsign (szFmt r.sz) false))

/-! ### Conversions, R117 to R120 -/

/-- What a lane-format code names, R50. -/
inductive Narrow where
  | flt (f : FloatFmt)
  | int (w : Nat) (signed : Bool)
  | sc8
  | bfp (n : Nat)
  deriving DecidableEq, Repr
/-- The format of a code. -/
def narrowOf : LaneFmt → Narrow
  | .fp4 => .flt fmtFp4
  | .fp6a => .flt fmtFp6a
  | .fp6b => .flt fmtFp6b
  | .fp8a => .flt fmtFp8a
  | .fp8b => .flt fmtFp8b
  | .int4 => .int 4 true
  | .uint4 => .int 4 false
  | .int8 => .int 8 true
  | .uint8 => .int 8 false
  | .int16 => .int 16 true
  | .fp16 => .flt fmtFp16
  | .bf16 => .flt fmtBf16
  | .sc8 => .sc8
  | .bfp8 => .bfp 8
  | .bfp4 => .bfp 4
/-- The width of a code. -/
def Narrow.width : Narrow → Nat
  | .flt f => f.width
  | .int w _ => w
  | .sc8 => 8
  | .bfp n => n

/-- A value narrowed under a rounding, R88 to R90; the mantissa formats are never a target. -/
def Narrow.round (n : Narrow) (rm : Rnd) (sat : Bool) (v : Fv) : Nat × Flags :=
  match n with
  | .flt f => narrowF f rm sat v
  | .int w sg => narrowI w sg rm v
  | .sc8 => narrowSc8 rm v
  | .bfp w => narrowI w true rm v
/-- The value of a code; a reserved scale reads as NaN, R83. -/
def Narrow.value (n : Narrow) (c : Nat) : Fv :=
  let ofInt (x : Int) : Fv := .num (decide (x < 0)) x.natAbs 0
  match n with
  | .flt f => decodeF f c
  | .int w sg => ofInt (if sg then signedOf w c else (c : Int))
  | .sc8 => match sc8Value c with
    | some p => .num false p.1 p.2
    | none => .nan false
  | .bfp w => ofInt (signedOf w c)

/-- The packed string of a list of codes. -/
def packCodes (wn : Nat) (l : List (Nat × Flags)) : Lane × Flags := (packLane wn (l.map (·.1)), fAll (l.map (·.2)))
/-- The codes of the active elements, 0 where inactive, R102. -/
def Core.codes (c : Core) (km : KReg) (n : Nat) (f : Nat → Nat × Flags) : List (Nat × Flags) :=
  (List.range n).map (fun j => if c.active km j then f j else (0, 0))

/-- VCVTN, R118: RNE. -/
def execVcvtn (r : LCvt) (s : State) : Out :=
  let c := s.core
  let F := esFmt r.es
  let k := narrowOf r.fmt
  s.runCore (c.laneOp s.now 4 wordSize [(r.va, r.la)] r.vd r.km F.width .whole (fun v => packCodes k.width
    (c.codes r.km (elems F.width) (fun j => k.round .rne c.nsat (decodeF F (elemAt F.width (v r.va) j))))))

/-- One step of an LFSR, R91. -/
def lfsrStep (x : BitVec 32) : BitVec 32 := if x.getLsbD 0 then (x >>> 1) ^^^ 0x80200003 else x >>> 1
/-- The state that element j uses, R92. -/
def seedFor (seeds : List (BitVec 32)) (w j : Nat) : Nat :=
  if w = 16 then (nth seeds (j / 2) 1).toNat / 2 ^ (if j % 2 = 0 then 0 else 16)
  else if w = 32 then (nth seeds j 1).toNat else (nth seeds (2 * j) 1).toNat
/-- VCVTSR, R92, R93: stochastic; all 16 states step at issue. -/
def execVcvtsr (r : LCvt) (s : State) : Out :=
  let c := s.core
  let F := esFmt r.es
  let k := narrowOf r.fmt
  let seeds := c.arch.seed.toList
  let step (c : Core) : Core := { c with arch := { c.arch with seed := c.arch.seed.map lfsrStep } }
  s.runCore ((c.laneOp s.now 4 wordSize [(r.va, r.la)] r.vd r.km F.width .whole (fun v => packCodes k.width
    (c.codes r.km (elems F.width) (fun j => k.round (.stoch (seedFor seeds F.width j) (if F.width = 16 then 16 else 24))
      c.nsat (decodeF F (elemAt F.width (v r.va) j)))))).map step)

/-- A value written exactly in a wide format, R119: NaN becomes the canonical NaN. -/
def widen (F : FloatFmt) (v : Fv) : Nat × Flags :=
  match v with
  | .nan sig => nanResult F sig
  | .inf neg => (F.infCode neg, 0)
  | .num neg m e => if m = 0 then (F.zeroCode neg, 0) else roundLane F .rne neg m e false
/-- VCVTW, R119. -/
def execVcvtw (r : LCvt) (s : State) : Out :=
  let c := s.core
  let F := esFmt r.es
  let k := narrowOf r.fmt
  s.runCore (c.laneOp s.now 4 wordSize [(r.va, r.la)] r.vd r.km F.width .keep (fun v =>
    c.perElem r.km F.width (elems F.width) (fun j => widen F (k.value (elemAt k.width (v r.va) j)))))
/-- VCVTI, R120. -/
def execVcvti (r : L2) (s : State) : Out :=
  s.runCore (s.core.laneA s.now 4 wordSize r (fpWidth r.es) (cvtFI (esFmt r.es) s.core.rm (fpWidth r.es)))
/-- VCVTF, R120. -/
def execVcvtf (r : L2) (s : State) : Out :=
  s.runCore (s.core.laneA s.now 4 wordSize r (fpWidth r.es) (cvtIF (esFmt r.es) s.core.rm (fpWidth r.es)))

/-! ### Block instructions, R121 -/

/-- The element format of a block instruction. -/
def blockOf (k : Narrow) : BlockElem :=
  match k with
  | .flt f => .flt f
  | .int w _ => .int w
  | .sc8 => .int 8
  | .bfp n => .bfp n
/-- The magnitude of a value. -/
def Fv.mag (v : Fv) : Fv :=
  match v with
  | .num _ m e => .num false m e
  | .inf _ => .inf false
  | .nan sig => .nan sig
/-- VQSCALE: a scale or exponent for each element, and byte 63 that of element 0. -/
def execVqscale (r : LCvt) (s : State) : Out :=
  let c := s.core
  let F := esFmt r.es
  let b := blockOf (narrowOf r.fmt)
  s.runCore (c.laneOp s.now 4 wordSize [(r.va, r.la)] r.vd r.km F.width .whole (fun v =>
    let l := c.codes r.km (elems F.width) (fun j => blockScale b (decodeF F (elemAt F.width (v r.va) j)).mag)
    (packLane 8 ((l.map (·.1) ++ List.replicate (63 - l.length) 0) ++ [(nth l 0 (0, 0)).1]), fAll (l.map (·.2)))))

/-- The value of a scale byte for a block format, as m × 2^e; none for 0xFF. -/
def scaleValue (b : BlockElem) (c : Nat) : Option (Nat × Int) :=
  match b with
  | .flt _ | .int _ => sc8Value c
  | .bfp n => if c % 256 = 255 then none else some (1, (c % 256 : Nat) - 127 - ((n : Int) - 1))
/-- m × 2^e divided by a scale and rounded with RNE into a block format, saturating at ± M_F, R94, R95, R121. -/
def blockRound (b : BlockElem) (neg : Bool) (m : Nat) (e : Int) (sm : Nat) (se : Int) : Nat × Flags :=
  let q := divDy m (e - se) sm
  let int (n : Nat) : Nat × Flags :=
    let x := quantize .rne neg q.1 (-q.2.1) q.2.2
    let top := 2 ^ (n - 1) - 1
    if x.1 > top then (intCode n (if neg then -(top : Int) else (top : Int)), fOF ||| fNX)
    else (intCode n (if neg then -(x.1 : Int) else (x.1 : Int)), fIf x.2 fNX)
  match b with
  | .int n | .bfp n => int n
  | .flt f =>
    let x := roundMag f .rne neg q.1 q.2.1 q.2.2
    if x.mag > f.maxMag then (f.maxCode neg, fOF ||| fNX)
    else if x.mag = 0 then (0, inexactFlags x)
    else (f.signBit neg + x.mag, inexactFlags x)
/-- One element quantised by VQUANT. -/
def quantElem (b : BlockElem) (s : Nat) (v : Fv) : Nat × Flags :=
  match scaleValue b s with
  | none => (0, fNV)
  | some sc =>
    match v with
    | .nan sig => (match b with
      | .flt f => (match f.nan with | some n => (n, fIf sig fNV) | none => (0, fNV))
      | .int _ | .bfp _ => (0, fNV))
    | .inf neg => (match b with
      | .flt f => f.maxCode neg
      | .int n | .bfp n => intCode n (if neg then -(2 ^ (n - 1) - 1) else 2 ^ (n - 1) - 1), fOF)
    | .num neg m e => if m = 0 then (0, 0) else blockRound b neg m e sc.1 sc.2
/-- VQUANT, which reads its destination's byte 63 and keeps it. -/
def execVquant (r : LCvt) (s : State) : Out :=
  let c := s.core
  let F := esFmt r.es
  let k := narrowOf r.fmt
  s.runCore (c.laneOp s.now 4 wordSize [(r.va, r.la)] r.vd r.km F.width .readWhole (fun v =>
    let sc := elemAt 8 (v r.vd) 63
    let l := packCodes k.width (c.codes r.km (elems F.width) (fun j =>
      quantElem (blockOf k) sc (decodeF F (elemAt F.width (v r.va) j))))
    (l.1 ||| (BitVec.ofNat 512 sc <<< 504), l.2 ||| fIf (sc == 255) fNV)))
/-- One element expanded by VDEQ: the exact product rounded with RNE, without saturation; a signalling code sets NV under a scale of 0xFF as
under any other (R87). -/
def deqElem (F : FloatFmt) (b : BlockElem) (s : Nat) (v : Fv) : Nat × Flags :=
  match scaleValue b s with
  | none => match v with
    | .nan _ => narrowF F .rne false v
    | .num .. | .inf _ => (F.nanCode, 0)
  | some sc => match v with
    | .num neg m e => narrowF F .rne false (.num neg (m * sc.1) (e + sc.2))
    | .inf _ | .nan _ => narrowF F .rne false v
/-- VDEQ. -/
def execVdeq (r : LCvt) (s : State) : Out :=
  let c := s.core
  let F := esFmt r.es
  let k := narrowOf r.fmt
  s.runCore (c.laneOp s.now 4 wordSize [(r.va, r.la)] r.vd r.km F.width .keep (fun v =>
    c.perElem r.km F.width (elems F.width) (fun j =>
      deqElem F (blockOf k) (elemAt 8 (v r.va) 63) (k.value (elemAt k.width (v r.va) j)))))

/-! ### Reductions and permutations, R122 to R124 -/

/-- A reduction over the active elements: its result in element 0, 0 elsewhere. -/
def State.reduce (s : State) (r : L2) (w : Nat) (f : List (Option Nat) → Nat × Flags) : Out :=
  let c := s.core
  s.runCore (c.laneOp s.now 6 wordSize [(r.va, r.la)] r.vd r.km w .whole (fun v =>
    let x := f ((List.range (elems w)).map (fun j => if c.active r.km j then some (elemAt w (v r.va) j) else none))
    (packLane w [x.1], x.2)))
/-- The active elements. -/
def actives (l : List (Option Nat)) : List Nat := l.filterMap id
/-- The element that a test prefers over all others, or 0. -/
def bestOf (better : Nat → Nat → Bool) (l : List Nat) : Nat :=
  match l with
  | [] => 0
  | a :: t => t.foldl (fun m x => if better x m then x else m) a
/-- VREDADD. -/
def execVredadd (r : L2) (s : State) : Out :=
  s.reduce r (esWidth r.es) (fun l => noFlags ((actives l).foldl (· + ·) 0))
/-- VREDMAX. -/
def execVredmax (r : L2) (s : State) : Out :=
  s.reduce r (esWidth r.es) (fun l => noFlags (bestOf (fun x m => decide (signedOf (esWidth r.es) m < signedOf (esWidth r.es) x)) (actives l)))
/-- VREDMIN. -/
def execVredmin (r : L2) (s : State) : Out :=
  s.reduce r (esWidth r.es) (fun l => noFlags (bestOf (fun x m => decide (signedOf (esWidth r.es) x < signedOf (esWidth r.es) m)) (actives l)))

/-- One level of the tree of R123. -/
def redLevel (f : FloatFmt) (rm : Rnd) : List (Option Nat) → List (Option Nat) × Flags
  | a :: b :: t =>
    let (l, fl) := redLevel f rm t
    match a, b with
    | some x, some y => let r := fadd f rm x y; (some r.1 :: l, r.2 ||| fl)
    | some x, none => (some x :: l, fl)
    | none, some y => (some y :: l, fl)
    | none, none => (none :: l, fl)
  | l => (l, 0)
/-- The tree, by the number of levels. -/
def redTree (f : FloatFmt) (rm : Rnd) : Nat → List (Option Nat) → List (Option Nat) × Flags
  | 0, l => (l, 0)
  | n + 1, l =>
    let (l1, f1) := redLevel f rm l
    let (l2, f2) := redTree f rm n l1
    (l2, f1 ||| f2)
/-- A reduction's result: a NaN is written canonical, and a signalling NaN among the active elements sets NV. -/
def redResult (f : FloatFmt) (l : List (Option Nat)) (v : Option Nat) (fl : Flags) : Nat × Flags :=
  let nv := fIf ((actives l).any (fun x => (decodeF f x).isSig)) fNV
  match v with
  | some x => (if (decodeF f x).isNan then f.nanCode else x, fl ||| nv)
  | none => (0, fl ||| nv)
/-- VFREDADD. -/
def execVfredadd (r : L2) (s : State) : Out :=
  let f := esFmt r.es
  s.reduce r f.width (fun l => let t := redTree f s.core.rm 5 l; redResult f l (nth t.1 0 none) t.2)
/-- VFREDMAX. -/
def execVfredmax (r : L2) (s : State) : Out :=
  let f := esFmt r.es
  s.reduce r f.width (fun l => match actives l with
    | [] => (0, 0)
    | a :: t =>
      let m := t.foldl (fun (acc : Nat × Flags) x => let q := fminmax f true acc.1 x; (q.1, acc.2 ||| q.2)) (a, 0)
      redResult f l (some m.1) m.2)

/-- A permutation: element j of va chosen by the index of element j, R124; none gives 0. -/
def State.permute (s : State) (r : L3) (f : Nat → Lane → Nat → Option Nat) : Out :=
  let c := s.core
  let w := esWidth r.es
  s.runCore (c.laneOp s.now 6 wordSize (srcs3 r) r.vd r.km w .keep (fun v =>
    c.perElem r.km w (elems w) (fun j => noFlags (match f w (v r.vb) j with
      | some i => elemAt w (v r.va) i
      | none => 0))))
/-- VPERM. -/
def execVperm (r : L3) (s : State) : Out := s.permute r (fun w b j => some (elemAt w b j % elems w))
/-- VROT. -/
def execVrot (r : L3) (s : State) : Out := s.permute r (fun w b j => some ((j + elemAt w b 0 % elems w) % elems w))
/-- VSLIDE. -/
def execVslide (r : L3) (s : State) : Out :=
  s.permute r (fun w b j =>
    let i := (j : Int) + signedOf w (elemAt w b 0)
    if 0 ≤ i ∧ i < (elems w : Int) then some i.toNat else none)

/-! ### Special functions, R125 -/

/-- A special function of FP32 elements. -/
def State.sfu (s : State) (r : LSfu) (f : FloatFmt → Rnd → Fv → Nat × Flags) : Out :=
  s.runCore (s.core.laneA s.now 8 wordSize ⟨r.vd, r.va, 2, r.km, r.la⟩ 32 (fun a => f fmtFp32 s.core.rm (decodeF fmtFp32 a)))
/-- VEXP2. -/
def execVexp2 (r : LSfu) (s : State) : Out := s.sfu r fexp2
/-- VLOG2. -/
def execVlog2 (r : LSfu) (s : State) : Out := s.sfu r flog2
/-- VRCP. -/
def execVrcp (r : LSfu) (s : State) : Out := s.sfu r frcp
/-- VRSQRT. -/
def execVrsqrt (r : LSfu) (s : State) : Out := s.sfu r frsqrt
/-- VSIGM. -/
def execVsigm (r : LSfu) (s : State) : Out := s.sfu r fsigm
/-- VTANH. -/
def execVtanh (r : LSfu) (s : State) : Out := s.sfu r ftanh
/-- VERF. -/
def execVerf (r : LSfu) (s : State) : Out := s.sfu r ferf

end Sys2Proof.Machine
end

