-- ==== Sys2Proof/Machine/LaneInt.lean ====
section
/-! DEFINITION. The lane integer instructions LALU (spec/05_isa_integer_lane.md R109 to R112), the masks LMASK (R126), the stream
controls LSTRM (R127, R128), and the compact lane integer forms (spec/02_encoding.md R40). -/

namespace Sys2Proof.Machine

/-! ### Elements of width w -/

/-- An integer held to the signed range of w bits, as a pattern. -/
def clampW (w : Nat) (v : Int) : Nat :=
  let b := intBounds w true
  intCode w (if v > b.2 then b.2 else if v < b.1 then b.1 else v)
/-- a < b, signed. -/
def ltW (w a b : Nat) : Bool := decide (signedOf w a < signedOf w b)
/-- An arithmetic shift right. -/
def sraW (w a n : Nat) : Nat := intCode w (signedOf w a / 2 ^ n)

/-- An element-wise LALU instruction of two sources. -/
def State.lalu (s : State) (r : L3) (f : Nat → Nat → Nat → Nat) : Out :=
  s.runCore (s.core.laneAB s.now 2 r (esWidth r.es) (fun a b => noFlags (f (esWidth r.es) a b)))

/-- VADD. -/
def execVadd (r : L3) (s : State) : Out := s.lalu r (fun _ a b => a + b)
/-- VSUB. -/
def execVsub (r : L3) (s : State) : Out := s.lalu r (fun w a b => a + 2 ^ w - b)
/-- VADDSAT. -/
def execVaddsat (r : L3) (s : State) : Out := s.lalu r (fun w a b => clampW w (signedOf w a + signedOf w b))
/-- VSUBSAT. -/
def execVsubsat (r : L3) (s : State) : Out := s.lalu r (fun w a b => clampW w (signedOf w a - signedOf w b))
/-- VMIN. -/
def execVmin (r : L3) (s : State) : Out := s.lalu r (fun w a b => if ltW w b a then b else a)
/-- VMAX. -/
def execVmax (r : L3) (s : State) : Out := s.lalu r (fun w a b => if ltW w a b then b else a)
/-- VMINU. -/
def execVminu (r : L3) (s : State) : Out := s.lalu r (fun _ a b => Nat.min a b)
/-- VMAXU. -/
def execVmaxu (r : L3) (s : State) : Out := s.lalu r (fun _ a b => Nat.max a b)
/-- VAND. -/
def execVand (r : L3) (s : State) : Out := s.lalu r (fun _ a b => a &&& b)
/-- VOR. -/
def execVor (r : L3) (s : State) : Out := s.lalu r (fun _ a b => a ||| b)
/-- VXOR. -/
def execVxor (r : L3) (s : State) : Out := s.lalu r (fun _ a b => a ^^^ b)
/-- VSLL. -/
def execVsll (r : L3) (s : State) : Out := s.lalu r (fun w a b => a * 2 ^ (b % w))
/-- VSRL. -/
def execVsrl (r : L3) (s : State) : Out := s.lalu r (fun w a b => a / 2 ^ (b % w))
/-- VSRA. -/
def execVsra (r : L3) (s : State) : Out := s.lalu r (fun w a b => sraW w a (b % w))
/-- VMUL. -/
def execVmul (r : L3) (s : State) : Out := s.lalu r (fun _ a b => a * b)
/-- VMULH. -/
def execVmulh (r : L3) (s : State) : Out := s.lalu r (fun w a b => intCode w (signedOf w a * signedOf w b / 2 ^ w))

/-- A lane integer compare, R110. -/
def State.lcmp (s : State) (r : LCmp) (f : Nat → Nat → Nat → Bool) : Out :=
  s.runCore (s.core.laneCmp s.now 2 r (esWidth r.es) (fun a b => (f (esWidth r.es) a b, 0)))
/-- VCMPEQ. -/
def execVcmpeq (r : LCmp) (s : State) : Out := s.lcmp r (fun _ a b => a == b)
/-- VCMPLT. -/
def execVcmplt (r : LCmp) (s : State) : Out := s.lcmp r ltW
/-- VCMPLTU. -/
def execVcmpltu (r : LCmp) (s : State) : Out := s.lcmp r (fun _ a b => decide (a < b))

/-- VSEL, R111: the mask selects the operand. -/
def execVsel (r : L3) (s : State) : Out :=
  let c := s.core
  s.runCore (c.laneOp s.now 2 wordSize [(r.va, r.la), (r.vb, r.lb)] r.vd r.km (esWidth r.es) .whole
    (fun v => (laneMerge (v r.vb) (v r.va) (c.activeBytes r.km (esWidth r.es)), 0)))

/-! ### Moves and elements, R112 -/

/-- VMOV. -/
def execVmov (r : L2) (s : State) : Out := s.runCore (s.core.laneA s.now 2 wordSize r (esWidth r.es) noFlags)
/-- VBCAST. -/
def execVbcast (r : L2) (s : State) : Out :=
  let w := esWidth r.es
  s.runCore (s.core.laneOp s.now 2 wordSize [(r.va, r.la)] r.vd r.km w .keep
    (fun v => s.core.perElem r.km w (elems w) (fun _ => noFlags (elemAt w (v r.va) 0))))
/-- The index of VEXTR and VINS. -/
def elemIndex (w : Nat) (v : Lane) : Nat := elemAt w v 0 % elems w
/-- VEXTR: element 0 keeps its bits where it is inactive; every other element becomes 0. -/
def execVextr (r : L3) (s : State) : Out :=
  let w := esWidth r.es
  let c := s.core
  let bytes : BitVec 64 := if c.active r.km 0 then BitVec.allOnes 64 else BitVec.allOnes 64 <<< (w / 8)
  s.runCore (c.laneWith s.now 2 wordSize [(r.va, r.la), (r.vb, r.lb)] r.vd (r.km != 0 && !c.bound r.vd) bytes
    (fun v => (packLane w [elemAt w (v r.va) (elemIndex w (v r.vb))], 0)))
/-- VINS, which reads its destination. -/
def execVins (r : L3) (s : State) : Out :=
  let w := esWidth r.es
  let c := s.core
  s.runCore (c.laneOp s.now 2 wordSize [(r.va, r.la), (r.vb, r.lb)] r.vd r.km w .readWhole (fun v =>
    let ix := elemIndex w (v r.vb)
    (packLane w ((List.range (elems w)).map (fun j =>
      if j = ix && c.active r.km ix then elemAt w (v r.va) 0 else elemAt w (v r.vd) j)), 0)))

/-! ### Compact forms, R40 -/

/-- A compact lane integer form of two addresses. -/
def State.clalu (s : State) (r : ClOp) (f : Nat → Nat → Nat → Nat) : Out :=
  s.runCore (s.core.laneCl s.now 2 r (szWidth r.sz) (fun a b => noFlags (f (szWidth r.sz) a b)))
/-- CL VADD. -/
def execClVadd (r : ClOp) (s : State) : Out := s.clalu r (fun _ a b => a + b)
/-- CL VSUB. -/
def execClVsub (r : ClOp) (s : State) : Out := s.clalu r (fun w a b => a + 2 ^ w - b)
/-- CL VMAX. -/
def execClVmax (r : ClOp) (s : State) : Out := s.clalu r (fun w a b => if ltW w a b then b else a)
/-- CL VMIN. -/
def execClVmin (r : ClOp) (s : State) : Out := s.clalu r (fun w a b => if ltW w b a then b else a)
/-- CL VAND. -/
def execClVand (r : ClOp) (s : State) : Out := s.clalu r (fun _ a b => a &&& b)
/-- CL VOR. -/
def execClVor (r : ClOp) (s : State) : Out := s.clalu r (fun _ a b => a ||| b)
/-- CL VXOR. -/
def execClVxor (r : ClOp) (s : State) : Out := s.clalu r (fun _ a b => a ^^^ b)
/-- A compact form of one source as an instruction of one source. -/
def clSrc (r : ClOp) : L2 := ⟨r.vd, r.vs, if r.sz then 1 else 2, 0, r.ls⟩
/-- CL VMOV, which does not read vd. -/
def execClVmov (r : ClOp) (s : State) : Out := s.runCore (s.core.laneA s.now 2 halfSize (clSrc r) (szWidth r.sz) noFlags)
/-- VABS: the most negative value stays itself. -/
def execVabs (r : ClOp) (s : State) : Out :=
  let w := szWidth r.sz
  s.runCore (s.core.laneA s.now 2 halfSize (clSrc r) w (fun a => noFlags (intCode w (signedOf w a).natAbs)))

/-! ### Masks, R126 -/

/-- A mask instruction. -/
def State.mask (s : State) (kd : KReg) (v : Word) : Out :=
  s.runCore (.ok ((s.core.writeK s.now 2 kd v 0).advance s.now wordSize))
/-- KAND. -/
def execKand (kd ka kb : KReg) (s : State) : Out := s.mask kd (s.core.kval ka &&& s.core.kval kb)
/-- KOR. -/
def execKor (kd ka kb : KReg) (s : State) : Out := s.mask kd (s.core.kval ka ||| s.core.kval kb)
/-- KXOR. -/
def execKxor (kd ka kb : KReg) (s : State) : Out := s.mask kd (s.core.kval ka ^^^ s.core.kval kb)
/-- KNOT. -/
def execKnot (kd ka : KReg) (s : State) : Out := s.mask kd (~~~s.core.kval ka)
/-- KMOVX. -/
def execKmovx (kd ka kb : KReg) (s : State) : Out := s.mask kd (s.core.kval ka >>> bitsOf (s.core.kval kb).toNat 5 0)
/-- KMOVK. -/
def execKmovk (kd ka : KReg) (s : State) : Out := s.mask kd (s.core.kval ka)
/-- KPOPC. -/
def execKpopc (kd ka : KReg) (s : State) : Out :=
  s.mask kd (wd ((List.range 64).filter (fun i => (s.core.kval ka).getLsbD i)).length)
/-- KFIRST. -/
def execKfirst (kd ka : KReg) (s : State) : Out := s.mask kd (s.core.kval ka &&& (0 - s.core.kval ka))

/-! ### Stream controls, R127, R128, R130 -/

/-- Whether a write to a lane register is in flight. -/
def Core.writesTo (c : Core) (r : VReg) : Bool :=
  c.flights.any (fun f => match f.dst with | .v q _ _ => q == r | _ => false)
/-- The lane register of a stream. -/
def streamReg (n : Fin 4) : VReg := n.castLE (by decide)

/-- STRM.BIND: the generator starts at the first transfer, and the old contents of vN are lost. -/
def execStrmBind (n : Fin 4) (s : State) : Out :=
  s.runCore (do
    let c := s.core
    c.notInHandler
    needIdle (!c.writesTo (streamReg n))
    let st := c.arch.streams[n]
    need st.conf .access (wd (16 * n.val + 10))
    .ok ((c.setStream n { st with bound := true, pos := 0 }).advance s.now wordSize))

/-- The index of the first descriptor element that breaks R127. -/
def streamFault (e : Nat → Nat) : Option Nat :=
  let bad (i : Nat) : Bool :=
    match i with
    | 0 | 2 | 4 => e i % 64 != 0
    | 1 | 3 => !(decide (1 ≤ e i) && decide (e i ≤ 65535))
    | 5 => decide (e i ≥ 2)
    | _ => e i != 0
  (List.range 8).find? bad
/-- STRM.CFG: a bound stream stays bound under the new descriptor. -/
def execStrmCfg (n : Fin 4) (va : VReg) (la : Bool) (s : State) : Out :=
  s.runCore (do
    s.core.notInHandler
    let (c, v) ← s.core.readV s.now va
    let e (i : Nat) : Nat := elemAt 64 v i
    match streamFault e with
    | some i => trapR .access (wd (16 * n.val + i))
    | none =>
      let st : Stream := ⟨true, c.arch.streams[n].bound, wd (e 0), wd (e 1), wd (e 2), wd (e 3), wd (e 4), e 5 == 1, 0⟩
      .ok (((c.killV va la).setStream n st).advance s.now wordSize))
/-- STRM.FREE: vN then holds 0 and is live; the descriptor is kept. -/
def execStrmFree (n : Fin 4) (s : State) : Out :=
  s.runCore (do
    let c := s.core
    c.notInHandler
    needIdle (!c.writesTo (streamReg n))
    let c1 := c.setStream n { c.arch.streams[n] with bound := false }
    let c2 := { c1 with arch := { c1.arch with
      v := c1.arch.v.set (streamReg n) 0
      livev := c1.arch.livev ||| (1#16 <<< n.val) } }
    .ok (c2.advance s.now wordSize))
/-- STRM.STAT; what it shows as the address of the next transfer when there is none is the model's choice (log entry 105). -/
def execStrmStat (vd : VReg) (n : Fin 4) (s : State) : Out :=
  s.runCore (do
    let c := s.core
    c.notInHandler
    let st := c.arch.streams[n]
    c.laneOp s.now 2 wordSize [] vd 0 64 .whole (fun _ =>
      (packLane 64 [st.total - st.pos, (st.addr st.pos).toNat, nbit st.conf + 2 * nbit st.bound + 4 * nbit st.write], 0)))

end Sys2Proof.Machine
end

