-- ==== Sys2Proof/Machine/Loader.lean ====
section
/-! DEFINITION. OLX images and their loading (spec/03_assembly_objects.md R61, R68 to R75; spec/16_isolation.md R326): the sections, the
signature, the tables, and the relocations of the kernel that a launch names. -/

namespace Sys2Proof.Machine

/-! ### Reading device memory -/

/-- Bytes of a context's device memory as the firmware reads them, page by page, those of an aperture page from the peer
(R316, log entry 40); none where a page is not readable. -/
def State.readVa (s : State) (ctx : Nat) : Nat → Nat → Nat → Option (List Byte)
  | 0, _, _ => some []
  | k + 1, va, n =>
    if n = 0 then some [] else
    let m := Nat.min n (4096 - va % 4096)
    match s.walkVa ctx va false with
    | .error _ => none
    | .ok pte =>
      let x := xlatOf pte va 0
      match x.peer with
      | none => (s.readVa ctx k (va + m) (n - m)).map (fun t => s.hbm.getN x.pa m ++ t)
      | some p =>
        if Config.peerRefuses p x.pa s.fresh then none else
        (s.readVa ctx k (va + m) (n - m)).map (fun t => peerBytes p x.pa m s.fresh ++ t)
/-- n bytes of a context's device memory. -/
def State.readDev (s : State) (ctx va n : Nat) : Option (List Byte) := s.readVa ctx (n / 4096 + 2) va n

/-- The poisoned line that the firmware's read of a context's bytes consumes: in a walk, or among the bytes. -/
def State.poisonVa (s : State) (ctx : Nat) : Nat → Nat → Nat → Option Nat
  | 0, _, _ => none
  | k + 1, va, n =>
    if n = 0 || s.poison.isEmpty then none else
    let m := Nat.min n (4096 - va % 4096)
    match s.walkPoison ctx va, s.walkVa ctx va false with
    | some l, _ => some l
    | none, .error _ => none
    | none, .ok pte =>
      let x := xlatOf pte va 0
      match (if x.peer.isSome then none else s.poisonIn x.pa m) with
      | some l => some l
      | none => s.poisonVa ctx k (va + m) (n - m)
/-- What a read of n bytes consumes, R322. -/
def State.consumeDev (s : State) (ctx va n : Nat) : State := s.consume ctx (s.poisonVa ctx (n / 4096 + 2) va n)

/-- A string of bytes cut into records of a size. -/
def recordsOf (n : Nat) (b : List Byte) : List (List Byte) := pieces n (b.length / n) b

/-! ### Sections, R68, R69 -/

/-- A section: type, kernel index, file offset, address and bytes; `base` is the code address at which a .text is placed. -/
structure Section where
  type : Nat
  kernel : Nat
  off : Nat
  addr : Nat
  bytes : List Byte
  base : Nat
  deriving DecidableEq, Repr

/-- Whether a section of a type serves the whole image, R69: .rodata, .tid, .sym, .rel and .sig. -/
def wholeImage (t : Nat) : Bool := [2, 4, 11, 12, 13].contains t
/-- Whether a section table entry is well formed in a file of a size whose header counts the kernels. R69 does not say what the
Alignment field applies to: the model's choice is the file offset, which must be a multiple of it (log entry 92). -/
def entryOk (e : List Byte) (size kernels : Nat) : Bool :=
  let t := blkField e 0 2
  let k := blkField e 2 2
  decide (1 ≤ t ∧ t ≤ 13) && (if wholeImage t then k == 0xFFFF else decide (k < kernels)) && blkZero e 5 3 && decide (blkField e 8 8 + blkField e 16 8 ≤ size) && (t == 3 || blkZero e 24 8) &&
  decide (blkField e 8 8 % 2 ^ blkField e 4 1 = 0)
/-- The section of an entry. -/
def sectionOf (file e : List Byte) : Section :=
  ⟨blkField e 0 2, blkField e 2 2, blkField e 8 8, blkField e 24 8, (file.drop (blkField e 8 8)).take (blkField e 16 8), 0⟩

/-- Whether a header is well formed. -/
def headerOk (h : List Byte) : Bool :=
  blkField h 0 4 == 0x00584C4F && blkField h 4 2 == 1 && blkField h 6 2 == 64 && decide (blkField h 8 4 ≤ 1) && blkField h 14 2 == 32 &&
  blkZero h 0x24 28 && decide (blkField h 16 8 + 32 * blkField h 12 2 ≤ blkField h 24 8)

/-- The sections of an image, when its header and table are well formed: .sig, if present, is the last, nothing follows it, and the
flag says that it is there. -/
def imageSections (file : List Byte) : Option (List Section) :=
  let es := recordsOf 32 ((file.drop (blkField file 16 8)).take (32 * blkField file 12 2))
  if !headerOk file || !es.all (fun e => entryOk e file.length (blkField file 0x20 4)) then none else
  let ss := es.map (sectionOf file)
  let sigs := ss.filter (fun x => x.type == 13)
  let lastOk := match ss.getLast? with
    | some x => if x.type = 13 then decide (x.off + x.bytes.length = file.length) else sigs.isEmpty
    | none => true
  if lastOk && decide (sigs.length ≤ 1) && (bitOf (blkField file 8 4) 0 == !sigs.isEmpty) then some ss else none

/-- Whether the signature of an image holds under its key slot, whose purpose includes OLX, R72, R326; an image without one needs a
partition that allows it. -/
def State.signatureOk (s : State) (part : Partition) (file : List Byte) (ss : List Section) : Bool :=
  match ss.find? (fun x => x.type == 13) with
  | none => part.unsignedOk
  | some x =>
    let b := x.bytes
    let slot := nth s.mgmt.keys.toList (blkField b 2 2) ⟨[], 0⟩
    let digest := Config.shake256 (file.take x.off)
    b.length == 192 && blkField b 0 2 == 1 && decide (blkField b 2 2 < 16) && blkZero b 4 4 && blkZero b 186 6 &&
    blkField b 8 64 == digest.toNat && slot.mask.getLsbD 2 && Config.ed448Verify slot.key digest ((b.drop 72).take 114)

/-! ### Tables, R70 -/

/-- The sections of a type that belong to a kernel. -/
def kernSections (ss : List Section) (type k : Nat) : List Section := ss.filter (fun x => x.type == type && x.kernel == k)
/-- The bytes of every section of a type of a kernel. -/
def kernBytes (ss : List Section) (type k : Nat) : List Byte := (kernSections ss type k).flatMap (·.bytes)
/-- A length rounded up to 8. -/
def pad8 (n : Nat) : Nat := (n + 7) / 8 * 8

/-- The group entries of .grp, by the number of bytes. -/
def groupsOf : Nat → List Byte → List (List Nat)
  | 0, _ => []
  | n + 1, b =>
    if b.length < 8 then [] else
    let m := blkField b 0 4
    (List.range m).map (fun i => blkField b (8 + 2 * i) 2) :: groupsOf n (b.drop (8 + pad8 (2 * m)))
/-- The itineraries of .itin. -/
def itinsOf (b : List Byte) : List Itin :=
  (recordsOf 72 b).map (fun r => ⟨blkField r 2 2, (List.range (Nat.min 16 (blkField r 0 2))).map (fun i =>
    (blkField r (8 + 4 * i) 2, blkField r (10 + 4 * i) 1))⟩)
/-- The slot entries of the records of .slots, in order, by the number of bytes. -/
def slotsOf : Nat → List Byte → List SlotEnt
  | 0, _ => []
  | n + 1, b =>
    if b.length < 8 then [] else
    let m := blkField b 0 4
    (List.range m).map (fun i =>
      let o := 8 + 16 * i
      ⟨blkField b o 2, blkField b (o + 2) 2, blkField b (o + 4) 4, blkField b (o + 8) 4, blkField b (o + 12) 4⟩) ++ slotsOf n (b.drop (8 + 16 * m))

/-- The records of the .rgn of a kernel whose .text stands at a code address, by the number of bytes. -/
def rgnsOf (base : Nat) : Nat → List Byte → List RgnRec
  | 0, _ => []
  | n + 1, b =>
    if b.length < 16 then [] else
    let m := blkField b 10 2
    ⟨base, blkField b 0 4, blkField b 4 4, blkField b 8 1,
      (List.range m).map (fun i => (blkField b (16 + 8 * i) 4, blkField b (20 + 8 * i) 4))⟩ :: rgnsOf base n (b.drop (16 + 8 * m))
/-- The checks of R75. An offset equal to the length of the .text counts as inside it, at the start as at the end: the rule does not say
(the model's choice, log entry 92). -/
def RgnRec.ok (r : RgnRec) (text : Nat) : Bool :=
  decide (r.start ≤ text) && decide (r.stop ≤ text) && decide (r.start ≤ r.stop) && decide (r.limit ≤ 255) &&
  r.spans.all (fun p => decide (p.1 + p.2 ≤ 0xFF000)) && decide ((r.spans.map (·.2)).foldl (· + ·) 0 ≤ 8192)
/-- The region records of an image, those of each kernel with the code address of its .text, and whether all of them pass R75. -/
def sectRgns (ss : List Section) : List RgnRec × Bool :=
  let ks := ((ss.filter (fun x => x.type == 8)).map (·.kernel)).eraseDups
  let of (k : Nat) : List RgnRec :=
    rgnsOf (((kernSections ss 1 k).head?.map (·.base)).getD 0) (kernBytes ss 8 k).length (kernBytes ss 8 k)
  (ks.flatMap of, ks.all (fun k => (of k).all (fun r => r.ok (kernBytes ss 1 k).length)))
/-- The graphs of .cgraph, with their local addresses, by the number of bytes. -/
def graphsOf : Nat → List Byte → List (Nat × List Byte)
  | 0, _ => []
  | n + 1, b =>
    if b.length < 8 then [] else
    let m := blkField b 0 4
    (blkField b 4 4, (b.drop 8).take m) :: graphsOf n (b.drop (8 + pad8 m))

/-! ### Symbols and relocations, R71, R73 -/

/-- A symbol: value, section index, binding, kind and name. -/
structure Sym where
  value : Nat
  sect : Nat
  isGlobal : Bool
  kind : Nat
  name : List Byte
  deriving DecidableEq, Repr
/-- The symbols of .sym, by the number of bytes. -/
def symsOf : Nat → List Byte → List Sym
  | 0, _ => []
  | n + 1, b =>
    if b.length < 16 then [] else
    ⟨blkField b 0 8, blkField b 8 2, blkField b 10 1 == 1, blkField b 11 1, (b.drop 16).take (blkField b 12 2)⟩ :: symsOf n (b.drop (16 + pad8 (blkField b 12 2)))

/-- An image as it is loaded: its sections, with the places of their code, its symbols, its first TID index and where the runtime has
put its .rodata. -/
structure Image where
  sects : List Section
  syms : List Sym
  tid : Nat
  rodata : Nat
  deriving DecidableEq, Repr

/-- The final value of a symbol that an image defines: its code address, its place in device memory or its TID index; any other value
is final in the file. -/
def Image.value (m : Image) (y : Sym) : Int :=
  if y.kind = 0 then signedOf 64 y.value + ((m.sects[y.sect]?).map (fun x => (x.base : Int))).getD 0
  else if y.kind = 2 then y.value + m.rodata
  else if y.kind = 4 then y.value + m.tid
  else signedOf 64 y.value
/-- The symbol of a name that an image exports. -/
def Image.exported (m : Image) (name : List Byte) : Option Int :=
  (m.syms.find? (fun y => y.isGlobal && y.sect != 0xFFFE && y.name == name)).map m.value
/-- The final value of a symbol of an image: an external one takes that of the one other image of the launch that exports its name,
R73. -/
def Image.final (m : Image) (others : List Image) (y : Sym) : Option Int :=
  if y.sect = 0xFFFE then
    match others.filterMap (fun o => o.exported y.name) with
    | [v] => some v
    | _ => none
  else some (m.value y)

/-- Bytes replaced in a string. -/
def patch (b : List Byte) (off : Nat) (bs : List Byte) : List Byte := b.take off ++ bs ++ b.drop (off + bs.length)
/-- A number that fits a signed field of n bits. -/
def fitsS (n : Nat) (v : Int) : Bool := decide (-(2 ^ (n - 1) : Int) ≤ v ∧ v < 2 ^ (n - 1))
/-- The bits of a number in a field. -/
def bitsInt (n : Nat) (v : Int) : Nat := (v % 2 ^ n).toNat
/-- An instruction word with a field replaced. -/
def putField (w hi lo v : Nat) : Nat := w / 2 ^ (hi + 1) * 2 ^ (hi + 1) + v % 2 ^ (hi - lo + 1) * 2 ^ lo + w % 2 ^ lo
/-- A number held to the range of an I-format immediate. -/
def clampI (v : Int) : Int := if v < -1024 then -1024 else if v > 1023 then 1023 else v
/-- The upper part of LI and LA, taken to 20 bits, R61. -/
def hiOf (v : Int) : Nat := bitsInt 20 ((v + 2048) / 4096)
/-- The lower part: what the sign-extended upper part leaves. -/
def loOf (v : Int) : Int := v - signedOf 32 (hiOf v * 4096)
/-- The second of the two pieces of the lower part that LA adds. -/
def lobOf (v : Int) : Int := loOf v - clampI (loOf v)

/-- The bytes that a relocation patches. -/
def relocSize (type : Nat) : Nat := if type < 6 then 4 else if type = 6 then 8 else 2
/-- One relocation applied to a section's bytes: `at_` is the patched offset, `sym` S, `a` the addend A, which an index does not take, `p` the
address of what is patched; none when the value does not fit. For HI20 and LOA11, whose values are cut to their fields, R71 states no
limit: the model's choice is that v fits 32 bits signed. That an unknown type and a patch that passes the section's end do not fit is the
model's choice as well (log entry 92). -/
def relocate (b : List Byte) (type at_ : Nat) (sym a p : Int) : Option (List Byte) :=
  if at_ + relocSize type > b.length then none else
  let v := if type < 7 then sym + a else sym
  let w := blkField b at_ 4
  let set (w : Nat) : Option (List Byte) := some (patch b at_ (leBytes 4 w))
  let pcHalf := (v - p) / 2
  match type with
  | 1 => if fitsS 10 pcHalf && (v - p) % 2 == 0 then
      set (putField (putField w 31 27 (bitsInt 10 pcHalf / 32)) 11 7 (bitsInt 10 pcHalf % 32)) else none
  | 2 => if fitsS 20 pcHalf && (v - p) % 2 == 0 then set (putField w 31 12 (bitsInt 20 pcHalf)) else none
  | 3 =>
    let x := if w % 128 = 9 then v else v - p
    if fitsS 32 x then set (putField w 31 12 (hiOf x)) else none
  | 4 => if fitsS 32 (v - p) then set (putField w 31 21 (bitsInt 11 (clampI (loOf (v - p))))) else none
  | 5 => if fitsS 32 (v - p) && fitsS 11 (lobOf (v - p)) then set (putField w 31 21 (bitsInt 11 (lobOf (v - p)))) else none
  | 6 => some (patch b at_ (leBytes 8 (bitsInt 64 v)))
  | 7 => if 0 ≤ v && v < 4096 then some (patch b at_ (leBytes 2 v.toNat)) else none
  | 8 => if 0 ≤ v && v < 256 then some (patch b at_ (leBytes 2 v.toNat)) else none
  | 9 => if 0 ≤ v && v < 65536 then some (patch b at_ (leBytes 2 v.toNat)) else none
  | _ => none

/-- The relocation records of an image applied to its sections, in order; LOA11 and LOB11 stand 4 and 8 bytes after the AUIPC whose
address they count from. R71 and R73 do not say these points, which are the model's choice (log entry 92): the offset of a LOA11 or LOB11
record is that of the pair's AUIPC; a section or symbol index that names nothing is LOADFAIL; and an external symbol that no record uses
need not resolve. -/
def Image.relocAll (m : Image) (others : List Image) : List (List Byte) → List Section → Option (List Section)
  | [], ss => some ss
  | r :: t, ss =>
    let off := blkField r 0 8
    let ix := blkField r 8 2
    let type := blkField r 10 2
    match ss[ix]?, (m.syms[blkField r 12 4]?).bind (m.final others) with
    | some x, some v =>
      let d : Nat := if type = 4 then 4 else if type = 5 then 8 else 0
      match relocate x.bytes type (off + d) v (signedOf 64 (blkField r 16 8)) (x.base + off) with
      | some b => m.relocAll others t (ss.set ix { x with bytes := b })
      | none => none
    | _, _ => none

/-! ### What a launch loads -/

/-- The first TID index of the lowest free run of n entries of a table, R73. -/
def freeRun (tids : List (Nat × BitVec 256)) (n : Nat) : Option Nat :=
  (List.range (4097 - n)).find? (fun b => (List.range n).all (fun i => !((alGet tids (b + i)).getD 0).getLsbD 23))

/-- The .tid records of an image. -/
def tidRecords (ss : List Section) : List (List Byte) := (ss.filter (fun x => x.type == 4)).flatMap (fun x => recordsOf 40 x.bytes)
/-- The bytes of every section of a type. -/
def typeBytes (ss : List Section) (type : Nat) : List (List Byte) := (ss.filter (fun x => x.type == type)).map (·.bytes)

/-- The .text sections of an image, of those a test names, placed one after another from a code address on; and the address after. -/
def placeText (p : Section → Bool) : Nat → List Section → List Section × Nat
  | pos, [] => ([], pos)
  | pos, x :: t =>
    if x.type = 1 && p x then
      let (r, e) := placeText p (pos + x.bytes.length) t
      ({ x with base := pos } :: r, e)
    else
      let (r, e) := placeText p pos t
      (x :: r, e)
/-- A code address rounded up to the boundary of R73. -/
def line64 (n : Nat) : Nat := (n + 63) / 64 * 64
/-- The images of a launch placed, R73: the code from an address on and the TID indices from an index on. `k` names the kernel whose .text
the primary image, the first, gives; a library gives every .text it has (log entry 92). -/
def placeImages (k : Option Nat) (pos tid : Nat) : List (Nat × List Section) → List Image × Nat
  | [] => ([], pos)
  | (at_, ss) :: t =>
    let (r, e) := placeText (fun x => match k with | some n => x.kernel == n | none => true) (line64 pos) ss
    let m : Image := ⟨r, (typeBytes ss 11).flatMap (fun b => symsOf b.length b), tid, Config.rodataAt at_⟩
    let (ms, e) := placeImages none e (tid + (tidRecords ss).length) t
    (m :: ms, e)

/-- Every image with its relocations resolved against the others, R73. -/
def resolveAll (before : List Image) : List Image → Option (List Image)
  | [] => some []
  | m :: t =>
    match m.relocAll (before ++ t) ((typeBytes m.sects 12).flatMap (recordsOf 24)) m.sects with
    | none => none
    | some ss => (resolveAll (before ++ [m]) t).map ({ m with sects := ss } :: ·)

/-- Bytes laid at an offset behind what is there, the gap zeros: what a scrub leaves (R321). -/
def layAt (b : List Byte) (off : Nat) (c : List Byte) : List Byte := b ++ List.replicate (off - b.length) 0 ++ c
/-- The .text sections that the images of a launch give, the primary image those of its kernel. -/
def textsOf (k : Nat) (ms : List Image) : List Section :=
  ms.zipIdx.flatMap (fun m => m.1.sects.filter (fun x => x.type == 1 && (m.2 != 0 || x.kernel == k)))
/-- The code of the images of a launch. -/
def codeOf (k : Nat) (ms : List Image) : List Byte := (textsOf k ms).foldl (fun b x => layAt b x.base x.bytes) []
/-- The gaps in it: the code addresses, from and up to, that no loaded .text holds (R36). -/
def gapsOf : Nat → List Section → List (Nat × Nat)
  | _, [] => []
  | pos, x :: t => (if pos < x.base then [(pos, x.base)] else []) ++ gapsOf (x.base + x.bytes.length) t

/-- What the loader makes of an image for a kernel: the kernel, and the TID entries it places. -/
structure Loaded where
  kern : Kernel
  tids : List (Nat × BitVec 256)
  deriving DecidableEq, Repr

/-- Steps 2 to 5 of R73 for a kernel of the first of the images of a launch, each with its address; none is LOADFAIL. Every .rgn record of
every image is checked, and those of a loaded .text are kept. Where the rule does not say, the model's choice is LOADFAIL (log entry 92):
no free run of TID entries that is long enough, and an odd entry offset. A kernel without a .launch record is entered at offset 0, and a
library gives its .text, its .tid records and its symbols alone: its .lmem, .grp, .itin, .slots and .cgraph sections are not loaded (log
entry 92). -/
def loadKernel (files : List (Nat × List Section)) (k size : Nat) (tids : List (Nat × BitVec 256)) : Option Loaded :=
  match freeRun tids ((files.map (fun f => (tidRecords f.2).length)).foldl (· + ·) 0) with
  | none => none
  | some base =>
    let (ms, stop) := placeImages (some k) 0 base files
    match resolveAll [] ms with
    | none => none
    | some [] => none
    | some (m :: libs) =>
      let rs := m.sects
      let placed := (m :: libs).flatMap (fun m => tidRecords m.sects)
      let launch := kernBytes rs 10 k
      let graphs := graphsOf (kernBytes rs 9 k).length (kernBytes rs 9 k)
      if stop > 2 ^ 18 || blkField launch 12 4 % 2 = 1 || !(sectRgns rs).2 || !libs.all (fun l => (sectRgns l.sects).2) then none else
      some ⟨{
          text := codeOf k (m :: libs)
          gaps := gapsOf 0 (textsOf k (m :: libs))
          lmem := (kernSections rs 3 k).map (fun x => (x.addr, x.bytes)) ++ graphs
          entry := blkField launch 12 4
          groups := groupsOf (kernBytes rs 6 k).length (kernBytes rs 6 k)
          itins := itinsOf (kernBytes rs 5 k)
          slots := slotsOf (kernBytes rs 7 k).length (kernBytes rs 7 k)
          rgn := (sectRgns (rs.filter (fun x => x.kernel == k))).1 ++ libs.flatMap (fun l => (sectRgns l.sects).1)
          size := size },
        placed.mapIdx (fun i b => (base + i, BitVec.ofNat 256 (blkField b 8 32) ||| 0x800000))⟩

/-- The file of an image of a context. -/
def State.imageFile (s : State) (ctx at_ : Nat) : Option (List Byte) :=
  match s.readDev ctx at_ 64 with
  | none => none
  | some h => if headerOk h then s.readDev ctx at_ (blkField h 24 8) else none
/-- The sections of an image of a context that passes step 1 of R73, with its address. -/
def State.imageOf (s : State) (ctx at_ : Nat) : Option (List Byte × Nat × List Section) :=
  match s.imageFile ctx at_ with
  | none => none
  | some file =>
    match imageSections file with
    | none => none
    | some ss => if s.signatureOk (s.partOf ctx) file ss then some (file, at_, ss) else none
/-- The images of a launch, the primary first: the record of R238 has no field for the libraries that R73 lets a launch name, so that which
they are is a free value (log entry 52). -/
def imagesOf (image : Nat) : List Nat := image :: Config.libraries image

/-- The images of a launch of a context checked and loaded, R73; none is LOADFAIL. Where the rule does not say, the model's choice is LOADFAIL
(log entry 92): a kernel index at or above the primary image's kernel count, and an image that cannot be read. -/
def State.loadImage (s : State) (ctx image k : Nat) (tids : List (Nat × BitVec 256)) : Option Loaded :=
  match (imagesOf image).mapM (s.imageOf ctx) with
  | none => none
  | some [] => none
  | some (f :: libs) =>
    if decide (k ≥ blkField f.1 0x20 4) then none else
    loadKernel ((f :: libs).map (·.2)) k (((f :: libs).map (fun g => g.1.length)).foldl (· + ·) 0) tids
/-- What the reads of an image and of its libraries consume, R322. -/
def State.consumeImages (s : State) (ctx image : Nat) : State :=
  if s.poison.isEmpty then s else
  (imagesOf image).foldl (fun s a => s.consumeDev ctx a (match s.readDev ctx a 64 with
    | some h => if headerOk h then blkField h 24 8 else 64
    | none => 64)) s

end Sys2Proof.Machine
end

