-- ==== Sys2Proof/Machine/Place.lean ====
section
/-! DEFINITION. Where logical cores can be bound (spec/01_machine.md R19; spec/11_progress.md R242, R245;
spec/12_isa_flow_sync.md R269; spec/15_prog_graph_supersteps.md R305; spec/18_recovery.md R361). The spec leaves the choice among
the places it allows to the firmware (log entry 53). -/

namespace Sys2Proof.Machine

/-- The physical core of an exposed position, R7. -/
def State.physAt (s : State) (pos : Nat × Nat) : Option Nat :=
  match s.phys.find? (fun p => p.2.exposed == some pos && !p.2.quarantined) with
  | some p => some p.1
  | none =>
    let n := dieOf pos.1 pos.2 * 600 + pos.1 % 24 * 25 + pos.2 % 24
    if (s.physOf n).quarantined then none else some n

/-- The cluster of a physical core as it is exposed. -/
def State.clusterAt (s : State) (ix : Nat) : Option Nat := (s.exposedOf ix).map (fun p => clusterOf p.1 p.2)

/-- The contexts that have lines in a cluster, but for the cores that a list of slots names: those bound there, and those whose
vacated cores hold its mutexes, R269. -/
def State.contextsIn (s : State) (cluster : Nat) (gone : List Nat) : List Nat :=
  ((s.slots.filter (fun p => p.2.state != .empty && p.2.state != .fenced && !gone.contains p.1 && s.clusterAt p.1 == some cluster)).map
      (fun p => p.2.ctx) ++
    (s.evsets.filter (fun e => e.cluster == cluster && s.heldByVacated e)).map (·.ctx)).eraseDups
/-- Whether a context may bind cores in a cluster. -/
def State.clusterOpen (s : State) (cluster ctx : Nat) (gone : List Nat) : Bool :=
  let cs := s.contextsIn cluster gone
  cs.contains ctx || decide (cs.length < 4)

/-- The physical cores of a request. -/
def Request.slots (r : Request) : List Nat := r.places.flatMap (fun p => p.2.flatten)
/-- Whether a physical core is free for a launch: EMPTY, or to be freed, on a die that runs, and held for no other launch (R248). -/
def State.slotFree (s : State) (lh : Nat) (gone : List Nat) (ix : Nat) : Bool :=
  ((s.slotRec ix).state == .empty || gone.contains ix) && !s.mgmt.dieOff.getLsbD (physDie ix) &&
  !s.requests.any (fun r => r.lh != lh && r.slots.contains ix)

/-- The physical core of a position in a partition that a test accepts. -/
def State.openAt (s : State) (part : Partition) (ok : Nat → Bool) (pos : Nat × Nat) : Option Nat :=
  if decide (pos.1 < 48) && decide (pos.2 < 48) && part.clusters.contains (clusterOf pos.1 pos.2) then
    match s.physAt pos with
    | some ix => if ok ix then some ix else none
    | none => none
  else none

/-- Every element of a list, when a function gives one for each. -/
def allSome {α β : Type} (f : α → Option β) : List α → Option (List β)
  | [] => some []
  | a :: t => match f a, allSome f t with
    | some b, some l => some (b :: l)
    | _, _ => none

/-- A list begun at a place of it. -/
def rotate {α : Type} (n : Nat) (l : List α) : List α := l.drop (n % Nat.max 1 l.length) ++ l.take (n % Nat.max 1 l.length)

/-- The places for a gang of n: adjacent exposed positions of one mesh row, R19. -/
def State.gangPlaces (s : State) (part : Partition) (ok : Nat → Bool) (n : Nat) : List (List Nat) :=
  (List.range 48).flatMap (fun r => (List.range 48).filterMap (fun c =>
    allSome (s.openAt part ok) ((List.range n).map (fun i => (r, c + i)))))
/-- The places for a timed launch of n cores: blocks of one die, R305. -/
def State.blockPlaces (s : State) (part : Partition) (ok : Nat → Bool) (n : Nat) : List (List Nat) :=
  let w := Nat.max 1 (Nat.min n 24)
  let h := (n + w - 1) / w
  (List.range 4).flatMap (fun d => (List.range (25 - h)).flatMap (fun r => (List.range (25 - w)).filterMap (fun c =>
    allSome (s.openAt part ok) ((List.range n).map (fun i => (d / 2 * 24 + r + i / w, d % 2 * 24 + c + i % w))))))

/-- Whether two places can be those of twins: different clusters, never adjacent, R361. The primary of each pair is the twin of the lower slot
index, whichever place it stands in. -/
def State.twinPlaces (s : State) (a b : List Nat) : Bool :=
  (a.zip b).all (fun p => match s.exposedOf p.1, s.exposedOf p.2 with
    | some x, some y => clusterOf x.1 x.2 != clusterOf y.1 y.2 && manhattan x y != 1
    | _, _ => false) && (a.zip b).take 1 == ((a.zip b).take 1).filter (fun p => decide (p.1 < p.2))

/-- The cluster in which a logical core must be bound, for the mutex it holds, R242. -/
def State.mutexCluster (s : State) (ctx lh lc : Nat) : Option Nat :=
  (s.evsets.find? (fun e => e.ctx == ctx && e.mutexes.toList.any (fun m => m.holder == some (lh, lc)))).map (·.cluster)

/-- A unit that is bound as one: a gang, or a whole timed launch. -/
abbrev BindUnit := List Nat
/-- The units of a launch. -/
def Launch.units (l : Launch) : List BindUnit :=
  if l.lrec.timed then [List.range l.lrec.grid]
  else
    let g := Nat.max 1 l.lrec.gang
    (List.range (l.lrec.grid / g)).map (fun i => (List.range g).map (fun m => i * g + m))

/-- Whether a place serves a unit: none of it used, and every core that holds a mutex in its cluster. -/
def State.serves (s : State) (l : Launch) (u : BindUnit) (used p : List Nat) : Bool :=
  p.all (fun ix => !used.contains ix) && (u.zip p).all (fun x => match s.mutexCluster l.ctx l.h x.1 with
    | some c => s.clusterAt x.2 == some c
    | none => true)

/-- The places for a unit among candidates; in a mirror launch, each with one for the second twins. -/
def State.unitPlaces (s : State) (l : Launch) (cands : List (List Nat)) (used : List Nat) (u : BindUnit) : List (List (List Nat)) :=
  let mine := cands.filter (s.serves l u used)
  if l.lrec.mirror then
    mine.flatMap (fun a => (cands.reverse.filter (fun b => s.serves { l with h := s.nextId } u (used ++ a) b && s.twinPlaces a b)).map
      (fun b => [a, b]))
  else mine.map (fun a => [a])

/-- Places for units in order, every choice tried before a unit has none (R242, R369). -/
def State.placeAll (s : State) (l : Launch) (cands : List (List Nat)) : List Nat → List BindUnit → Option (List (BindUnit × List (List Nat)))
  | _, [] => some []
  | used, u :: t => (s.unitPlaces l cands used u).findSome? (fun p => (s.placeAll l cands (used ++ p.flatten) t).map (fun r => (u, p) :: r))

/-- Units given candidates in order, one each, when no two candidates overlap and any serves any unit. -/
def placePacked : List (List Nat) → List BindUnit → Option (List (BindUnit × List (List Nat)))
  | _, [] => some []
  | [], _ :: _ => none
  | p :: cands, u :: t => (placePacked cands t).map (fun r => (u, [p]) :: r)

/-- The candidates of a launch's units, over the physical cores that a test accepts. -/
def State.candidates (s : State) (l : Launch) (ok : Nat → Bool) : List (List Nat) :=
  let part := s.partOf l.ctx
  if l.lrec.timed then s.blockPlaces part ok l.lrec.grid else s.gangPlaces part ok (Nat.max 1 l.lrec.gang)

/-- Candidates that do not overlap, taken from the left. -/
def packed (l : List (List Nat)) : List (List Nat) :=
  (l.foldl (fun (acc : List (List Nat) × List Nat) p => if p.any (fun ix => acc.2.contains ix) then acc
    else (acc.1 ++ [p], acc.2 ++ p)) ([], [])).1

/-- Places for units over the physical cores that a test accepts. In a launch that starts and is not a mirror launch, any place serves
any unit, and the places taken from the left of each row are as many as there can be; elsewhere every choice is tried. -/
def State.placesOver (s : State) (l : Launch) (ok : Nat → Bool) (n : Nat) (units : List BindUnit) : Option (List (BindUnit × List (List Nat))) :=
  let cands := s.candidates l ok
  if l.status == .started || l.lrec.timed || l.lrec.mirror then s.placeAll l (rotate n cands) [] units
  else placePacked (rotate n (packed cands)) units

/-- Whether a context may bind cores in the cluster of a physical core. -/
def State.mayBind (s : State) (ctx : Nat) (gone : List Nat) (ix : Nat) : Bool :=
  match s.clusterAt ix with
  | some c => s.clusterOpen c ctx gone
  | none => false

/-- Places for the units of a launch with some cores taken as free. -/
def State.placesWith (s : State) (l : Launch) (gone : List Nat) (units : List BindUnit) : Option (List (BindUnit × List (List Nat))) :=
  s.placesOver l (fun ix => s.slotFree l.h gone ix && s.mayBind l.ctx gone ix) (Config.place s.fresh) units

/-- Whether a launch can be placed at all on the positions in service, R306, R369: a FENCED core is out of service (R250). -/
def State.canFit (s : State) (l : Launch) : Bool :=
  let n := l.lrec.grid
  let w := Nat.max 1 (Nat.min n 24)
  let l := if l.lrec.timed then { l with lrec := { l.lrec with grid := (n + w - 1) / w * w } } else l
  (s.placesOver l (fun ix => (s.slotRec ix).state != .fenced) 0 l.units).isSome

end Sys2Proof.Machine
end

