-- ==== Sys2Proof/Machine/Queue.lean ====
section
/-! DEFINITION. Launch queues and the taking of launch records (spec/11_progress.md R236 to R240; spec/15_prog_graph_supersteps.md
R306; spec/18_recovery.md R356, R369; spec/20_attachment.md R383). -/

namespace Sys2Proof.Machine

/-- Whether the partition of a context is ready, R382, R383. -/
def State.partReady (s : State) (ctx : Nat) : Bool := s.mgmt.pready.getLsbD (s.ctx ctx).part
/-- Eligible records whose partition is not ready any more: they wait as records that are not eligible do, and no cores are held for them,
R383. -/
def State.unready (s : State) : State :=
  let lost (l : Launch) : Bool := l.status == .eligible && !s.partReady l.ctx
  { s with
    launches := s.launches.map (fun l => if lost l then { l with status := .taken } else l)
    requests := s.requests.filter (fun r => !s.launches.any (fun l => l.h == r.lh && lost l)) }
/-- Whether a queue has a record to take, R236, R383. -/
def State.takable (s : State) (q : Nat) : Bool :=
  let k := s.queue q
  k.enable && decide (k.head.toNat < k.tail.toNat) && (s.ctx k.ctx).enable && s.partReady k.ctx
/-- The firmware's next look at a queue. -/
def State.kickTake (s : State) (q : Nat) : State :=
  if s.takable q then
    let s := s.tickFresh
    s.sched (s.now + actTime s.fresh) true (.launchRecordTake q)
  else s
/-- Its next look at every queue. -/
def State.kickTakes (s : State) : State := s.queues.foldl (fun s p => s.kickTake p.1) s

/-! ### The queue registers, R236, R237 -/

/-- A write of LQTAIL: an append; a value below the tail or past the ring's end is ignored, and sets ERR. -/
def State.writeTail (s : State) (q : Nat) (v : Word) : State :=
  let k := s.queue q
  if decide (v.toNat < k.tail.toNat) || decide (v.toNat > k.head.toNat + k.size.toNat) then
    s.updQueue q (fun k => { k with err := true })
  else (s.updQueue q (fun k => { k with tail := v })).kickTake q
/-- LQTAIL_WRITE. -/
def execLqtailWrite (q : Nat) (v : Word) (s : State) : Out := .next (s.writeTail q v)

/-- A queue enabled: the counts start at 0; records of the queue's former life count in it no more, and those that have completed wait
for no earlier one with their flag words. -/
def State.enableQueue (s : State) (q : Nat) : State :=
  if (s.queue q).enable then s else
    let s := (s.launches.filter (fun l => l.queue == q && decide (l.seq > (s.queue q).done.toNat))).foldl (fun s l => s.launchFlag l) s
    let s := s.updQueue q (fun k => { k with enable := true, tail := 0, head := 0, done := 0 })
    let past (l : Launch) : Bool := l.queue == q && (match l.status with | .complete _ => true | _ => false)
    let moved := (s.launches.filter (fun l => !past l)).map (fun (l : Launch) => if l.queue == q then { l with queue := q + 64 } else l)
    { s with launches := moved }
/-- QUEUE_ENABLE. -/
def execQueueEnable (q : Nat) (s : State) : Out := .next (s.enableQueue q)

/-- A queue disabled: no record is taken from then on. -/
def State.disableQueue (s : State) (q : Nat) : State := s.updQueue q (fun k => { k with enable := false })
/-- QUEUE_DISABLE. -/
def execQueueDisable (q : Nat) (s : State) : Out := .next (s.disableQueue q)

/-- CANCEL: every taken record that has not started completes CANCELLED. -/
def State.cancelQueue (s : State) (q : Nat) : State :=
  (s.launches.filter (fun (l : Launch) => l.queue % 64 == q && (l.status == .taken || l.status == .eligible))).foldl
    (fun s l => s.completeLaunch l.h stCancelled) s
/-- QUEUE_CANCEL. -/
def execQueueCancel (q : Nat) (s : State) : Out := .next (s.cancelQueue q)

/-! ### Launch records, R238, R239 -/

/-- A limit with its default, in ns; 0 is never. -/
def limitOf (rec dflt : Nat) : Nat := if rec = 0 then dflt * 1000000 else rec
/-- A dependence. -/
def depOf (q seq : Nat) : Option (Nat × Nat) := if q = 255 then none else some (q, seq)

/-- A record from its 128 bytes, with the defaults of its queue. -/
def launchRec (b : List Byte) (k : LQueue) : LaunchRec :=
  let f := blkField b 0x13 1
  { kind := blkField b 0 2, gang := blkField b 2 2, grid := blkField b 4 4, image := blkField b 8 8, kernel := blkField b 0x10 2
    prio := blkField b 0x12 1, follow := bitOf f 0, mirror := bitOf f 1, umbra := bitOf f 2, timed := bitOf f 3, flagEn := bitOf f 4
    flagScope := blkField b 0x14 1, argAddr := blkField b 0x18 8, argLen := blkField b 0x20 4
    seed := BitVec.ofNat 32 (blkField b 0x24 4), quantum := blkField b 0x28 8, tick := blkField b 0x30 8
    wd := [limitOf (blkField b 0x38 8) k.lima, limitOf (blkField b 0x40 8) k.limb, limitOf (blkField b 0x48 8) k.limc]
    depA := depOf (blkField b 0x60 1) (blkField b 0x50 8), depB := depOf (blkField b 0x61 1) (blkField b 0x58 8)
    glean := blkField b 0x64 4, flagAddr := blkField b 0x68 8, park := blkField b 0x70 8, parkSize := blkField b 0x78 8 }

/-- The limits of R238 on the bytes of a launch; a no-op completes before they count (log entry 54). -/
def recOk (b : List Byte) (r : LaunchRec) : Bool :=
  decide (r.kind = 1) && [1, 2, 4, 8].contains r.gang && decide (1 ≤ r.grid ∧ r.grid ≤ 2304) && decide (r.grid % r.gang = 0) &&
  decide (r.prio ≤ 7) && decide (blkField b 0x13 1 < 32) && decide (5 ≤ r.flagScope ∧ r.flagScope ≤ 11) && blkZero b 0x15 3 &&
  decide (r.argLen ≤ 3840) && (if r.timed then decide (256 ≤ r.tick ∧ r.tick ≤ 1000000) else decide (r.tick = 0)) &&
  blkZero b 0x62 2 && decide (r.flagAddr % 8 = 0) && decide (r.park % 4096 = 0) && decide (r.parkSize % 4096 = 0)

/-- Whether one limit is at or below the next; 0 is never. -/
def limitLe (a b : Nat) : Bool := b == 0 || (a != 0 && decide (a ≤ b))
/-- The order of the three limits. -/
def limitsOk (w : List Nat) : Bool := limitLe (nth w 0 0) (nth w 1 0) && limitLe (nth w 1 0) (nth w 2 0)

/-- Whether a dependence of a record of a queue is one that R239 allows. -/
def State.depOk (s : State) (q seq : Nat) : Option (Nat × Nat) → Bool
  | none => true
  | some (p, n) =>
    decide (p < 64) && !(p == q && decide (n ≥ seq)) && (s.queue p).ctx == (s.queue q).ctx && (s.queue p).enable

/-- R23: at most 256 groups of distinct logical cores of the grid, and no logical core in more than four. -/
def groupsOk (gs : List (List Nat)) (grid : Nat) : Bool :=
  decide (gs.length ≤ 256) && gs.all (fun g => g.all (fun m => decide (m < grid)) && g.eraseDups.length == g.length) &&
  (List.range grid).all (fun c => decide ((gs.filter (fun g => g.contains c)).length ≤ 4))

/-- R306: the slot schedule of a timed launch. -/
def slotsOk (es : List SlotEnt) (grid : Nat) : Bool :=
  decide (es.length ≤ 4096) && (es.map (·.slot)).eraseDups.length == es.length &&
  es.all (fun e => decide (e.sender < grid) && decide (e.receiver < grid) && e.sender != e.receiver && decide (1 ≤ e.lines ∧ e.lines ≤ 4096)) &&
  es.all (fun e => es.all (fun f => e == f || e.sender != f.sender || decide (e.cyc + e.lines ≤ f.cyc) || decide (f.cyc + f.lines ≤ e.cyc)))

/-- The area that a launch's parking must have, R239, R356. -/
def parkNeed (r : LaunchRec) (itins : Bool) : Nat :=
  (if r.umbra then r.grid * (2064 * 1024) else 0) + (if itins then 2 ^ 20 else 0)

/-- What R239, R306, R356 and R369 ask of a launch whose image has been loaded. -/
def State.launchOk (s : State) (l : Launch) : Bool :=
  let r := l.lrec
  groupsOk l.kern.groups r.grid && decide (r.parkSize ≥ parkNeed r (!l.kern.itins.isEmpty)) && !(r.mirror && r.timed) &&
  (!r.timed || (decide (r.grid ≤ 576) && slotsOk l.kern.slots r.grid)) && s.canFit l

/-- A launch as its record is taken. -/
def newLaunch (h q seq ctx : Nat) (r : LaunchRec) : Launch :=
  { h := h, queue := q, seq := seq, ctx := ctx, lrec := r, kern := Kernel.zero, status := .taken, effPrio := r.prio, eligibleAt := 0
    startedAt := 0, residentNs := 0, quantumNs := 0, quantumOut := false, wdLevel := 0, doomed := none, tids := [], tidsB := []
    itins := [], itinsB := [], gbars := [], epoch := 0, snapFiring := false, snapGbars := [], snapTids := [], snapItins := []
    snapTour := 0, evs := [], rollbacks := 0, rolling := none, rolled := false, rollAt := none, aggs := [], carries := [], block := none, halted := []
    vacatedCores := [], args := [], startNs := 0, evict := false, recorded := [] }

/-- The next record of a queue taken, with its checks; one that cannot be read is rejected (log entry 54). The image is checked and loaded
here, and again when the launch starts (DESIGN CHOICE, log entry 92): R73 does not say when the firmware checks it. -/
def State.takeRecord (s : State) (q : Nat) : State :=
  let k := s.queue q
  let seq := k.head.toNat + 1
  let at_ := k.base.toNat + 128 * ((seq - 1) % k.size.toNat)
  let read := s.readDev k.ctx at_ 128
  let s := s.consumeDev k.ctx at_ 128
  let b := read.getD []
  let r := launchRec b k
  let h := s.nextId
  let l := newLaunch h q seq k.ctx r
  let s := { s.updQueue q (fun k => { k with head := wd seq }) with nextId := h + 1, launches := s.launches ++ [l] }
  if read.isSome && decide (r.kind = 2) then s.completeLaunch h stOk
  else if read.isNone || !recOk b r || !limitsOk r.wd || !s.depOk q seq r.depA || !s.depOk q seq r.depB then s.completeLaunch h stRejected
  else
  let s := s.consumeImages k.ctx r.image
  match s.loadImage k.ctx r.image r.kernel (s.ctx k.ctx).tids with
  | none => s.completeLaunch h stLoadFail
  | some x =>
    let l := { l with kern := x.kern }
    if s.launchOk l then (s.updLaunch h (fun _ => l)).kick else s.completeLaunch h stRejected

/-- LAUNCH_RECORD_TAKE: the firmware takes the next record of a queue. -/
def execLaunchRecordTake (q : Nat) (s : State) : Out :=
  .next (if s.takable q then (s.takeRecord q).kickTake q else s)

end Sys2Proof.Machine
end

