-- ==== Sys2Proof/Machine/Tables.lean ====
section
/-! DEFINITION. The events of the contexts' control blocks and of translation: enabling, the fault queue and its resumes, re-walks and
invalidations (spec/16_isolation.md R311, R316 to R320). -/

namespace Sys2Proof.Machine

/-! ### Contexts, R311 -/

/-- A context enabled in a partition that the configuration defines; the counts since ENABLE start again. -/
def State.enableCtx (s : State) (ctx part : Nat) : State :=
  if (s.ctx ctx).enable || decide (part ≥ s.mgmt.config.parts.length) then s else
    (s.updCtx ctx (fun c => { c with
      enable := true, part := part, fqtail := 0, tlbinvst := 0, invPending := [], faults := [], nextFseq := 1 })).kickTakes
/-- CONTEXT_ENABLE. -/
def execContextEnable (ctx part : Nat) (s : State) : Out := .next (s.enableCtx ctx part)

/-- Whether a launch of a context has been taken and is not complete. -/
def State.ctxBusy (s : State) (ctx : Nat) : Bool :=
  s.launches.any (fun l => l.ctx == ctx && (match l.status with | .complete _ => false | _ => true))

/-- A context disabled: ignored while a launch is in course; it drops the context's TLB entries, TID table, address groups and line
sets. -/
def State.disableCtx (s : State) (ctx : Nat) : State :=
  if !(s.ctx ctx).enable || s.ctxBusy ctx then s else
    let s := s.updCtx ctx (fun c => { c with enable := false, tids := [], agids := [], invPending := [] })
    { s with ctxWrites := s.ctxWrites.filter (fun w => w.ctx != ctx), tlb := s.tlb.filter (fun t => t.ctx != ctx), evsets := s.evsets.filter (fun e => e.ctx != ctx) }
/-- CONTEXT_DISABLE. -/
def execContextDisable (ctx : Nat) (s : State) : Out := .next (s.disableCtx ctx)

/-! ### The fault queue, R318 to R320 -/

/-- FAULT_QUEUE_SPACE: the oldest fault that waits in a fault unit is written to the queue. -/
def execFaultQueueSpace (ctx : Nat) (s : State) : Out :=
  let c := s.ctx ctx
  .next (match c.faults.find? (fun f => !f.queued) with
  | some f => if c.fqSpace then (s.writeFault ctx f f.slotAt).sched s.now true (.faultQueueSpace ctx) else s
  | none => s)

/-- An entry taken from those outstanding. -/
def State.takeFault (s : State) (ctx fseq : Nat) : Option (FaultEnt × State) :=
  ((s.ctx ctx).faults.find? (fun f => f.fseq == fseq)).map (fun f =>
    (f, s.updCtx ctx (fun c => { c with faults := c.faults.filter (fun g => g.fseq != fseq) })))

/-- The cores that sleep on an entry re-enter their regions; this does not count, R319. -/
def State.wakeFaulted (s : State) (ctx fseq : Nat) : State :=
  (s.cores.filter (fun c => c.ctx == ctx && c.run == .onFault fseq)).foldl (fun s c =>
    (s.updCore c.id (fun c => c.restart (s.now + 1))).traceReentry c.id) s

/-- RETRY: the sleeping cores re-enter, the writes of the CTX path that waited are performed, and the stalled commands are re-walked within
1 µs. -/
def State.retryFault (s : State) (ctx fseq : Nat) : State :=
  match s.takeFault ctx fseq with
  | none => s
  | some (f, s) =>
    let (ws, s) := s.takeWrites ctx fseq
    let s := ws.foldl (fun s w => s.ctxWrite w.ctx w.va w.bytes f.lcore) s
    f.waits.foldl (fun s w => match w.cmd with
      | some (_, n) =>
        let s := s.tickFresh
        s.schedTime (s.timeFine + Config.rewalkTime s.fresh % fineOf 1000) (.rewalk w.core n)
      | none => s) (s.wakeFaulted ctx fseq)
/-- FQRESUME_RETRY. -/
def execFqresumeRetry (ctx fseq : Nat) (s : State) : Out := .next (s.retryFault ctx fseq)

/-- Whether a fault entry is outstanding no more. -/
def State.resumed (s : State) (ctx : Nat) (f : Option Nat) : Bool :=
  match f with
  | some n => !(s.ctx ctx).faults.any (fun g => g.fseq == n)
  | none => false

/-- A stalled command carried on from the page that faulted. -/
def State.goOn (s : State) (id : CoreId) (p : EngClass) (x : Inflight) : State :=
  let s := s.updCmd id p x.ticket (fun y => { y with stalled := none, started := true })
  match x.cmd with
  | .copyIn .. | .copyOut .. | .gather .. => s.goCopy id x.ticket s.now
  | .shfRead .. => (match s.tours.find? (fun t => t.core == id && t.ticket == x.ticket) with
    | some t => s.goRead t.id s.now
    | none => s)
  | .shfReread _ => s.goReread id x.ticket s.now
  | .reduce b =>
    if x.till = 0 then
      let s := s.updCmd id p x.ticket (fun y => { y with started := false })
      s.goReduce id { x with stalled := none } b x.peers s.timeFine
    else s.sched s.now false (.chunkWrite id x.ticket x.page)
  | _ => s

/-- REWALK: what waited on a resumed entry goes on. -/
def execRewalk (c : CoreId) (ticket : Nat) (s : State) : Out :=
  .next (match s.core? c with
  | none => s
  | some d =>
    let s := [EngClass.copy, .sheaf, .coll].foldl (fun s p => match s.cmdOf c p ticket with
      | some x => if s.resumed d.ctx x.stalled then s.goOn c p x else s
      | none => s) s
    match s.tours.find? (fun t => t.core == c && t.ticket == ticket && s.resumed d.ctx t.parkFault) with
    | some t =>
      let s := s.updTour t.id (fun t => { t with parkFault := none })
      if t.parking then s.park t.id else s.gleanAll t.id
    | none => s)

/-- A command whose access is denied ends with ACCV, R320. -/
def State.denyCmd (s : State) (id : CoreId) (p : EngClass) (x : Inflight) : State :=
  let spent (y : Inflight) : Inflight := { y with stalled := none, started := true, status := 3, left := 0, due := s.now, out := [] }
  match x.cmd with
  | .shfRead .. =>
    let s := s.updCmd id p x.ticket (fun y => { y with stalled := none, started := true })
    (match s.tours.find? (fun t => t.core == id && t.ticket == x.ticket) with
    | some t => s.readDeny t.id
    | none => s)
  | .shfReread _ => (s.updStopRec id x.gen x.mask (fun r => { r with st := .ready 3 })).updCmd id p x.ticket spent
  | .reduce _ => s.endReduce id x.ticket 3 0
  | _ => s.updCmd id p x.ticket spent

/-- The commands, and the parked tours, that wait on an entry of a core ended. -/
def State.denyWaits (s : State) (id : CoreId) (fseq : Nat) : State :=
  match s.core? id with
  | none => s
  | some d =>
    let s := [EngClass.copy, .sheaf, .coll].foldl (fun s p =>
      ((d.engOf p).filter (fun x => x.stalled == some fseq)).foldl (fun s x => s.denyCmd id p x) s) s
    (s.tours.filter (fun t => t.core == id && t.parkFault == some fseq)).foldl (fun s t => s.parkDeny t.id) s

/-- DENY: a core that sleeps on the entry traps PAGEFAULT to the firmware, a denied service kills its launch, and the
stalled commands end. -/
def State.denyFault (s : State) (ctx fseq : Nat) : State :=
  match s.takeFault ctx fseq with
  | none => s
  | some (f, s) =>
    let s := (s.takeWrites ctx fseq).2
    f.waits.foldl (fun s w => match w.cmd with
      | some _ => s.denyWaits w.core fseq
      | none =>
        if f.kind = 5 then s.killLaunch w.core.lh else
        let s := s.focus w.core
        if s.core.id == w.core && s.core.run == .onFault fseq then s.takeTrap ⟨.pagefault, wd (f.va + f.kind)⟩ s.core.regpc else s) s
/-- FQRESUME_DENY. -/
def execFqresumeDeny (ctx fseq : Nat) (s : State) : Out := .next (s.denyFault ctx fseq)

/-! ### Invalidations, R317 -/

/-- Whether a cached entry holds an address of a page. -/
def TlbEnt.meets (t : TlbEnt) (va n : Nat) : Bool := decide (t.va < va + n) && decide (va < t.va + pageBytes t.size)

/-- An invalidation of a context's entries that a test accepts, counted once what they translated is performed. -/
def State.invalidate (s : State) (ctx : Nat) (p : TlbEnt → Bool) : State :=
  let s := { s with tlb := s.tlb.filter (fun t => !(t.ctx == ctx && p t)) }
  (s.updCtx ctx (fun c => { c with invPending := c.invPending ++ [s.now] })).sched (s.now + 1) true (.tlbinvstAdvance ctx)

/-- The invalidation of one page; a word with other bits set is ignored. -/
def State.invalidatePage (s : State) (ctx : Nat) (va : Word) (size : Nat) : State :=
  if va.toNat % 4096 != 0 || decide (va.toNat ≥ 2 ^ 52) || decide (size ≥ 16) then s
    else s.invalidate ctx (fun t => t.meets va.toNat (pageBytes size))
/-- TLBINV_PAGE. -/
def execTlbinvPage (ctx : Nat) (va : Word) (size : Nat) (s : State) : Out := .next (s.invalidatePage ctx va size)
/-- TLBINV_ALL: every entry. -/
def execTlbinvAll (ctx : Nat) (s : State) : Out := .next (s.invalidate ctx (fun _ => true))

/-- Whether a flag word lies behind a translation. -/
def FlagDst.translated : FlagDst → Bool
  | .device _ | .peer _ _ => true
  | .none | .localAt _ => false
/-- Whether an access of a core, translated by a cycle, is still to be performed. -/
def Core.owes (c : Core) (t : Nat) : Bool :=
  (c.copies ++ c.shfs ++ c.colls).any (fun x => decide (x.at_ ≤ t) && (x.flag.translated || !x.out.isEmpty)) ||
  (c.drainq ++ c.mirror.map (·.item)).any (fun d => decide (d.at_ ≤ t) && d.flag.translated) || !c.staged.isEmpty

/-- TLBINVST_ADVANCE: the oldest invalidation is counted, once every access through what it removed is performed. -/
def execTlbinvstAdvance (ctx : Nat) (s : State) : Out :=
  .next (match (s.ctx ctx).invPending with
  | [] => s
  | t :: rest =>
    if s.cores.any (fun c => c.ctx == ctx && c.owes t) then s.sched (s.now + 1) true (.tlbinvstAdvance ctx)
    else s.updCtx ctx (fun c => { c with tlbinvst := (c.tlbinvst + 1) &&& 0xFFFFFFFF, invPending := rest }))

/-! ### The aperture, R316 -/

/-- Whether a peer package may reach a range of physical addresses. -/
def State.exportedRange (s : State) (pkg pa n : Nat) : Bool :=
  s.mgmt.config.exports.any (fun e => e.1 == pkg && decide (e.2.1 ≤ pa) && decide (pa + n ≤ e.2.2))

/-- APERTURE_ACCESS: an access of a peer package is performed when its range is exported to it, and refused otherwise. The signed configuration
may export addresses beyond the 512 GB of R1: such an access is performed on memory there (DESIGN CHOICE, log entry 107). -/
def execApertureAccess (pkg pa len : Nat) (wr : Option (List Byte)) (s : State) : Out :=
  let n := match wr with | some b => b.length | none => len
  .next (if s.exportedRange pkg pa n then
    match wr with
    | some b => { s.hbmWrite pa b with peerReplies := s.peerReplies ++ [(pkg, some [])] }
    | none => { s with peerReplies := s.peerReplies ++ [(pkg, some (s.hbm.getN pa n))] }
  else { s with peerReplies := s.peerReplies ++ [(pkg, none)] })

end Sys2Proof.Machine
end

