-- ==== Sys2Proof/Machine/Manage.lean ====
section
/-! DEFINITION. The management complex: TIME and its references, power and temperature, HBM prediction, bring-up, updates and
attestation, errors that end contexts and partitions, and the HOST path (spec/20_attachment.md R376 to R387; spec/16_isolation.md
R310, R322, R323, R326, R327; spec/18_recovery.md R364, R367; spec/07_ordering.md R164). -/

namespace Sys2Proof.Machine

/-- A change of the management complex. -/
def State.updMgmt (s : State) (f : Mgmt → Mgmt) : State := { s with mgmt := f s.mgmt }

/-! ### READY and PREADY, R380 to R383 -/

/-- The dies that hold a cluster of a partition. -/
def Partition.dies (p : Partition) : List Nat := (p.clusters.map (fun c => c / 12 / 6 * 2 + c % 12 / 6)).eraseDups
/-- Whether every function that a partition needs is READY. -/
def Mgmt.partUsable (m : Mgmt) (p : Partition) : Bool :=
  m.ready.getLsbD 35 && m.ready.getLsbD 34 && (List.range 8).all (fun i => m.ready.getLsbD (25 + i)) &&
  p.dies.all (fun d => m.ready.getLsbD d && !m.dieOff.getLsbD d) && p.chans.all (fun c => m.ready.getLsbD (4 + c / 32))
/-- PREADY set for the partitions whose functions have become READY; records waiting for it are looked at. -/
def State.updReady (s : State) : State :=
  let m := s.mgmt
  let bits := (List.range (Nat.min 4 m.config.parts.length)).foldl (fun (b : BitVec 4) i =>
    if m.partUsable (nth m.config.parts i ⟨[], 0, 0, [], false, false⟩) && !m.rebring.getLsbD i then b ||| BitVec.ofNat 4 (2 ^ i) else b) m.pready
  if bits = m.pready then s else ((s.updMgmt (fun m => { m with pready := bits })).kickTakes).kick
/-- A READY bit set; below management none is, while bring-up has stopped. -/
def State.setReady (s : State) (i : Nat) : State :=
  if s.mgmt.bootDone then (s.updMgmt (fun m => { m with ready := m.ready ||| BitVec.ofNat 64 (2 ^ i) })).updReady else s
/-- A READY bit cleared. -/
def State.clearReady (s : State) (i : Nat) : State := s.updMgmt (fun m => { m with ready := m.ready &&& ~~~(BitVec.ofNat 64 (2 ^ i)) })

/-- ENGINE_READY. -/
def execEngineReady (n : Fin 8) (s : State) : Out := .next (s.setReady (25 + n.val))
/-- PCIE_LINK_UP. -/
def execPcieLinkUp (n : Fin 5) (s : State) : Out := .next (s.setReady (20 + n.val))
/-- SCALEOUT_LINK_UP. -/
def execScaleoutLinkUp (n : Fin 8) (s : State) : Out := .next (s.setReady (12 + n.val))
/-- LINK_DOWN: the port's bit is cleared; traffic goes over the other ports, R383. -/
def execLinkDown (scaleOut : Bool) (n : Fin 8) (s : State) : Out :=
  .next (if scaleOut then s.clearReady (12 + n.val) else if n.val < 5 then s.clearReady (20 + n.val) else s)

/-! ### The self-test and quarantine, R364, R380 -/

/-- The quarantine of a core ended: it takes its own position again, once the spare in that place is EMPTY. -/
def State.unquarantine (s : State) (ix : Nat) : State :=
  let own := (physDie ix / 2 * 24 + physRow ix, physDie ix % 2 * 24 + physCol ix)
  let back (s : State) : State :=
    { s with phys := alSet s.phys ix ⟨0, false, none, s.now + 1024⟩, mgmt := { s.mgmt with cleared := s.mgmt.cleared.filter (· != ix) } }
  let more (s : State) (d : Nat) : State :=
    s.updMgmt (fun m => { m with spares := if h : d < 4 then m.spares.set d (m.spares[d] + 1) else m.spares })
  if physCol ix = 24 then more (back s) (physDie ix) else
  match s.phys.find? (fun p => p.2.exposed == some own && !p.2.quarantined) with
  | none => back s
  | some p =>
    if (s.slotRec p.1).state != .empty then s else
    back (more { s with phys := alSet s.phys p.1 { p.2 with exposed := none } } (physDie p.1))

/-- Cores tested: one that fails is quarantined, a fenced one that passes returns to service. -/
def State.retest (s : State) (ixs : List Nat) : State :=
  ixs.foldl (fun s ix =>
    let s := s.tickFresh
    if (s.physOf ix).quarantined then (if s.mgmt.cleared.contains ix then s.unquarantine ix else s)
    else if Config.selfTest ix s.fresh then
      (if (s.slotRec ix).state == .fenced then (s.updSlot ix (fun _ => SlotRec.zero)).enterEmpty ix else s)
    else s.quarantine ix) s

/-- DIE_READY: the die's cores have been tested, its substitutions filled and its routing tables written. -/
def execDieReady (die : Fin 4) (s : State) : Out :=
  .next (if s.mgmt.bootDone then (s.retest ((List.range 600).map (· + 600 * die.val))).setReady die.val else s)

/-- The physical cores of a partition's clusters. -/
def Partition.cores (p : Partition) : List Nat :=
  (List.range 2400).filter (fun ix =>
    let row := physDie ix / 2 * 24 + physRow ix
    if physCol ix = 24 then p.dies.contains (physDie ix)
    else p.clusters.contains (clusterOf row (physDie ix % 2 * 24 + physCol ix)))
/-- PARTITION_REBRINGUP_COMPLETE: the partition's cores have been tested again, its routers reset and its tables written, R382; a die
that is still held in reset holds it up. -/
def execPartitionRebringupComplete (part : Nat) (s : State) : Out :=
  .next (
    let p := nth s.mgmt.config.parts part ⟨[], 0, 0, [], false, false⟩
    if !s.mgmt.rebring.getLsbD part || p.dies.any (fun d => s.mgmt.dieOff.getLsbD d) then s else
    let s := s.retest p.cores
    (s.updMgmt (fun m => { m with rebring := m.rebring &&& ~~~(BitVec.ofNat 4 (2 ^ part)) })).updReady)

/-! ### Errors that end contexts and partitions, R322, R323 -/

/-- A partition stopped: the launches of its contexts are killed, its cores scrubbed, and its PREADY bit cleared. -/
def State.stopPartition (s : State) (part : Nat) : State :=
  let ls := s.launches.filter (fun (l : Launch) => (s.ctx l.ctx).part == part && (match l.status with | .complete _ => false | _ => true))
  let s := ls.foldl (fun s l => s.killLaunch l.h) s
  let bit := BitVec.ofNat 4 (2 ^ part)
  s.updMgmt (fun m => { m with pready := m.pready &&& ~~~bit, rebring := m.rebring ||| bit })

/-- HEADER_UNCORRECTABLE_ERROR: it stops the whole partition, and is logged. -/
def execHeaderUncorrectableError (part : Nat) (s : State) : Out :=
  .next (if part < s.mgmt.config.parts.length ∧ part < 4 then (s.stopPartition part).log .header part 0 else s)

/-- A context reached by an uncorrectable error: its Umbra launches roll back, unless the error lies in an HBM line, and every other
one is killed, R322, R360. -/
def State.reachContext (s : State) (ctx : Nat) (hbm : Bool) : State :=
  (s.launches.filter (fun (l : Launch) => l.ctx == ctx)).foldl (fun s l => match l.status with
    | .complete _ => s
    | .started => if l.lrec.umbra && !hbm then s.rollback l.h else s.killLaunch l.h
    | .taken | .eligible => s.killLaunch l.h) s

/-- CONSUMED_UNCORRECTABLE_ERROR: the context that it reaches ends or rolls back; a line of HBM stays poisoned. -/
def execConsumedUncorrectableError (e : UncErr) (s : State) : Out :=
  .next (match e with
  | .scratchpad c => (match s.core? c with
    | some d => (s.log .uncorrectable 1 d.slot).reachContext d.ctx false
    | none => s)
  | .shadow c => (match s.core? c with
    | some d => (s.log .uncorrectable 3 d.slot).reachContext d.ctx false
    | none => s)
  | .payload ctx => (s.log .uncorrectable 2 ctx).reachContext ctx false
  | .hbm ctx pa =>
    let line := pa / 64
    let s := { s with poison := if s.poison.contains line then s.poison else s.poison ++ [line] }
    (s.log .uncorrectable 4 pa).reachContext ctx true)

/-! ### TIME, R376 to R378, R381 -/

/-- A number of ns as OFFSET holds it. -/
def satOffset (v : Int) : Int := if v < -2 ^ 31 then -2 ^ 31 else if v ≥ 2 ^ 31 then 2 ^ 31 - 1 else v
/-- TIME disciplined by a measured offset, TIME less the reference: stepped at the first lock while TIMEOK is clear, else slewed;
LOCK says that it is within the accuracy of its source. -/
def State.discipline (s : State) (off : Int) (src port acc : Nat) : State :=
  let first := !s.mgmt.ready.getLsbD 36
  let fine : Int := s.timeFine - off * 66000
  let s := if first then { s with timeFine := fine.toNat } else s
  let ok := first || decide (off.natAbs ≤ acc)
  let s := s.updMgmt (fun m => { m with
    toffset := satOffset off, tsrc := src, tport := port, freerun := false, lock := ok, slewing := if first then 0 else -off * 66000 })
  if ok then s.setReady 36 else s
/-- PTP_MESSAGE: taken unless the policy excludes PTP. -/
def execPtpMessage (off : Int) (port : Nat) (s : State) : Out :=
  .next (if s.mgmt.srcsel = 0 || s.mgmt.srcsel = 1 then s.discipline off 1 (port % 8) 25 else s)
/-- PTM_MESSAGE: taken when port E is an endpoint (R373, R376) and the policy asks for PTM, or allows it and no PTP reference is held. -/
def execPtmMessage (off : Int) (s : State) : Out :=
  .next (if s.mgmt.config.portERoot then s else if s.mgmt.srcsel = 2 || (s.mgmt.srcsel = 0 && s.mgmt.tsrc != 1) then s.discipline off 2 s.mgmt.tport 50 else s)
/-- The reference lost: TIME free-runs. -/
def State.loseReference (s : State) : State := s.updMgmt (fun m => { m with lock := false, freerun := true, tsrc := 3, slewing := 0 })
/-- TIME_REFERENCE_LOSS. -/
def execTimeReferenceLoss (s : State) : Out := .next s.loseReference
/-- TIMEOK_EXPIRY: ten seconds of free-run have passed since the timebase started. -/
def execTimeokExpiry (s : State) : Out := .next (s.setReady 36)
/-- A write of TIMECTL: the domain and the policy; a source that the policy excludes is lost. -/
def State.writeTimectl (s : State) (v : Word) : State :=
  let sel := v.extractLsb' 0 2
  let s := s.updMgmt (fun m => { m with tdomain := v.extractLsb' 8 8, srcsel := sel })
  if (s.mgmt.tsrc == 1 && (sel == 2 || sel == 3)) || (s.mgmt.tsrc == 2 && (sel == 1 || sel == 3)) then s.loseReference else s
/-- TIMECTL_WRITE. -/
def execTimectlWrite (v : Word) (s : State) : Out := .next (s.writeTimectl v)

/-! ### Power and temperature, R384, R385, R387 -/

/-- A cap in watts as PWRCTL holds it. -/
def capOf (n : Nat) : Nat := if n > 2800 then 2800 else if n < 1000 then 1000 else n
/-- A write of PWRCTL: CAP held between 1,000 and 2,800 W. -/
def State.writePwrctl (s : State) (v : Word) : State :=
  let n := v.toNat % 4096
  s.updMgmt (fun m => { m with cap := capOf n })
/-- PWRCTL_WRITE. -/
def execPwrctlWrite (v : Word) (s : State) : Out := .next (s.writePwrctl v)

/-- The cycles for which a die is to be withheld for CAP, at most half of a millisecond's. -/
def Mgmt.hold (m : Mgmt) (d n : Nat) : Mgmt :=
  if h : d < 4 then { m with withhold := m.withhold.set d (Nat.min n halfPeriod) } else m
/-- POWER_CONTROL_PERIOD: the average power of the last millisecond compared with CAP, and the cycles that the controller withholds for CAP in
the next. Above CAP it withholds some: those that are named, or a free number on every die (log entry 72). -/
def execPowerControlPeriod (watts : Nat) (withhold : List (Fin 4 × Nat)) (s : State) : Out :=
  let s := s.tickFresh
  let named := withhold.filter (fun p => decide (p.2 > 0))
  let all (d : Fin 4) : Fin 4 × Nat := (d, 1 + Config.capHold (4 * s.fresh + d.val) % halfPeriod)
  let held := if named.isEmpty && decide (watts > s.mgmt.cap) then [all 0, all 1, all 2, all 3] else named
  let bits := held.foldl (fun (b : BitVec 4) p => b ||| BitVec.ofNat 4 (2 ^ p.1.val)) 0
  .next (s.updMgmt (fun m => held.foldl (fun m p => m.hold p.1.val p.2)
    { m with power := watts % 2 ^ 16, withhold := Vector.replicate 4 0, capped := bits }))

/-- THERMAL_THROTTLE: from 105 °C on the die withholds cycles, until it has cooled (State.loses). -/
def execThermalThrottle (die : Fin 4) (s : State) : Out :=
  .next (s.updMgmt (fun m => { m with hot := m.hot ||| BitVec.ofNat 4 (2 ^ die.val) }))

/-- THERMAL_SHUTDOWN: at 115 °C the launches with cores on the die are killed, and the die is held in reset; its partitions must be
brought up again. -/
def execThermalShutdown (die : Fin 4) (s : State) : Out :=
  let d := die.val
  let hit := s.launches.filter (fun (l : Launch) => s.slots.any (fun p => p.2.lhandle == l.h && p.2.state != .empty && physDie p.1 == d))
  let s := (hit.foldl (fun s l => s.killLaunch l.h) s).log .thermal d 115
  let parts := (List.range (Nat.min 4 s.mgmt.config.parts.length)).filter (fun i =>
    (nth s.mgmt.config.parts i ⟨[], 0, 0, [], false, false⟩).dies.contains d)
  let bits := parts.foldl (fun (b : BitVec 4) i => b ||| BitVec.ofNat 4 (2 ^ i)) 0
  .next (s.updMgmt (fun m => { m with
    dieOff := m.dieOff ||| BitVec.ofNat 4 (2 ^ d), pready := m.pready &&& ~~~bits, rebring := m.rebring ||| bits })).unready

/-- DIE_COOLED: thermal withholding ends, and a die held in reset is released to the re-bring-up of its partitions. -/
def execDieCooled (die : Fin 4) (s : State) : Out :=
  let bit := BitVec.ofNat 4 (2 ^ die.val)
  .next (s.updMgmt (fun m => { m with hot := m.hot &&& ~~~bit, dieOff := m.dieOff &&& ~~~bit }))

/-- SENSOR_REFRESH, R379. -/
def execSensorRefresh (vals : List Nat) (s : State) : Out := .next (s.updMgmt (fun m => { m with sensors := vals.map (· % 65536) }))

/-! ### Memory fault prediction, R367 -/

/-- An hour in ns. -/
def hourNs : Nat := 3600 * 10 ^ 9
/-- A channel's table without the entries older than an hour. -/
def State.ageErrs (s : State) (ch : Nat) : State :=
  s.updMgmt (fun m => { m with hbmErrs := m.hbmErrs.filter (fun e => e.ch != ch || decide (s.timeNs ≤ e.time + hourNs)) })
/-- CORRECTED_ERROR_AGING. -/
def execCorrectedErrorAging (ch : Nat) (s : State) : Out := .next (s.ageErrs ch)

/-- How many different values a function gives on a list. -/
def distinct (f : HbmErr → Nat) (l : List HbmErr) : Nat := (l.map f).eraseDups.length
/-- The first class that applies to a new error of a channel's table. -/
def classOf (l : List HbmErr) (e : HbmErr) : Option Repair :=
  let bank := l.filter (fun x => x.bank == e.bank)
  let col := bank.filter (fun x => x.col == e.col)
  let row := bank.filter (fun x => x.row == e.row)
  if distinct HbmErr.row bank ≥ 4 ∧ distinct HbmErr.col bank ≥ 4 then some (.bankCopy e.ch e.bank)
  else if distinct HbmErr.row col ≥ 3 then some (.column e.ch e.bank e.col)
  else if distinct HbmErr.col row ≥ 3 then some (.rowSoft e.ch e.bank e.row)
  else if (row.filter (fun x => x.col == e.col)).length ≥ 2 then some (.cellSoft e.ch e.bank e.row e.col)
  else none

/-- The row of its bank that a repair of a row or a cell mends. -/
def Repair.rowOf : Repair → Option (Nat × Nat × Nat)
  | .rowSoft c b r | .cellSoft c b r _ | .row c b r | .cell c b r _ => some (c, b, r)
  | .bankCopy .. | .bank .. | .column .. => none
/-- Whether a repair has been made or is under way. -/
def Mgmt.repaired (m : Mgmt) (r : Repair) : Bool :=
  match r with
  | .bankCopy ch b => m.repairs.contains (.bankCopy ch b) || m.repairs.contains (.bank ch b)
  | _ => if r.rowOf.isSome then m.repairs.any (fun x => x.rowOf == r.rowOf) else m.repairs.contains r
/-- Whether the resource of a repair is left: one spare bank a channel, and a stack's spare columns and rows. -/
def Mgmt.canRepair (m : Mgmt) (r : Repair) : Bool :=
  match r with
  | .bankCopy ch _ | .bank ch _ => !m.repairs.any (fun x => match x with | .bankCopy c _ | .bank c _ => c == ch | _ => false)
  | .column ch _ _ =>
    decide ((m.repairs.filter (fun x => match x with | .column c _ _ => c / 32 == ch / 32 | _ => false)).length < Config.spareColumns (ch / 32))
  | .rowSoft ch _ _ | .cellSoft ch _ _ _ | .row ch _ _ | .cell ch _ _ _ =>
    decide ((m.repairs.filter (fun x => match x.rowOf with | some p => p.1 / 32 == ch / 32 | none => false)).length < Config.spareRows (ch / 32))
/-- The code of a class or a repair in the log. -/
def Repair.code : Repair → Nat
  | .bankCopy .. => 1
  | .bank .. => 2
  | .column .. => 3
  | .rowSoft .. => 4
  | .cellSoft .. => 5
  | .row .. => 6
  | .cell .. => 7

/-- The 4 KiB pages of a partition's range that hold a byte of a class, by the blocks of the channel that it covers, R367, R388. -/
def Partition.pagesOf (p : Partition) (ch : Nat) (blocks : List Nat) : List Nat :=
  match indexOf? (fun c => c == ch) p.chans with
  | none => []
  | some i => ((blocks.map (fun b => (p.base + 256 * (b * p.chans.length + i)) / 4096 * 4096)).filter (fun a => decide (a < p.limit))).eraseDups
/-- The pages that a class affects retired, each with a RETIRE record, R367; none is retired twice. -/
def State.retirePages (s : State) (r : Repair) (e : HbmErr) : State :=
  let blocks := Config.hbmBlocks r.code e.ch e.bank e.row e.col
  let pages := (s.mgmt.config.parts.flatMap (fun p => p.pagesOf e.ch blocks)).filter (fun a => !s.mgmt.retired.contains a)
  let s := s.updMgmt (fun m => { m with retire := m.retire || !pages.isEmpty, hbmex := true, retired := m.retired ++ pages })
  pages.foldl (fun s a => s.log .retire e.ch a) s

/-- HBM_CORRECTED_ERROR: the error joins its channel's table of 64; its class is logged and starts a repair, which is logged too; with the
resource used up, the affected pages are retired. -/
def execHbmCorrectedError (ch bank row col : Nat) (s : State) : Out :=
  let e : HbmErr := ⟨ch, bank, row, col, s.timeNs⟩
  let s := s.ageErrs ch
  let own := s.mgmt.hbmErrs.filter (fun x => x.ch == ch)
  let own := (if own.length ≥ 64 then own.tail else own) ++ [e]
  let s := s.updMgmt (fun m => { m with hbmErrs := m.hbmErrs.filter (fun x => x.ch != ch) ++ own })
  .next (match classOf own e with
  | none => s
  | some r =>
    let s := s.log .hbmClass ch r.code
    if s.mgmt.repaired r then s
    else if s.mgmt.canRepair r then (s.updMgmt (fun m => { m with repairs := m.repairs ++ [r] })).log .hbmRepair ch r.code
    else s.retirePages r e)
/-- A soft repair made hard. -/
def Repair.hard : Repair → Repair
  | .rowSoft c b r => .row c b r
  | .cellSoft c b r k => .cell c b r k
  | r => r
/-- HBM_STACK_READY: the stack has trained and run its repairs: the soft ones of before the reboot are made hard, and logged, R367, R380. -/
def execHbmStackReady (n : Fin 8) (s : State) : Out :=
  .next (if !s.mgmt.bootDone || s.mgmt.ready.getLsbD (4 + n.val) then s else
    let due := s.mgmt.repairs.filter (fun r => r.hard != r && (match r.rowOf with | some p => p.1 / 32 == n.val | none => false))
    let s := s.updMgmt (fun m => { m with repairs := m.repairs.map (fun r => if due.contains r then r.hard else r) })
    (due.foldl (fun s r => s.log .hbmRepair ((r.rowOf.map (·.1)).getD 0) r.hard.code) s).setReady (4 + n.val))
/-- HBM_BANK_COPY_COMPLETE: the channel switches over to its spare bank. -/
def execHbmBankCopyComplete (ch bank : Nat) (s : State) : Out :=
  .next (if s.mgmt.repairs.contains (.bankCopy ch bank) then
    (s.updMgmt (fun m => { m with repairs := m.repairs.map (fun r => if r == .bankCopy ch bank then .bank ch bank else r) })).log .hbmRepair ch 2
  else s)

/-! ### The signed configuration, R310, R388, and updates, R326, R364, R379 -/

/-- The clusters of a list beside one of those reached. -/
def spread (cs : List Nat) : Nat → List Nat → List Nat
  | 0, r => r
  | n + 1, r => spread cs n (r ++ cs.filter (fun c => !r.contains c &&
      r.any (fun d => manhattan (c / 12, c % 12) (d / 12, d % 12) == 1)))
/-- Whether routes within a partition's own clusters exist: they hang together, and the port of each of its channels is beside one of them,
R389. -/
def Partition.routed (p : Partition) : Bool := match p.clusters with
  | [] => false
  | c :: _ => p.clusters.all (fun d => (spread p.clusters p.clusters.length [c]).contains d) &&
      p.chans.all (fun ch => p.clusters.contains (clusterOf (portOf ch).1 (portOf ch).2))
/-- Whether R310 and R388 allow a configuration; a channel holds its part of the 512 GB, 2 GB (R1). -/
def SignedConfig.ok (g : SignedConfig) : Bool :=
  let cl := g.parts.flatMap (·.clusters)
  let ch := g.parts.flatMap (·.chans)
  decide (1 ≤ g.parts.length ∧ g.parts.length ≤ 4) && cl.all (fun c => decide (c < 144)) && cl.eraseDups.length == cl.length &&
  ch.all (fun c => decide (c < 256)) && ch.eraseDups.length == ch.length &&
  g.parts.all (fun p => p.base % 2 ^ 30 == 0 && p.limit % 2 ^ 30 == 0 && decide (p.base < p.limit) && decide (p.limit ≤ deviceBytes) &&
    decide (p.limit - p.base ≤ p.chans.length * (deviceBytes / 256)) && p.routed) &&
  decide (1 ≤ g.threshold ∧ g.threshold ≤ 15)

/-- Whether a message is signed under a key slot whose purpose mask has a bit. -/
def State.signedBy (s : State) (slot : Nat) (purpose : Nat) (msg sig : List Byte) : Bool :=
  let k := nth s.mgmt.keys.toList slot ⟨[], 0⟩
  k.mask.getLsbD purpose && Config.ed448Verify k.key (Config.shake256 msg) sig
/-- APPDIE_READY: the application die runs its boot image, which is verified under a key for firmware, R326, R380. -/
def execAppdieReady (s : State) : Out :=
  .next (if s.signedBy s.mgmt.appSig.1 0 s.mgmt.appImage s.mgmt.appSig.2 then s.setReady 33 else s)

/-- The bytes of an update; their layout is the model's (log entry 56). -/
def updateBytes : ConfigUpdate → List Byte
  | .keySlot slot key mask _ => wireOf [1, slot.val, mask.toNat] ++ key
  | .clearQuarantine phys _ _ => wireOf [2, phys]
  | .permitTest part on _ _ => wireOf [3, part.val, nbit on]
  | .threshold n _ _ => wireOf [4, n.val]
  | .partitions ps _ _ => wireOf (5 :: ps.flatMap (fun p => [p.2.1, p.2.2.1, nbit p.2.2.2.2.1, nbit p.2.2.2.2.2] ++ p.1 ++ p.2.2.2.1))
  | .portE root _ _ => wireOf [6, nbit root]
  | .power cap app _ _ => wireOf [7, cap, nbit app]
  | .exports package es _ _ => wireOf (8 :: package :: es.flatMap (fun e => [e.1, e.2.1, e.2.2]))
where
  /-- Numbers as 8 bytes each. -/
  wireOf (l : List Nat) : List Byte := l.flatMap (leBytes 8)

/-- A change of the configuration, verified under a key for configurations, that takes effect at the next reboot; the record keeps the
update's signature. -/
def State.stageConfig (s : State) (u : ConfigUpdate) (key : Nat) (sig : List Byte) (f : SignedConfig → SignedConfig) : State :=
  if !s.signedBy key 1 (updateBytes u) sig then s else
  (s.updMgmt (fun m =>
    let r := m.nextConfig.getD (m.config, m.configSigs)
    { m with nextConfig := some (f r.1, r.2 ++ [(key, updateBytes u, sig)]) })).log .configuration 0 0
/-- Whether the configuration record of the flash is signed, R326, R380: every part of it that an update has written verifies under its key;
what the package was made with has no other check (log entry 56). -/
def State.configSigned (s : State) : Bool := s.mgmt.configSigs.all (fun x => s.signedBy x.1 1 x.2.1 x.2.2)

/-- CONFIGURATION_UPDATE: a key slot changes under slot 0 alone, the rest under a key for configurations; they take effect at the
next reboot, but for a quarantine, which ends once the core has passed a test. -/
def execConfigurationUpdate (u : ConfigUpdate) (s : State) : Out :=
  .next (match u with
  | .keySlot slot key mask sig =>
    let k := nth s.mgmt.keys.toList 0 ⟨[], 0⟩
    if Config.ed448Verify k.key (Config.shake256 (updateBytes u)) sig then
      (s.updMgmt (fun m => { m with nextKeys := some ((m.nextKeys.getD m.keys).set slot.val ⟨key, mask⟩) })).log .configuration 1 slot.val
    else s
  | .clearQuarantine phys key sig =>
    let s := s.tickFresh
    if s.signedBy key.val 1 (updateBytes u) sig && (s.physOf phys).quarantined && Config.selfTest phys s.fresh then
      (((s.updMgmt (fun m => { m with cleared := m.cleared ++ [phys] })).log .configuration 2 phys)).unquarantine phys
    else s
  | .permitTest part on key sig => s.stageConfig u key.val sig (fun g => { g with
      parts := (List.range g.parts.length).map (fun i =>
        let p := nth g.parts i ⟨[], 0, 0, [], false, false⟩
        if i = part.val then { p with testOk := on } else p) })
  | .threshold n key sig => if n.val = 0 then s else s.stageConfig u key.val sig (fun g => { g with threshold := n.val })
  | .portE root key sig => s.stageConfig u key.val sig (fun g => { g with portERoot := root })
  | .power cap app key sig => s.stageConfig u key.val sig (fun g => { g with cap := cap, appPower := app })
  | .exports package es key sig => s.stageConfig u key.val sig (fun g => { g with package := package, exports := es })
  | .partitions ps key sig => s.stageConfig u key.val sig (fun g => { g with
      parts := ps.map (fun p => ⟨p.1, p.2.1, p.2.2.1, p.2.2.2.1, p.2.2.2.2.1, p.2.2.2.2.2⟩) }))

/-- FIRMWARE_UPDATE: a verified image goes to the slot that does not run, and takes effect at the next reboot, R379. -/
def execFirmwareUpdate (image sig : List Byte) (key : Fin 16) (s : State) : Out :=
  .next (if s.signedBy key.val 0 image sig then
    (s.updMgmt (fun m => { m with
      fwImages := if m.fwB then (image, m.fwImages.2) else (m.fwImages.1, image)
      fwPending := true })).log .firmware (nbit (!s.mgmt.fwB)) 0
  else s)

/-! ### Power-on and shutdown, R379, R380 -/

/-- The package without power but for what its flash holds; the cycle count goes on, so that inputs keep their order. -/
def State.powerCycle (s : State) : State :=
  let m := s.mgmt
  { State.reset with
    now := s.now, inputs := s.inputs, fresh := s.fresh, nextId := s.nextId
    phys := s.phys.map (fun p => (p.1, { p.2 with exposed := none }))
    slots := (s.slots.filter (fun p => p.2.state == .fenced)).map (fun p => (p.1, { SlotRec.zero with state := .fenced }))
    mgmt := { Mgmt.reset with
      log := m.log, overwritten := m.overwritten, seals := m.seals, fwB := m.fwB, fwImages := m.fwImages
      fwPending := m.fwPending, fwTries := m.fwTries, keys := m.keys, config := m.config, configSigs := m.configSigs, cert := m.cert, nextConfig := m.nextConfig, nextKeys := m.nextKeys
      cleared := m.cleared, appImage := m.appImage, appSig := m.appSig, repairs := m.repairs, retired := m.retired, retire := m.retire, hbmex := m.hbmex, spareex := m.spareex
      spdm := m.spdm } }

/-- A quarantined core's place filled by a spare again at bring-up, R7, R380. -/
def State.refill (s : State) (ix : Nat) : State :=
  if physCol ix = 24 then s else
  match s.spareFor ix with
  | none => s
  | some j =>
    let d := physDie ix
    let s := { s with phys := alSet s.phys j { s.physOf j with exposed := some (d / 2 * 24 + physRow ix, d % 2 * 24 + physCol ix) } }
    s.updMgmt (fun m => { m with spares := if h : d < 4 then m.spares.set d (m.spares[d] - 1) else m.spares })

/-- The rest of bring-up once management is READY: the updates that waited take effect, the cores are scrubbed (R321), and the configuration is verified; one that is not
signed, or that R310 rejects, stops it there. -/
def State.bringUp (s : State) : State :=
  let s := s.updMgmt (fun m =>
    let r := m.nextConfig.getD (m.config, m.configSigs)
    { m with
      fwTries := none, config := r.1, configSigs := r.2, nextConfig := none, keys := m.nextKeys.getD m.keys, nextKeys := none
      ready := BitVec.ofNat 64 (2 ^ 35), cap := capOf r.1.cap, portChans := r.1.parts.map (·.chans) })
  let spareLost (d : Nat) : Nat := (s.phys.filter (fun p => p.2.quarantined && physDie p.1 == d && physCol p.1 == 24)).length
  let s := s.updMgmt (fun m => { m with spares := Vector.ofFn (fun (d : Fin 4) => 24 - spareLost d.val) })
  if s.configSigned && s.mgmt.config.ok then
    let s := s.mgmt.cleared.foldl (fun s ix => s.unquarantine ix) s
    let s := (s.phys.filter (fun p => p.2.quarantined)).foldl (fun s p => s.refill p.1) s
    let s := (s.updMgmt (fun m => { m with bootDone := true })).setReady 34
    (s.schedTime (s.timeFine + fineOf (10 * 10 ^ 9)) .timeokExpiry).updMgmt (fun m => { m with
      freerun := true, tsrc := 3, dieScrub := Vector.replicate 4 (s.now + 1024) })
  else s
/-- The firmware image of the slot that runs. -/
def Mgmt.running (m : Mgmt) : List Byte := if m.fwB then m.fwImages.2 else m.fwImages.1
/-- POWER_ON: management boots from its firmware slot, and bring-up follows. A new slot that fails to reach management READY is tried again at
the next power-on; after the third failure in a row the other slot boots, R379. -/
def execPowerOn (s : State) : Out :=
  let s := s.powerCycle.tickFresh
  let s := s.updMgmt (fun m => if m.fwPending then { m with fwB := !m.fwB, fwPending := false, fwTries := some 0 } else m)
  .next (match s.mgmt.fwTries with
  | none => s.bringUp
  | some n =>
    if Config.fwBoots s.mgmt.running s.fresh then s.bringUp
    else if n < 2 then s.updMgmt (fun m => { m with fwTries := some (n + 1) })
    else (s.updMgmt (fun m => { m with fwB := !m.fwB })).bringUp)

/-- SHUTDOWN: management seals the open block of the log, and the package stops. -/
def execShutdown (s : State) : Out :=
  .next ((s.updMgmt (fun m => if m.log.length % 64 = 0 then m else
    { m with seals := m.seals.take (m.log.length / 64) ++ [sealLast m.log] })).powerCycle)

/-! ### SPDM, R327

The messages that a CHALLENGE signs are gathered as SPDM 1.3 names them: A holds the exchange of versions, capabilities and algorithms, B that
of digests and certificates, each request by its code and operands and each response by what it carries (log entry 57). -/

/-- A request by its SPDM code and operands. -/
def spdmRequest (code : Nat) (ops : List Nat) : List Byte := leBytes 1 code ++ ops.flatMap (leBytes 8)
/-- A response as it is gathered. -/
def Spdm.bytes : Spdm → List Byte
  | .version => leBytes 1 0x04
  | .capabilities => leBytes 1 0x61
  | .algorithms a h => leBytes 1 0x63 ++ leBytes 4 a.toNat ++ leBytes 4 h.toNat
  | .digests d => leBytes 1 0x01 ++ d.flatten
  | .certificate b => leBytes 1 0x02 ++ b
  | .challengeAuth _ => leBytes 1 0x03
  | .measurements ms => leBytes 1 0x60 ++ ms.flatMap (fun m => leBytes 1 m.1 ++ m.2)
  | .error => leBytes 1 0x7F
/-- An SPDM response. -/
def State.answer (s : State) (r : Spdm) : State := s.updMgmt (fun m => { m with spdm := m.spdm ++ [r] })
/-- A response of the exchange A. -/
def State.answerA (s : State) (q : List Byte) (r : Spdm) : State := (s.updMgmt (fun m => { m with spdmA := m.spdmA ++ q ++ r.bytes })).answer r
/-- A response of the exchange B. -/
def State.answerB (s : State) (q : List Byte) (r : Spdm) : State := (s.updMgmt (fun m => { m with spdmB := m.spdmB ++ q ++ r.bytes })).answer r
/-- GET_VERSION: a new exchange begins. -/
def execGetVersion (s : State) : Out :=
  .next ((s.updMgmt (fun m => { m with spdmA := [], spdmB := [] })).answerA (spdmRequest 0x84 []) .version)
/-- GET_CAPABILITIES. -/
def execGetCapabilities (s : State) : Out := .next (s.answerA (spdmRequest 0xE1 []) .capabilities)
/-- NEGOTIATE_ALGORITHMS: EdDSA Ed448 and SHA3-512, with the bits that SPDM 1.3 gives them, 11 of BaseAsymAlgo and 5 of BaseHashAlgo (log
entry 57). -/
def execNegotiateAlgorithms (asym hash : BitVec 32) (s : State) : Out :=
  .next (s.answerA (spdmRequest 0xE3 [asym.toNat, hash.toNat])
    (if asym.getLsbD 11 && hash.getLsbD 5 then .algorithms 0x800 0x20 else .error))
/-- GET_DIGESTS: the identity chain in slot 0. -/
def execGetDigests (s : State) : Out :=
  .next (s.answerB (spdmRequest 0x81 []) (.digests [leBytes 64 (Config.sha3 s.mgmt.cert).toNat]))
/-- GET_CERTIFICATE: a part of the identity chain; the other slots hold none. -/
def execGetCertificate (slot : Nat) (off len : Nat) (s : State) : Out :=
  .next (s.answerB (spdmRequest 0x82 [slot, off, len]) (if slot = 0 then .certificate ((s.mgmt.cert.drop off).take len) else .error))
/-- CHALLENGE: the hash of the messages exchanged, this one among them, signed with the identity key. -/
def execChallenge (slot : Nat) (nonce : List Byte) (s : State) : Out :=
  let q := spdmRequest 0x83 [slot] ++ nonce
  let h := leBytes 64 (Config.sha3 (s.mgmt.spdmA ++ s.mgmt.spdmB ++ q ++ (Spdm.challengeAuth []).bytes)).toNat
  .next ((s.updMgmt (fun m => { m with spdmB := [] })).answer
    (if slot = 0 then .challengeAuth (leBytes 114 (Config.ed448Sign h).toNat) else .error))

/-- The bytes of a configuration record; their layout is the model's (log entry 56). -/
def SignedConfig.bytes (g : SignedConfig) : List Byte :=
  ([g.threshold, g.package, nbit g.portERoot, nbit g.appPower, g.cap] ++ g.exports.flatMap (fun e => [e.1, e.2.1, e.2.2]) ++
    g.parts.flatMap (fun p => [p.base, p.limit, nbit p.unsignedOk, nbit p.testOk] ++ p.clusters ++ p.chans)).flatMap (leBytes 8)
/-- What a measurement covers. -/
def Mgmt.measured (m : Mgmt) (ix : Nat) : List Byte :=
  match ix with
  | 1 => Config.fwPart 1 m.running
  | 2 => Config.fwPart 2 m.running
  | 3 => m.config.bytes
  | 4 => m.appImage
  | 5 => m.keys.toList.flatMap (fun k => k.key ++ leBytes 1 k.mask.toNat)
  | _ => leBytes 1 (nbit (m.config.parts.any (·.testOk)) + 2 * nbit (m.config.parts.any (·.unsignedOk)))
/-- A measurement: a SHAKE256 digest of 512 bits. -/
def Mgmt.measure (m : Mgmt) (ix : Nat) : Nat × List Byte := (ix, leBytes 64 (Config.shake256 (m.measured ix)).toNat)
/-- GET_MEASUREMENTS: one measurement, or all of them for 0xFF. -/
def execGetMeasurements (ix : Nat) (s : State) : Out :=
  .next (s.answer (if ix = 255 then .measurements ((List.range 6).map (fun i => s.mgmt.measure (i + 1)))
    else if 1 ≤ ix ∧ ix ≤ 6 then .measurements [s.mgmt.measure ix] else .error))

/-! ### The HOST path, R164 -/

/-- HOST_PATH_ACCESS: a load or store of physical device memory, performed where the machine stands; it is single-threaded, so every
fence that the host makes is met. -/
def execHostPathAccess (h : HostAccess) (s : State) : Out :=
  let n := match h.wr with | some b => b.length | none => h.len
  if h.pa + n > deviceBytes then .fault .outsideMemory else
  .next (match h.wr with
  | some b => s.hbmWrite h.pa b
  | none => { s with hostReads := s.hostReads ++ [(h.id, s.hbm.getN h.pa n)] })

end Sys2Proof.Machine
end

