-- ==== Sys2Proof/Machine/Mirror.lean ====
section
/-! DEFINITION. Mirror pairs: comparison, triage and resynchronisation (spec/18_recovery.md R361 to R365). -/

namespace Sys2Proof.Machine

/-- The twins of a logical core of a mirror launch. -/
def State.twins (s : State) (lh lc : Nat) : Option (Core × Core) :=
  match s.core? ⟨lh, lc, false⟩, s.core? ⟨lh, lc, true⟩ with
  | some a, some b => some (a, b)
  | _, _ => none

/-- What comes next for the oldest items of a pair, R362, R363: they are compared 12 cycles after both are offered, and a
BOSET is performed in a cycle in which its bank is free (R15); a second
item that does not come within 4,096 cycles starts triage, as a difference does. -/
def State.mirrorNext (s : State) (c : Core) : Option Instr :=
  if c.id.twin then none else
  match s.other c with
  | none => none
  | some o =>
    if [c, o].any (fun c => c.run == .trapped || c.run == .rolling) then none else
    match c.mirror, o.mirror with
    | x :: _, y :: _ =>
      let busy := match x.item.item with | .cmd _ _ (.boset a (some _)) => s.bankTaken c.id a | _ => false
      if x.hash != y.hash then some (.mirrorHashMismatch c.id.lh c.id.lc)
      else if !busy && decide (Nat.max x.at_ y.at_ + 12 ≤ s.now) then some (.mirrorItemCompare c.id.lh c.id.lc)
      else none
    | x :: _, [] => if x.at_ + 4096 ≤ s.now then some (.mirrorHashTimeout c.id.lh c.id.lc) else none
    | [], y :: _ => if y.at_ + 4096 ≤ s.now then some (.mirrorHashTimeout c.id.lh c.id.lc) else none
    | [], [] => none

/-- The oldest item of both twins taken, and performed once. In an Umbra launch a BOSET that is the first to write its 256-byte line in an epoch
is held for 4 cycles, R358. -/
def State.forwardItem (s : State) (lh lc : Nat) : State :=
  match s.twins lh lc with
  | none => s
  | some (a, b) =>
    match a.mirror, b.mirror with
    | x :: t, y :: u =>
      let first := match x.item.item with
        | .cmd _ _ (.boset o (some _)) => s.undoHold lh (fun d => d.id.lh == lh && d.id.lc == lc) [o]
        | _ => none
      match first with
      | some s => s.mapCores (fun d => d.id.lh == lh && d.id.lc == lc) (fun d => match d.mirror with
        | m :: r => { d with mirror := { m with at_ := s.now - 8 } :: r }
        | [] => d)
      | none =>
      let s := (s.updCore a.id (fun c => { c with mirror := t })).updCore b.id (fun c => { c with mirror := u })
      (s.performItem a.id { x.item with
        at_ := Nat.max x.item.at_ y.item.at_ + 12
        base := Nat.max x.item.base y.item.base + 12
        time := Nat.max x.item.time y.item.time + 240000 }).snapAgain a.id
    | _, _ => s

/-- MIRROR_ITEM_COMPARE: both hashes match, and the primary's router forwards the item. -/
def execMirrorItemCompare (lh lc : Nat) (s : State) : Out := .next (s.forwardItem lh lc)

/-- A triage that cannot be decided: an Umbra launch rolls back, and any other launch's context is killed, R363, R365 (log entry
49). -/
def State.undecided (s : State) (lh ctx : Nat) : State := if s.umbra lh then s.rollback lh else s.killContext ctx

/-- A checkpoint's registers with those that it does not hold, the dead ones, at 0, R347. -/
def Arch.held (a : Arch) : Arch :=
  { a with
    x := Vector.ofFn (fun i => if a.livex.getLsbD i.val then a.x[i] else 0)
    v := Vector.ofFn (fun i => if a.livev.getLsbD i.val then a.v[i] else 0) }
/-- Whether the checkpoints of twins are the same, the ring pointers among them, R347. -/
def Core.sameCheckpoint (a b : Core) : Bool :=
  a.ckpt.held == b.ckpt.held && a.regpc == b.regpc && a.erings.map Ring.headAddr == b.erings.map Ring.headAddr &&
  a.erings.map Ring.tailAddr == b.erings.map Ring.tailAddr
/-- Triage begun: both twins stop and discard their regions. With different checkpoints, without a free spare on the primary's
die, or when a twin has no region to run again (it has halted or is being vacated; log entry 49), it is undecided; else the spare
re-executes, whose result comes with TRIAGE_DECISION. A pair that is stopped already has its triage under way. -/
def State.triage (s : State) (lh lc : Nat) : State :=
  match s.twins lh lc with
  | none => s
  | some (a, b) =>
    if [a, b].any (fun c => c.run == .trapped || c.run == .rolling) then s else
    if !(a.resident && b.resident) then s.undecided lh a.ctx else
    let s := s.mapCores (fun c => c.id.lh == lh && c.id.lc == lc) (fun c => { c.discard with run := .trapped, pc := c.regpc, forwards := [] })
    if !a.sameCheckpoint b then s.undecided lh a.ctx
    else if (s.spareFor a.slot).isNone then ((s.blame a.slot).blame b.slot).undecided lh a.ctx
    else s

/-- MIRROR_HASH_MISMATCH. -/
def execMirrorHashMismatch (lh lc : Nat) (s : State) : Out := .next (s.triage lh lc)
/-- MIRROR_HASH_TIMEOUT. -/
def execMirrorHashTimeout (lh lc : Nat) (s : State) : Out := .next (s.triage lh lc)

/-- The entries of the TID table and of the itineraries that a command writes. -/
def Cmd.tableIxs : Cmd → List Nat × List Nat
  | .tidDef i _ | .tidInv i => ([i], [])
  | .tidSwap i j => ([i, j], [])
  | .shfItin i _ | .shfHold i _ => ([], [i])
  | _ => ([], [])
/-- The entries that the work still to be compared of some cores has written. -/
def pendingIxs (cs : List Core) : List Nat × List Nat :=
  let l := (cs.flatMap (fun c => bufCmds (c.committed.map (·.item)))).map Cmd.tableIxs
  (l.flatMap (·.1), l.flatMap (·.2))
/-- Entries of a table taken from another. -/
def takeEntries {α : Type} (l : List Nat) (src dst : List (Nat × α)) : List (Nat × α) :=
  l.foldl (fun t i => match alGet src i with | some v => alSet t i v | none => t.filter (fun e => e.1 != i)) dst
/-- The blamed twin put back: the winner's registers, scratchpad and engine state copied into it, with the winner's items, what they have
written in the tables, and its scan aggregates (R365); a twin that the blame quarantines continues on the spare that takes its place, R364. The twin with the lower slot
index is the primary, R361. -/
def State.resync (s : State) (winner loser : Core) : State :=
  let s := s.blame loser.slot
  let seat : Option Nat := if (s.physOf loser.slot).quarantined then s.physAt (loser.row, loser.col) else some loser.slot
  match seat with
  | none => s.undecided winner.id.lh winner.ctx
  | some ix =>
    let old := s.slotRec loser.slot
    let s := if ix = loser.slot then s else
      (s.updSlot loser.slot (fun r => { r with state := .fenced })).updSlot ix (fun _ => old)
    let ixs := pendingIxs [winner, loser]
    let s := s.updLaunch winner.id.lh (fun l =>
      if winner.id.twin then { l with tids := takeEntries ixs.1 l.tidsB l.tids, itins := takeEntries ixs.2 l.itinsB l.itins }
      else { l with tidsB := takeEntries ixs.1 l.tids l.tidsB, itinsB := takeEntries ixs.2 l.itins l.itinsB })
    let twin := decide (ix < winner.slot)
    let s := s.mapCores (fun c => c.id == winner.id || c.id == loser.id) (fun c =>
      if c.id == winner.id then { c with id := { c.id with twin := twin } }
      else { winner with id := { c.id with twin := !twin }, slot := ix, row := c.row, col := c.col, binds := c.binds })
    (s.foldWinner winner.id winner.id.twin).sched (s.now + 16384) false (.mirrorResyncComplete winner.id.lh winner.id.lc)

/-- TRIAGE_DECISION: the spare's result, R363. -/
def execTriageDecision (lh lc : Nat) (t : Triage) (s : State) : Out :=
  .next (match s.twins lh lc, s.launch? lh with
  | some (a, b), some l =>
    if a.run != .trapped || b.run != .trapped || l.doomed.isSome then s else
    match t with
    | .blameSecondary => s.resync a b
    | .blamePrimary => s.resync b a
    | .neither | .diverged | .noSpare => ((s.blame a.slot).blame b.slot).undecided lh a.ctx
  | _, _ => s)

/-- What waited for a triage goes on: the copy command that could not start, and the gleaning of tours, R362. -/
def State.readsAgain (s : State) (lh lc : Nat) : State :=
  let id : CoreId := ⟨lh, lc, false⟩
  let waits := ((s.core? id).bind (fun c => c.copies.head?)).any (fun x => !x.started && x.stalled.isNone)
  let s := if waits then s.nextCopy id else s
  (s.tours.filter (fun t => t.core.lh == lh && t.gleaning && t.deferred && !t.parked)).foldl (fun s t => s.gleanAll t.id) s
/-- MIRROR_RESYNC_COMPLETE: both twins resume at the winner's REGPC; this re-entry does not count (R354). -/
def execMirrorResyncComplete (lh lc : Nat) (s : State) : Out :=
  .next (match s.twins lh lc with
  | none => s
  | some (a, b) =>
    if a.run != .trapped || b.run != .trapped then s else
    ((s.mapCores (fun c => c.id.lh == lh && c.id.lc == lc) (fun c => c.restart s.now)).traceReentry a.id).readsAgain lh lc)

end Sys2Proof.Machine
end

