-- ==== Sys2Proof/Machine/Scalar.lean ====
section
/-! DEFINITION. The scalar integer instructions: OP, OPI, OPW, OPIW, LUI, AUIPC, MULDIV and BIT
(spec/05_isa_integer_lane.md R103 to R108), and the compact C.ADDI, C.MV and C.LI (spec/02_encoding.md R41). -/

namespace Sys2Proof.Machine

/-! ### Arithmetic of words -/

/-- The low six bits of a word as a shift amount, R103. -/
def shamt (b : Word) : Nat := (b.extractLsb' 0 6).toNat
/-- The low five bits, R105. -/
def shamtW (b : Word) : Nat := (b.extractLsb' 0 5).toNat
/-- An integer held to the signed 64-bit range. -/
def clamp64 (v : Int) : Word :=
  if v > 0x7FFFFFFFFFFFFFFF then 0x7FFFFFFFFFFFFFFF else if v < -0x8000000000000000 then 0x8000000000000000
  else BitVec.ofInt 64 v
/-- The smaller, signed. -/
def minS (a b : Word) : Word := if b.slt a then b else a
/-- The larger, signed. -/
def maxS (a b : Word) : Word := if a.slt b then b else a
/-- The smaller, unsigned. -/
def minU (a b : Word) : Word := if b.ult a then b else a
/-- The larger, unsigned. -/
def maxU (a b : Word) : Word := if a.ult b then b else a
/-- The low 32 bits. -/
def lo32 (a : Word) : BitVec 32 := a.extractLsb' 0 32

/-- The high half of a product of integers. -/
def mulHigh (a b : Int) : Word := BitVec.ofInt 64 (a * b / 2 ^ 64)
/-- DIV, R107: truncation toward zero; all ones for a zero divisor; −2^63 for −2^63 by −1. -/
def divS (a b : Word) : Word := if b = 0 then BitVec.allOnes 64 else BitVec.ofInt 64 (Int.tdiv a.toInt b.toInt)
/-- DIVU. -/
def divU (a b : Word) : Word := if b = 0 then BitVec.allOnes 64 else a / b
/-- REM: the remainder takes A's sign. -/
def remS (a b : Word) : Word := if b = 0 then a else BitVec.ofInt 64 (Int.tmod a.toInt b.toInt)
/-- REMU. -/
def remU (a b : Word) : Word := if b = 0 then a else a % b

/-- The number of leading zero bits. -/
def clz64 (a : Word) : Nat := 64 - bitLen a.toNat
/-- The number of trailing zero bits. -/
def ctz64 (a : Word) : Nat := ((List.range 64).find? (fun i => a.getLsbD i)).getD 64
/-- The number of one bits. -/
def popc64 (a : Word) : Nat := ((List.range 64).filter (fun i => a.getLsbD i)).length
/-- The bytes in reverse order. -/
def rev8 (a : Word) : Word := wd (leNat (leBytes 8 a.toNat).reverse)
/-- The bits in reverse order. -/
def brev64 (a : Word) : Word := a.reverse

/-- The position of a field, R108. -/
def fieldPos (b : Word) : Nat := bitsOf b.toNat 5 0
/-- The length of a field, cut at bit 63. -/
def fieldLen (b : Word) : Nat := if fieldPos b + bitsOf b.toNat 14 8 > 64 then 64 - fieldPos b else bitsOf b.toNat 14 8
/-- EXTU. -/
def extU (a b : Word) : Word := wd (a.toNat / 2 ^ fieldPos b % 2 ^ fieldLen b)
/-- EXTS. -/
def extS (a b : Word) : Word :=
  let n := fieldLen b
  let f := a.toNat / 2 ^ fieldPos b % 2 ^ n
  if n ≠ 0 && bitOf f (n - 1) then wd f - wd (2 ^ n) else wd f
/-- INS: the field of d replaced. -/
def insBits (d a b : Word) : Word :=
  let mask : Word := wd (2 ^ fieldLen b - 1) <<< fieldPos b
  (d &&& ~~~mask) ||| ((a <<< fieldPos b) &&& mask)

/-! ### OP, R103 -/

/-- ADD. -/
def execAdd (r : R3) (s : State) : Out := s.runCore (s.core.opAB s.now 1 r (· + ·))
/-- SUB. -/
def execSub (r : R3) (s : State) : Out := s.runCore (s.core.opAB s.now 1 r (· - ·))
/-- AND. -/
def execAnd (r : R3) (s : State) : Out := s.runCore (s.core.opAB s.now 1 r (· &&& ·))
/-- OR. -/
def execOr (r : R3) (s : State) : Out := s.runCore (s.core.opAB s.now 1 r (· ||| ·))
/-- XOR. -/
def execXor (r : R3) (s : State) : Out := s.runCore (s.core.opAB s.now 1 r (· ^^^ ·))
/-- ANDN. -/
def execAndn (r : R3) (s : State) : Out := s.runCore (s.core.opAB s.now 1 r (fun a b => a &&& ~~~b))
/-- ORN. -/
def execOrn (r : R3) (s : State) : Out := s.runCore (s.core.opAB s.now 1 r (fun a b => a ||| ~~~b))
/-- SLL. -/
def execSll (r : R3) (s : State) : Out := s.runCore (s.core.opAB s.now 1 r (fun a b => a <<< shamt b))
/-- SRL. -/
def execSrl (r : R3) (s : State) : Out := s.runCore (s.core.opAB s.now 1 r (fun a b => a >>> shamt b))
/-- SRA. -/
def execSra (r : R3) (s : State) : Out := s.runCore (s.core.opAB s.now 1 r (fun a b => a.sshiftRight (shamt b)))
/-- SLT. -/
def execSlt (r : R3) (s : State) : Out := s.runCore (s.core.opAB s.now 1 r (fun a b => wbit (a.slt b)))
/-- SLTU. -/
def execSltu (r : R3) (s : State) : Out := s.runCore (s.core.opAB s.now 1 r (fun a b => wbit (a.ult b)))
/-- MIN. -/
def execMin (r : R3) (s : State) : Out := s.runCore (s.core.opAB s.now 1 r minS)
/-- MAX. -/
def execMax (r : R3) (s : State) : Out := s.runCore (s.core.opAB s.now 1 r maxS)
/-- MINU. -/
def execMinu (r : R3) (s : State) : Out := s.runCore (s.core.opAB s.now 1 r minU)
/-- MAXU. -/
def execMaxu (r : R3) (s : State) : Out := s.runCore (s.core.opAB s.now 1 r maxU)
/-- ADDSAT. -/
def execAddsat (r : R3) (s : State) : Out := s.runCore (s.core.opAB s.now 1 r (fun a b => clamp64 (a.toInt + b.toInt)))
/-- SUBSAT. -/
def execSubsat (r : R3) (s : State) : Out := s.runCore (s.core.opAB s.now 1 r (fun a b => clamp64 (a.toInt - b.toInt)))
/-- SELNZ. -/
def execSelnz (r : R3) (s : State) : Out := s.runCore (s.core.opAB s.now 1 r (fun a b => if b != 0 then a else 0))

/-! ### OPI, R104 -/

/-- ADDI. -/
def execAddi (r : IOp) (s : State) : Out := s.runCore (s.core.opA s.now 1 (iSrc r) (· + immI r))
/-- ANDI. -/
def execAndi (r : IOp) (s : State) : Out := s.runCore (s.core.opA s.now 1 (iSrc r) (· &&& immI r))
/-- ORI. -/
def execOri (r : IOp) (s : State) : Out := s.runCore (s.core.opA s.now 1 (iSrc r) (· ||| immI r))
/-- XORI. -/
def execXori (r : IOp) (s : State) : Out := s.runCore (s.core.opA s.now 1 (iSrc r) (· ^^^ immI r))
/-- SLTI. -/
def execSlti (r : IOp) (s : State) : Out := s.runCore (s.core.opA s.now 1 (iSrc r) (fun a => wbit (a.slt (immI r))))
/-- SLTIU. -/
def execSltiu (r : IOp) (s : State) : Out := s.runCore (s.core.opA s.now 1 (iSrc r) (fun a => wbit (a.ult (immI r))))
/-- SLLI. -/
def execSlli (r : ShOp) (s : State) : Out := s.runCore (s.core.opA s.now 1 (shSrc r) (· <<< r.sh.toNat))
/-- SRLI. -/
def execSrli (r : ShOp) (s : State) : Out := s.runCore (s.core.opA s.now 1 (shSrc r) (· >>> r.sh.toNat))
/-- SRAI. -/
def execSrai (r : ShOp) (s : State) : Out := s.runCore (s.core.opA s.now 1 (shSrc r) (·.sshiftRight r.sh.toNat))

/-! ### OPW and OPIW, R105 -/

/-- ADDW. -/
def execAddw (r : R3) (s : State) : Out := s.runCore (s.core.opAB s.now 1 r (fun a b => sx (lo32 a + lo32 b)))
/-- SUBW. -/
def execSubw (r : R3) (s : State) : Out := s.runCore (s.core.opAB s.now 1 r (fun a b => sx (lo32 a - lo32 b)))
/-- SLLW. -/
def execSllw (r : R3) (s : State) : Out := s.runCore (s.core.opAB s.now 1 r (fun a b => sx (lo32 a <<< shamtW b)))
/-- SRLW. -/
def execSrlw (r : R3) (s : State) : Out := s.runCore (s.core.opAB s.now 1 r (fun a b => sx (lo32 a >>> shamtW b)))
/-- SRAW. -/
def execSraw (r : R3) (s : State) : Out :=
  s.runCore (s.core.opAB s.now 1 r (fun a b => sx ((lo32 a).sshiftRight (shamtW b))))
/-- MULW. -/
def execMulw (r : R3) (s : State) : Out := s.runCore (s.core.opAB s.now 3 r (fun a b => sx (lo32 a * lo32 b)))
/-- ADDIW. -/
def execAddiw (r : IOp) (s : State) : Out := s.runCore (s.core.opA s.now 1 (iSrc r) (fun a => sx (lo32 a + lo32 (immI r))))
/-- SLLIW. -/
def execSlliw (r : ShwOp) (s : State) : Out := s.runCore (s.core.opA s.now 1 (shwSrc r) (fun a => sx (lo32 a <<< r.sh.toNat)))
/-- SRLIW. -/
def execSrliw (r : ShwOp) (s : State) : Out := s.runCore (s.core.opA s.now 1 (shwSrc r) (fun a => sx (lo32 a >>> r.sh.toNat)))
/-- SRAIW. -/
def execSraiw (r : ShwOp) (s : State) : Out :=
  s.runCore (s.core.opA s.now 1 (shwSrc r) (fun a => sx ((lo32 a).sshiftRight r.sh.toNat)))

/-! ### LUI and AUIPC, R106 -/

/-- LUI. -/
def execLui (r : UOp) (s : State) : Out := s.runCore (s.core.opD s.now 1 wordSize r.d (immU r.imm))
/-- AUIPC. -/
def execAuipc (r : UOp) (s : State) : Out := s.runCore (s.core.opD s.now 1 wordSize r.d (s.core.pc + immU r.imm))

/-! ### MULDIV, R107 -/

/-- MUL. -/
def execMul (r : R3) (s : State) : Out := s.runCore (s.core.opAB s.now 3 r (· * ·))
/-- MULH. -/
def execMulh (r : R3) (s : State) : Out := s.runCore (s.core.opAB s.now 3 r (fun a b => mulHigh a.toInt b.toInt))
/-- MULHU. -/
def execMulhu (r : R3) (s : State) : Out := s.runCore (s.core.opAB s.now 3 r (fun a b => mulHigh a.toNat b.toNat))
/-- MULHSU. -/
def execMulhsu (r : R3) (s : State) : Out := s.runCore (s.core.opAB s.now 3 r (fun a b => mulHigh a.toInt b.toNat))
/-- DIV. -/
def execDiv (r : R3) (s : State) : Out := s.runCore (s.core.opAB s.now 20 r divS)
/-- DIVU. -/
def execDivu (r : R3) (s : State) : Out := s.runCore (s.core.opAB s.now 20 r divU)
/-- REM. -/
def execRem (r : R3) (s : State) : Out := s.runCore (s.core.opAB s.now 20 r remS)
/-- REMU. -/
def execRemu (r : R3) (s : State) : Out := s.runCore (s.core.opAB s.now 20 r remU)

/-! ### BIT, R108 -/

/-- CLZ. -/
def execClz (r : R2) (s : State) : Out := s.runCore (s.core.opA s.now 1 r (fun a => wd (clz64 a)))
/-- CTZ. -/
def execCtz (r : R2) (s : State) : Out := s.runCore (s.core.opA s.now 1 r (fun a => wd (ctz64 a)))
/-- POPC. -/
def execPopc (r : R2) (s : State) : Out := s.runCore (s.core.opA s.now 1 r (fun a => wd (popc64 a)))
/-- REV8. -/
def execRev8 (r : R2) (s : State) : Out := s.runCore (s.core.opA s.now 1 r rev8)
/-- BREV. -/
def execBrev (r : R2) (s : State) : Out := s.runCore (s.core.opA s.now 1 r brev64)
/-- EXTU. -/
def execExtu (r : R3) (s : State) : Out := s.runCore (s.core.opAB s.now 1 r extU)
/-- EXTS. -/
def execExts (r : R3) (s : State) : Out := s.runCore (s.core.opAB s.now 1 r extS)
/-- INS, which reads its destination (R101). -/
def execIns (r : R3) (s : State) : Out :=
  s.runCore (do
    let (c, a, b) ← s.core.srcAB r.a r.b r.la r.lb
    let old ← s.core.readX r.d
    .ok ((c.writeX s.now 1 r.d (insBits old a b)).advance s.now wordSize))
/-- ROL. -/
def execRol (r : R3) (s : State) : Out := s.runCore (s.core.opAB s.now 1 r (fun a b => a.rotateLeft (shamt b)))
/-- ROR. -/
def execRor (r : R3) (s : State) : Out := s.runCore (s.core.opAB s.now 1 r (fun a b => a.rotateRight (shamt b)))

/-! ### Compact forms, R41 -/

/-- C.ADDI, which reads its destination (R101). -/
def execCAddi (d : XReg) (imm : BitVec 6) (s : State) : Out :=
  s.runCore (do
    let x ← s.core.readX d
    s.core.opD s.now 1 halfSize d (x + sx imm))
/-- C.MV. -/
def execCMv (d a : XReg) (s : State) : Out :=
  s.runCore (do
    let x ← s.core.readX a
    s.core.opD s.now 1 halfSize d x)
/-- C.LI. -/
def execCLi (d : XReg) (imm : BitVec 6) (s : State) : Out := s.runCore (s.core.opD s.now 1 halfSize d (sx imm))

end Sys2Proof.Machine
end

