-- ==== Sys2Proof/Machine/Sched.lean ====
section
/-! DEFINITION. The scheduling firmware and the slot table: eligibility, starts, resumes and pre-emption, dispatch, vacates and saves,
the watchdog and the quantum, and the completion of a kernel (spec/11_progress.md R241 to R251; spec/01_machine.md R32 to R34;
spec/17_isa_system.md R344, R345). -/

namespace Sys2Proof.Machine

/-! ### Which launch is served, R241, R242 -/

/-- Whether a dependence has completed. -/
def State.depMet (s : State) : Option (Nat × Nat) → Bool
  | none => true
  | some (q, n) => decide ((s.queue q).done.toNat ≥ n)
/-- Every taken record whose dependences have completed, and whose partition is ready, made eligible. -/
def State.makeEligible (s : State) : State :=
  let s := s.unready
  let go (l : Launch) : Launch :=
    if l.status == .taken && s.depMet l.lrec.depA && s.depMet l.lrec.depB && s.partReady l.ctx then
      { l with status := .eligible, eligibleAt := s.timeNs, effPrio := l.lrec.prio }
    else l
  { s with launches := s.launches.map go }

/-- The units of a running launch that wait to be resumed: whole gangs, but for the members that have halted. -/
def Launch.resumable (l : Launch) : List BindUnit :=
  if l.doomed.isSome then [] else
  l.units.filter (fun u => u.any (fun c => l.vacatedCores.contains c) && u.all (fun c => l.vacatedCores.contains c || l.halted.contains c))
/-- Whether a launch waits for cores. -/
def Launch.waits (l : Launch) : Bool :=
  match l.status with
  | .eligible => true
  | .started => !l.resumable.isEmpty
  | .taken | .complete _ => false

/-- The order of two keys. -/
def keyLe : List Nat → List Nat → Bool
  | [], _ => true
  | _ :: _, [] => false
  | a :: s, b :: t => decide (a < b) || (a == b && keyLe s t)
/-- An element put into a list ordered by a key. -/
def insertBy {α : Type} (key : α → List Nat) (x : α) : List α → List α
  | [] => [x]
  | y :: t => if keyLe (key x) (key y) then x :: y :: t else y :: insertBy key x t
/-- A list ordered by a key. -/
def sortBy {α : Type} (key : α → List Nat) (l : List α) : List α := l.foldr (insertBy key) []

/-- When a queue was last served. -/
def State.servedAt (s : State) (q : Nat) : Nat := s.launches.foldl (fun n l => if l.queue == q then Nat.max n l.startedAt else n) 0
/-- The order of R242: effective priority, resumes before starts, the queue served longest ago, and the sequence. -/
def State.turnKey (s : State) (l : Launch) : List Nat :=
  [7 - l.effPrio, if l.status == .started then 0 else 1, s.servedAt l.queue, l.queue, l.seq]
/-- The request that a launch has made for cores. -/
def State.requestOf (s : State) (lh : Nat) : Option Request := s.requests.find? (fun r => r.lh == lh)
/-- A request taken back. -/
def State.dropRequest (s : State) (lh : Nat) : State := { s with requests := s.requests.filter (fun r => r.lh != lh) }
/-- The launch of a partition that is served next, among those for which no cores are held yet (log entry 55). -/
def State.turn (s : State) (part : Nat) : Option Launch :=
  ((sortBy s.turnKey (s.launches.filter Launch.waits)).filter (fun l => (s.ctx l.ctx).part == part && (s.requestOf l.h).isNone)).head?

/-! ### Pre-emption, R244, R248 -/

/-- Whether a save is in progress. -/
def State.saving (s : State) : Bool := s.slots.any (fun p => p.2.state == .vacate || p.2.state == .saving)
/-- The slots in state RUN that logical cores of a launch hold. -/
def State.runSlots (s : State) (lh : Nat) (u : List Nat) : List Nat :=
  (s.slots.filter (fun p => p.2.lhandle == lh && p.2.state == .run && u.contains p.2.lcore)).map (·.1)
/-- Whether a core sleeps in a wait. -/
def Core.asleep (c : Core) : Bool :=
  match c.run with
  | .waiting .drain | .waiting .ack => false
  | .waiting _ => true
  | _ => false
/-- Whether a logical core of a unit is still in BIND: the unit is vacated whole or not at all, R244. -/
def State.binding (s : State) (lh : Nat) (u : List Nat) : Bool :=
  s.slots.any (fun p => p.2.lhandle == lh && p.2.state == .bind && u.contains p.2.lcore)
/-- A victim: its slots, and its place in the order of R244. -/
structure Victim where
  slots : List Nat
  key : List Nat
  deriving DecidableEq, Repr
/-- What may be vacated for a launch, in the order of R244. -/
def State.victims (s : State) (l : Launch) : List Victim :=
  let low (v : Launch) : Bool := v.status == .started && v.h != l.h &&
    (decide (v.effPrio < l.effPrio) || (v.quantumOut && decide (v.effPrio ≤ l.effPrio))) && (s.ctx v.ctx).part == (s.ctx l.ctx).part
  let unit (v : Launch) (u : BindUnit) : Victim :=
    let ix := s.runSlots v.h u
    let awake := (s.coresOf v.h).any (fun c => u.contains c.id.lc && c.resident && !c.asleep)
    let leader := match s.runSlots v.h (u.take 1) with
      | [] => ix
      | is => is
    ⟨ix, [v.effPrio, s.now - v.startedAt, s.nextId - v.h, if awake then 1 else 0, leader.foldl Nat.min 2400]⟩
  sortBy Victim.key (((s.launches.filter low).flatMap (fun v => (v.units.filter (fun u => !s.binding v.h u)).map (unit v))).filter
    (fun v => !v.slots.isEmpty))

/-- Victims left out while the launch can still be placed without them. -/
def State.prune (s : State) (l : Launch) (units : List BindUnit) : List Victim → List Victim → List Victim
  | kept, [] => kept
  | kept, v :: t =>
    if (s.placesWith l ((kept ++ t).flatMap (·.slots)) units).isSome then s.prune l units kept t else s.prune l units (kept ++ [v]) t

/-- A pre-emption requested for the units of a launch: the fewest victims of R244 that make room, and the cores held for the launch
from then on. While a save is in progress it waits for that save, R248. -/
def State.preempt (s : State) (l : Launch) (units : List BindUnit) : Option State :=
  if s.saving then none else
  let vs := s.victims l
  match (List.range (vs.length + 1)).find? (fun n => (s.placesWith l ((vs.take n).flatMap (·.slots)) units).isSome) with
  | none => none
  | some n =>
    let ixs := (s.prune l units [] (vs.take n).reverse).flatMap (·.slots)
    (s.placesWith l ixs units).map (fun ps =>
      ixs.foldl (fun s ix => s.schedFirst s.now true (.slotVacate ix)) { s with requests := s.requests ++ [⟨l.h, ps⟩] })

/-! ### Starts and resumes -/

/-- A halted core of a timed launch that has left its physical core put at its place in the block, R305. -/
def State.intoBlock (s : State) (l : Launch) (lc : Nat) : State :=
  match l.block with
  | some b =>
    let pos := blockPos b.origin l.lrec.grid lc
    s.mapCores (fun c => c.id.lh == l.h && c.id.lc == lc && c.run == .halted && !s.seated c) (fun c => { c with
      slot := (s.physAt pos).getD c.slot, row := pos.1, col := pos.2 })
  | none => s
/-- The block of a timed launch put at the place of its unit, R305: it moves as a whole, and its first dispatch gives the routes. -/
def State.moveBlock (s : State) (l : Launch) (p : List Nat) : State :=
  if !l.lrec.timed then s else
  match (p.head?).bind s.exposedOf with
  | some o =>
    let b : Block := match l.block with
      | some b => { b with origin := o }
      | none => ⟨o, o, s.routersOut⟩
    l.halted.foldl (fun s lc => s.intoBlock { l with block := some b } lc) (s.updLaunch l.h (fun l => { l with block := some b }))
  | none => s

/-- BIND requested for the cores of a unit at a place; halted members take none. -/
def State.bindUnit (s : State) (l : Launch) (x : BindUnit × List (List Nat)) : State :=
  x.2.foldl (fun s p => (x.1.zip p).foldl (fun s y => if l.halted.contains y.1 then s else s.schedFirst s.now true (.slotBind y.2 l.h y.1))
    (s.moveBlock l p)) s

/-- A launch started at its places: its images are loaded, its tables take their first contents, R30, R73. -/
def State.startAt (s : State) (l : Launch) (ps : List (BindUnit × List (List Nat))) : State :=
  let s := (s.consumeImages l.ctx l.lrec.image).consumeDev l.ctx l.lrec.argAddr l.lrec.argLen
  match s.loadImage l.ctx l.lrec.image l.lrec.kernel (s.ctx l.ctx).tids, s.readDev l.ctx l.lrec.argAddr l.lrec.argLen with
  | some x, some args =>
    let s := s.updCtx l.ctx (fun c => { c with tids := x.tids.foldl (fun t (e : Nat × BitVec 256) => alSet t e.1 e.2) c.tids })
    let itins := (List.range x.kern.itins.length).zip x.kern.itins
    let tids := (s.ctx l.ctx).tids
    let s := s.updLaunch l.h (fun l => { l with
      status := .started, effPrio := l.lrec.prio, startedAt := s.now, startNs := s.timeNs, kern := x.kern, tids := tids, tidsB := tids
      itins := itins, itinsB := itins, snapTids := tids, snapItins := itins, snapTour := s.nextId, args := args })
    ps.foldl (fun s p => s.bindUnit l p) s
  | _, _ => s.completeLaunch l.h stLoadFail

/-- Whether the cores of a request can be bound: all of them EMPTY and scrubbed, and their clusters open to the context. -/
def State.requestReady (s : State) (l : Launch) (r : Request) : Bool :=
  r.slots.all (fun ix => s.scrubbed ix && s.mayBind l.ctx [] ix)
/-- Whether a request can no longer be met: a core of it has gone out of service, or a cluster has been closed to the context. -/
def State.requestLost (s : State) (l : Launch) (r : Request) : Bool :=
  r.slots.any (fun ix => (s.slotRec ix).state == .fenced || (s.exposedOf ix).isNone || s.mgmt.dieOff.getLsbD (physDie ix)) ||
  (r.slots.all s.scrubbed && !s.requestReady l r)
/-- The cores of a request given to its launch, which starts or resumes on them. -/
def State.grant (s : State) (l : Launch) (r : Request) : State :=
  let s := s.dropRequest l.h
  (if l.status == .started then r.places.foldl (fun s p => s.bindUnit l p) (s.updLaunch l.h (fun l => { l with evict := false }))
   else s.startAt l r.places).kick
/-- Free cores held for a launch, and given to it once they are scrubbed. -/
def State.claim (s : State) (l : Launch) (ps : List (BindUnit × List (List Nat))) : State :=
  let r : Request := ⟨l.h, ps⟩
  if s.requestReady l r then s.grant l r else { s with requests := s.requests ++ [r] }

/-- The waiting units of a running launch given cores: all of them, else those that can be, one after another; or cores are asked for.
While the firmware vacates the whole launch none is. -/
def State.resumeUnits (s : State) (l : Launch) : State :=
  let us := l.resumable
  if l.evict && s.slots.any (fun p => p.2.lhandle == l.h && p.2.state != .empty && p.2.state != .fenced) then s else
  match s.placesWith l [] us with
  | some ps => s.claim l ps
  | none =>
    match us.findSome? (fun u => s.placesWith l [] [u]) with
    | some ps => s.claim l ps
    | none => (((us :: us.map (fun u => [u])).findSome? (fun w => s.preempt l w))).getD s

/-- A launch served when it is its turn: its cores are given to it, or asked for, R242. -/
def State.serve (s : State) (l : Launch) : State :=
  if l.status == .started then s.resumeUnits l
  else match s.placesWith l [] l.units with
    | some ps => s.claim l ps
    | none => (s.preempt l l.units).getD s

/-- LAUNCH_ELIGIBLE: the launch for which cores are held takes them once they are free; the launch whose turn it is is given its cores,
or they are asked for, R242, R248. -/
def execLaunchEligible (lh : Nat) (s : State) : Out :=
  let s := s.makeEligible.tickFresh
  .next (match s.launch? lh with
  | none => s
  | some l =>
    if !l.waits || !s.partReady l.ctx then s else
    match s.requestOf lh with
    | some r => if s.requestLost l r then (s.dropRequest lh).kick else if s.requestReady l r then s.grant l r else s
    | none =>
      match s.turn (s.ctx l.ctx).part with
      | some t => if t.h == lh then s.serve l else s
      | none => s)

/-- PRIORITY_AGING: a full millisecond of waiting raises the effective priority, up to 7. -/
def execPriorityAging (lh : Nat) (s : State) : Out :=
  .next ((s.updLaunch lh (fun l => if l.status == .eligible then { l with effPrio := Nat.min 7 (l.effPrio + 1) } else l)).kick)

/-! ### BIND and dispatch, R243, R259 -/

/-- The cycle in which a core bound now is dispatched: with the gang mates that are being bound. -/
def State.dispatchAt (s : State) (l : Launch) (ix lc : Nat) : Nat :=
  let g := Nat.max 1 l.lrec.gang
  let mate (d : Due) : Option Nat := match d.ev with
    | .dispatch j => if j != ix && (s.slotRec j).lhandle == l.h && (s.slotRec j).lcore / g == lc / g then some d.at_ else none
    | _ => none
  match s.agenda.findSome? mate with
  | some n => n
  | none =>
    let segs := (s.saved.filter (fun (v : Saved) => v.lhandle == l.h && v.id.lc == lc)).foldl (fun n (v : Saved) => Nat.max n v.count) 0
    let bound := cyclesIn (1200 + l.kern.size / 32 + segs * 4096 * 1000 / 65536)
    s.now + 1 + Config.dispatchTime s.fresh % bound

/-- SLOT_BIND: a bind record written to an EMPTY slot that has been scrubbed, R243, R321; a write that the table of states does not allow
is ignored and logged. -/
def execSlotBind (ix lh lc : Nat) (s : State) : Out :=
  .next (match s.launch? lh with
  | none => s.log .badSlotWrite ix lh
  | some l =>
    if !s.scrubbed ix || l.status != .started || decide (lc ≥ l.lrec.grid) || (s.exposedOf ix).isNone then
      s.log .badSlotWrite ix lh
    else
      let left := if l.lrec.quantum = 0 then 0 else (l.lrec.quantum - l.quantumNs / 66000) / 1000
      let s := s.updSlot ix (fun _ => ⟨left % 2 ^ 32, lh, l.kern.entry, lc, l.ctx, .bind⟩)
      let s := s.updLaunch lh (fun l => { l with vacatedCores := l.vacatedCores.filter (· != lc) })
      let s := s.tickFresh
      s.sched (s.dispatchAt l ix lc) false (.dispatch ix))

/-- The launch page of a logical core, R32. -/
def launchPage (l : Launch) (lc : Nat) : List Byte :=
  let r := l.lrec
  let gs := l.kern.groupsWith lc
  let flags := nbit r.follow + 2 * nbit r.mirror + 4 * nbit r.umbra + 8 * nbit r.timed + 16 * (2 ^ gs.length - 1)
  padTo 256 (leBytes 8 l.seq ++ leBytes 4 r.grid ++ leBytes 4 lc ++ leBytes 2 r.gang ++ leBytes 2 (lc % r.gang) ++ leBytes 4 flags ++
    padTo 4 (gs.flatMap (leBytes 1)) ++ leBytes 1 l.ctx ++ leBytes 1 r.prio ++ leBytes 2 0 ++ leBytes 8 r.tick ++ leBytes 8 l.startNs ++
    leBytes 4 r.seed.toNat) ++ l.args

/-- A seed at entry, R33. -/
def entrySeed (base : BitVec 32) (lc i : Nat) : BitVec 32 :=
  let v := base ^^^ BitVec.ofNat 32 (lc * 16 + i)
  if v = 0 then 1 else v

/-- The registers at entry, R33. -/
def entryArch (l : Launch) (lc : Nat) : Arch :=
  { Arch.clear with
    x := ((((Arch.clear.x.set 10 0xFF000).set 11 (wd lc)).set 12 (wd l.lrec.grid)).set 13 (wd (lc % l.lrec.gang))).set 14 (wd l.seq)
    seed := Vector.ofFn (fun i => entrySeed l.lrec.seed lc i.val) }

/-- A logical core in the entry state, with its image, graphs and launch page in its scratchpad, R33, R73. -/
def entryCore (l : Launch) (id : CoreId) (ix : Nat) (pos : Nat × Nat) (now : Nat) : Core :=
  let a := entryArch l id.lc
  let mem := l.kern.lmem.foldl (fun (m : Mem) p => m.setN p.1 p.2) []
  let c : Core := { Core.empty with
    firstAt := now + (if l.lrec.follow then 2 * (id.lc % Nat.max 1 l.lrec.gang) else 0)
    id := id, ctx := l.ctx, slot := ix, row := pos.1, col := pos.2, run := .ready, pc := wd l.kern.entry, regpc := wd l.kern.entry
    arch := a, ckpt := a, nextIssue := now, mem := mem.setN 0xFF000 (launchPage l id.lc), code := l.kern.text, gaps := l.kern.gaps
    slotCount := l.kern.slots.length, slaved := l.lrec.follow && decide (l.lrec.gang > 1)
    heldX := [0xFF000, wd id.lc, wd l.lrec.grid, wd (id.lc % l.lrec.gang), wd l.seq] }
  if l.lrec.umbra then { c with image := some c.snapshot } else c

/-- A core put among the cores of the package. -/
def State.addCore (s : State) (c : Core) : State :=
  if s.core.run == .empty then { s with core := c } else { s with others := s.others ++ [c] }

/-- The group barriers of a core that resumes: it still counts as arrived for the current generation, and its log joins what fired while
it was away, R177, R256. -/
def State.resumeGroups (s : State) (id : CoreId) : State :=
  ((s.kernOf id.lh).groupsWith id.lc).foldl (fun s g =>
    let b := s.gbar id.lh g
    let held := ((s.core? id).map (fun c => c.credits)).getD []
    let s := if held.any (fun e => e.1 == g && e.2 != b.gen) then s.mergeLog id else s
    if !held.contains (g, b.gen) || b.arrived.contains id.lc then s else
    (s.updGbar id.lh g (fun b => { b with arrived := b.arrived ++ [id.lc] })).gbarCheck id.lh g id.lc) s

/-- What was kept for a core performed, in order, before its first instruction: messages and log entries, what engines and timed lines have
written, and the flags that engines have raised, R246, R344, R345. -/
def State.performKept (s : State) (id : CoreId) (ks : List Kept) : State :=
  ks.foldl (fun s k => match k with
    | .packet p => (match p.body with
      | .inl m => s.perform id p.addr m
      | .inr e => s.appendLog id e)
    | .cells cs => s.pokeAt id cs
    | .flags fl => s.engFlags id fl) s

/-- What a core that is about to issue finds of the tours: the records of the stops that passed before it was dispatched, and the gleaning
of those that are DEFERRED, R254. -/
def State.joinTours (s : State) (id : CoreId) : State :=
  let s := s.lateStops id
  (s.tours.filter (fun t => t.core.lh == id.lh && t.gleaning && t.deferred)).foldl (fun s t => s.gleanAll t.id) s

/-- What the package has kept for a core performed before its first instruction, with the deliveries that have reached it and their counts; a
delivery still under way lands when its time comes, R215. Then its groups and its tours, R194, R198, R214, R344. In an Umbra launch the first
instruction waits for the copies of the lines that this writes, R358. -/
def State.performAll (s : State) (id : CoreId) : State :=
  let mine (v : Saved) : Bool := v.lhandle == id.lh && v.id.lc == id.lc
  let kept := (s.saved.filter mine).flatMap (fun v => v.kept)
  let undone (s : State) : Nat := (s.pairOf id).foldl (fun n c => n + c.undo.length) 0
  let t := { s with saved := s.saved.filter (fun v => !mine v) }
  let t := (t.performKept id kept).resumeGroups id
  let t := (t.delivs.filter (fun d => d.core == id && !d.begun)).foldl (fun t d =>
    if d.ready ≤ t.now then t.landKept d
    else t.schedOnce (Nat.max t.now (d.ready + 1 - d.total)) true (.dynamicLineLanding d.id)) t
  let t := if undone s < undone t then t.pair id (fun c => { c with nextIssue := Nat.max c.nextIssue (t.now + 4), firstAt := c.firstAt + 4 }) else t
  t.joinTours id

/-- A vacated core restored on a physical core: its segments are checked and written into the scrubbed core, it starts at REGPC, and what
waited for it goes on, R74, R249, R345; the trace records made since its save keep their numbers (R341). What was kept for a logical core of a mirror launch waits for its second twin. -/
def State.resumeCore (s : State) (l : Launch) (c : Core) (ix : Nat) (pos : Nat × Nat) : State :=
  let id := c.id
  let v := s.saved.find? (fun (v : Saved) => v.id == id)
  let segs := (v.map s.readSegs).getD []
  if !segmentsOk c 1 0 segs then
    (s.killLaunchWith l.h stCtxCorrupt).killContext l.ctx
  else
    let d := s.restored c segs
    let s := s.updCore id (fun _ => { d with
      slot := ix, row := pos.1, col := pos.2, binds := c.binds + 1, run := .ready, pc := d.regpc, nextIssue := s.now, nextDrain := s.now
      firstAt := s.now + (if d.slaved then 2 * (id.lc % Nat.max 1 l.lrec.gang) else 0), window := none
      traceSeq := d.traceSeq + (c.traceSeq - (v.map (·.seq)).getD c.traceSeq)
      bankUse := d.bankUse.filter (fun u => u.code == 4 && decide (s.now ≤ u.lo)) })
    let s := (s.trace id 3 0x302 (((s.core? id).map Core.gridmap).getD 0)).scanStart id
    if ((s.other d).map (fun o => o.run == .vacated)).getD false then s else s.performAll (primOf id)

/-- DISPATCH: the hardware sets the entry state or restores the saved one, and moves BIND to RUN; a core of a launch that the firmware
vacates is vacated at once (R250), and one of a launch that rolls back waits for the others (R360). -/
def execDispatch (ix : Nat) (s : State) : Out :=
  let r := s.slotRec ix
  .next (if r.state != .bind then s else
  match s.launch? r.lhandle with
  | some l =>
    let pos := (s.exposedOf ix).getD (physDie ix / 2 * 24 + physRow ix, physDie ix % 2 * 24 + physCol ix % 24)
    let twin := l.lrec.mirror && s.slots.any (fun p => decide (p.1 < ix) && p.2.lhandle == r.lhandle && p.2.lcore == r.lcore && p.2.state != .empty)
    let id : CoreId := ⟨r.lhandle, r.lcore, twin⟩
    let s := s.updSlot ix (fun r => { r with state := .run })
    let s := if l.evict then s.schedFirst s.now true (.slotVacate ix) else s
    let s := match s.cores.find? (fun c => c.id == id && c.run == .vacated) with
    | some c => s.resumeCore l c ix pos
    | none =>
      let s := s.addCore (entryCore l id ix pos s.now)
      if l.lrec.mirror && (s.core? { id with twin := !twin }).isNone then s else s.joinTours (primOf id)
    if l.rolling.isNone then s else s.mapCores (fun c => c.id == id && c.run == .ready) (fun c => { c with run := .rolling })
  | none => s)

/-! ### Vacates and saves, R246 to R248 -/

/-- The core that a slot's record names. -/
def State.coreAt (s : State) (ix : Nat) : Option Core :=
  let r := s.slotRec ix
  s.cores.find? (fun c => c.slot == ix && c.id.lh == r.lhandle && c.id.lc == r.lcore && c.run != .empty && c.run != .vacated)

/-- A core that stops: its region is discarded, its arrivals at barrier lines and its requests for mutexes are withdrawn, and PREEMPT is
recorded for the firmware, but not in the core's CAUSE, R246, R270, R271, R354. -/
def State.stopCore (s : State) (id : CoreId) : State :=
  match s.core? id with
  | none => s
  | some c =>
    let k := c.key
    let drop (e : EvSet) : EvSet := { e with
      bars := e.bars.map (fun b => if b.gbind then b else { b with arrived := b.arrived.filter (fun a => a != k) })
      mutexes := e.mutexes.map (fun m => { m with queue := m.queue.filter (fun a => a != k) }) }
    let s := { s with evsets := s.evsets.map (fun (e : EvSet) => if e.ctx == c.ctx then drop e else e) }
    let s := s.updLaunch id.lh (fun l => { l with recorded := l.recorded ++ [(some id.lc, .preempt, 0)] })
    s.updCore id (fun c =>
      let d := c.discard
      { d with run := .stopping, pc := d.regpc, forwards := [] })

/-- Whether a core that is to be vacated can stop now: not while a SNAP that has counted its last arrival is still to fire (R357), nor
while the firmware holds it for a trap, a triage or a rollback. -/
def Core.canStop (c : Core) : Bool :=
  c.snapD.isNone && match c.run with
  | .ready | .waiting _ | .onFault _ | .resetting => true
  | _ => false

/-- A core stopped if it can be, and looked at again: its stop takes a free time within T_stop. -/
def State.tryStop (s : State) (ix : Nat) : State :=
  match s.coreAt ix with
  | none => s
  | some c =>
    if c.canStop then
      let s := (s.stopCore c.id).tickFresh
      s.sched (s.now + 1 + Config.stopTime s.fresh % cyclesIn 1000) false (.coreStop ix)
    else s.sched (s.now + 1) false (.coreStop ix)

/-- SLOT_VACATE: VACATE written to a slot in state RUN. -/
def execSlotVacate (ix : Nat) (s : State) : Out :=
  .next (if (s.slotRec ix).state != .run then s.log .badSlotWrite ix 3
  else match s.coreAt ix with
  | some c => if c.run == .halted then s else (s.updSlot ix (fun r => { r with state := .vacate })).tryStop ix
  | none => s)

/-- Whether a core has stopped, R246: its committed work is performed at DEVICE scope, and no matrix command runs; the commands of
the other engines go on. -/
def State.stopped (s : State) (c : Core) : Bool :=
  c.drainq.isEmpty && c.mirror.isEmpty && c.mma.all (fun x => x.started.isNone) &&
  !s.packets.any (fun p => p.lh == c.id.lh && p.src == c.id.lc) && !s.tlines.any (fun t => t.core.lh == c.id.lh) &&
  c.shfs.all (fun x => match x.cmd with | .shfRel _ => x.done | _ => true)

/-- The bytes of the largest save in progress. -/
def State.saveBytes (s : State) : Nat :=
  (s.cores.filter (fun c => c.run == .saving)).foldl (fun n c => Nat.max n (4096 * (s.segments c 0).length)) 4096

/-- CORE_STOP: a stopped core enters SAVING: its sheaf stops are settled, and its save takes a free time within R259's bound. -/
def execCoreStop (ix : Nat) (s : State) : Out :=
  .next (if (s.slotRec ix).state != .vacate then s else
  match s.coreAt ix with
  | none => s
  | some c =>
    if c.run != .stopping then s.tryStop ix
    else if !s.stopped c then s.sched (s.now + 1) false (.coreStop ix)
    else
      let s := (s.updSlot ix (fun r => { r with state := .saving })).updCore c.id (fun c => { c with run := .saving })
      let s := if c.id.twin then s else s.sheafSaving c.id
      let s := { s with saved := s.saved ++ [Saved.mk c.id c.ctx c.id.lh s.timeNs 0 0 0 []] }
      let s := s.tickFresh
      let n := (s.slots.filter (fun p => p.2.state == .saving)).length
      let bound := cyclesIn ((n + 63) / 64 * (s.saveBytes * 1000 / 65536 + 1))
      s.sched (s.now + 1 + Config.saveTime s.fresh % bound) true (.saveComplete ix))

/-- SAVE_COMPLETE: the last segment is written, once the deliveries in progress have landed; the slot is scrubbed into EMPTY, or
FENCED when its core is quarantined. Of a launch that has been killed in the meantime nothing is kept. -/
def execSaveComplete (ix : Nat) (s : State) : Out :=
  .next (if (s.slotRec ix).state != .saving then s else
  match s.coreAt ix with
  | none => s
  | some c =>
    if s.delivs.any (fun d => d.begun && d.core == primOf c.id) then s.sched (s.now + 1) true (.saveComplete ix) else
    let s := (s.trace c.id 3 0x301 c.gridmap).writeSegs c.id
    let s := s.enterEmpty ix
    if ((s.launch? c.id.lh).map (fun l => l.status == .started)).getD false == false then
      ({ s with saved := s.saved.filter (fun (v : Saved) => v.id != c.id) }.dropCores (fun d => d.id == c.id)).pruneEvents.freed
    else
    let s := s.updCore c.id (fun c => { c with run := .vacated })
    let lc := c.id.lc
    let s := s.updLaunch c.id.lh (fun l => { l with
      vacatedCores := if l.vacatedCores.contains lc then l.vacatedCores else l.vacatedCores ++ [lc] })
    let s := ((s.kernOf c.id.lh).groupsWith lc).foldl (fun s g => s.gbarCheck c.id.lh g lc) s
    s.pruneEvents.freed)

/-! ### The watchdog, the quantum and completion -/

/-- The slots of a launch that have not reached EMPTY. -/
def State.heldSlots (s : State) (lh : Nat) : List Nat := (s.slots.filter (fun p => p.2.lhandle == lh && p.2.state != .empty)).map (·.1)

/-- WATCHDOG recorded for the firmware, with the limit that has passed, R334. -/
def Launch.passed (l : Launch) (n : Nat) : Launch := { l with wdLevel := Nat.max n l.wdLevel, recorded := l.recorded ++ [(none, .watchdog, n)] }

/-- WATCHDOG_LIMIT1: every core of the launch is vacated, those in BIND once they are dispatched, and no cores are held for it any more; the
launch goes on later at its own priority. -/
def execWatchdogLimit1 (lh : Nat) (s : State) : Out :=
  .next (match s.launch? lh with
  | none => s
  | some l =>
    let s := (s.updLaunch lh (fun l => { l.passed 1 with effPrio := l.lrec.prio, evict := true })).dropRequest lh
    (s.runSlots lh (List.range l.lrec.grid)).foldl (fun s ix => s.schedFirst s.now true (.slotVacate ix)) s)

/-- WATCHDOG_LIMIT2: the launch is killed. -/
def execWatchdogLimit2 (lh : Nat) (s : State) : Out :=
  .next ((s.updLaunch lh (fun l => l.passed 2)).killLaunch lh)

/-- WATCHDOG_LIMIT3: every physical core of the launch that has not reached EMPTY is FENCED, and its sheaf stops are MISSED; a launch
that is still running ends with it. -/
def execWatchdogLimit3 (lh : Nat) (s : State) : Out :=
  .next (
    let ids := (s.coresOf lh).filterMap (fun c => if !c.id.twin && c.run != .vacated then some c.id else none)
    let s := (s.heldSlots lh).foldl (fun s ix => s.updSlot ix (fun r => { r with state := .fenced })) s
    let s := s.updLaunch lh (fun l => l.passed 3)
    let s := s.mapCores (fun c => c.id.lh == lh && c.run != .vacated) (fun c => { c with run := .fenced })
    (ids.foldl (fun s id => s.fenceStops id) s).killLaunch lh)

/-- QUANTUM_EXPIRY: the launch counts as lower than those that wait at its own priority. -/
def execQuantumExpiry (lh : Nat) (s : State) : Out := .next ((s.updLaunch lh (fun l => { l with quantumOut := true })).kick)

/-- Whether a core has nothing left to do, drain or complete. -/
def State.quiet (s : State) (c : Core) : Bool :=
  c.drainq.isEmpty && c.mirror.isEmpty && c.mma.isEmpty && c.copies.isEmpty && c.shfs.isEmpty && c.colls.isEmpty && c.scan.queue.isEmpty &&
  c.flights.isEmpty && !s.accs.any (fun a => a.core == primOf c.id) && !s.delivs.any (fun d => d.core == primOf c.id) &&
  !s.packets.any (fun p => p.lh == c.id.lh && (p.src == c.id.lc || p.dst == c.id.lc)) && !s.tlines.any (fun t => primOf t.core == primOf c.id)
/-- Whether every logical core of a launch has halted, and everything it issued is done, R34. -/
def State.finished (s : State) (l : Launch) : Bool :=
  l.status == .started && l.rolling.isNone && decide (l.halted.length ≥ l.lrec.grid) && (s.coresOf l.h).all (fun c => c.run == .halted && s.quiet c) &&
  s.tours.all (fun t => t.core.lh != l.h || t.ended)

/-- KERNEL_COMPLETION: the staged writes of an Umbra launch are performed (log entry 51), its cores are scrubbed, and its record
completes OK. -/
def execKernelCompletion (lh : Nat) (s : State) : Out :=
  .next (match s.launch? lh with
  | none => s
  | some l =>
    if !s.finished l then s else
    let s := (s.unstage lh).releaseMutexes (fun k => k.1 == lh)
    let s := s.dropCores (fun c => c.id.lh == lh)
    let s := { s with
      tours := s.tours.filter (fun t => t.core.lh != lh)
      saved := s.saved.filter (fun v => v.lhandle != lh) }
    (s.pruneEvents.completeLaunch lh stOk).freed)

/-- A halted core of an Umbra launch whose physical core is freed: a rollback may start it again, so that its context is saved as that of a
vacated core is (log entry 47). -/
def State.keepHalted (s : State) (c : Core) : State :=
  if !s.umbra c.id.lh then s else
  { s with saved := s.saved ++ [Saved.mk c.id c.ctx c.id.lh s.timeNs 0 0 0 []] }.writeSegs c.id
/-- The physical cores of halted logical cores that have nothing left to do scrubbed into EMPTY, R243. -/
def State.freeHalted (s : State) : State :=
  let go := s.cores.filter (fun c => c.run == .halted && s.seated c && s.quiet c &&
    ((s.launch? c.id.lh).map (fun l => l.rolling.isNone)).getD true)
  if go.isEmpty then s else (go.foldl (fun s c =>
    let t := (s.keepHalted c).enterEmpty c.slot
    match t.launch? c.id.lh with
    | some l => t.intoBlock l c.id.lc
    | none => t) s).pruneEvents.freed

/-! ### The rollback of an Umbra launch, R360 -/

/-- The cores of a launch put back into their snapshots: what is left of their commands and of what was on its way is dropped, undo lines are
written back, the tours begun in the epoch are discarded, barrier lines are reset, mutexes released and event counts set back, and the tables and group barriers
return to what they were (R355). A halted core runs again, one whose physical core has been freed as a vacated one; the segments of vacated
cores take up the undo lines and the snapshot registers. The cores go on 4 cycles for each undo line of the core with most of them and 2 µs later; those cycles are counted as cycles
(R2, R385). -/
def State.restoreEpoch (s : State) (l : Launch) : State :=
  let lh := l.h
  let cs := s.coresOf lh
  let lines := cs.foldl (fun n c => Nat.max n c.undo.length) 0
  let sets := cs.map (fun c => (s.evCluster c, c.ctx))
  let freed := (cs.filter (fun c => c.run == .halted && !s.seated c)).map (fun c => c.id)
  let ctx := (cs.head?.map (fun c => c.ctx)).getD l.ctx
  let changed := (l.tids.map (·.1)).filter (fun ix => alGet l.tids ix != alGet l.snapTids ix)
  let s := (s.releaseMutexes (fun k => k.1 == lh)).undoEvents l
  let s := { s with
    packets := s.packets.filter (fun p => p.lh != lh)
    tlines := s.tlines.filter (fun t => t.core.lh != lh)
    delivs := s.delivs.filter (fun d => d.core.lh != lh)
    accs := s.accs.filter (fun a => a.core.lh != lh)
    tours := s.tours.filter (fun t => t.core.lh != lh || (t.ended && decide (t.id < l.snapTour)))
    saved := s.saved.map (fun (v : Saved) => if v.lhandle == lh then { v with kept := [] } else v)
    carried := s.carried.filter (fun e => match e.1 with | .group h _ => h != lh | .line .. => true)
    agenda := s.agenda.filter (fun d => !undoneBy lh d.ev)
    timers := s.timers.filter (fun d => !undoneBy lh d.2)
    evsets := s.evsets.map (fun (e : EvSet) =>
      if sets.contains (e.cluster, e.ctx) then { e with bars := Vector.replicate 16 ⟨0, [], false, 0, 0⟩ } else e) }
  let s := s.updCtx ctx (fun x => { x with tids := changed.foldl (fun t ix => alSet t ix ((alGet l.snapTids ix).getD 0)) x.tids })
  let s := s.mapCores (fun c => c.id.lh == lh) (fun c =>
    let d := c.rolledBack
    if c.run == .halted then { d with run := if freed.contains c.id then .vacated else .rolling } else d)
  let s := s.updLaunch lh (fun l => { l with
    gbars := l.snapGbars, tids := l.snapTids, tidsB := l.snapTids, itins := l.snapItins, itinsB := l.snapItins, aggs := [], carries := [], halted := []
    vacatedCores := (l.vacatedCores ++ freed.map (fun i => i.lc)).eraseDups
    rolled := true, rolling := some (s.timeFine + fineOf 2000), rollAt := if lines = 0 then none else some (s.now + 4 * lines) })
  let s := l.snapGbars.foldl (fun s b => if b.firing.isSome then s.sched (s.now + 1) true (.groupBarrierFire lh b.group) else s) s
  ((s.coresOf lh).filter (fun c => c.run == .vacated)).foldl (fun s c => s.writeSegs c.id) s
/-- The cores of a launch that has been rolled back go on behind their last SNAP. -/
def State.resumeRolled (s : State) (lh : Nat) : State :=
  ((s.mapCores (fun c => c.id.lh == lh && c.run == .rolling) (fun c => c.restart (s.now + 1))).updLaunch lh
    (fun l => { l with rolling := none, rolled := false, rollAt := none })).kick
/-- Whether a delivery is sent for a command. -/
def Delivery.serves (d : Delivery) (id : CoreId) (p : EngClass) (n : Nat) : Bool :=
  match d.act with
  | .cmd c q m => c == id && q == p && m == n
  | .mcast c m _ _ => c == id && p == .copy && m == n
  | .reread _ _ m => d.core == id && p == .sheaf && m == n
  | .tour .. | .none => false
/-- Whether a command in flight goes on to its completion by itself: one that waits for room in a ring, for a fault entry, for a tour or for
another core does not. -/
def State.advances (s : State) (id : CoreId) (p : EngClass) (x : Inflight) : Bool :=
  x.started && x.stalled.isNone && !s.ended x && (x.left == 0 || x.busy ||
    s.delivs.any (fun d => d.serves id p x.ticket && (d.begun || decide (s.now < d.ready))) ||
    (match x.cmd with | .reduce _ => true | _ => false))
/-- Whether a core of a launch that rolls back has work that goes on: the rollback waits for it, R360 (log entry 47). -/
def State.working (s : State) (lh : Nat) : Bool :=
  s.accs.any (fun a => a.core.lh == lh) ||
  (s.coresOf lh).any (fun c => !c.drainq.isEmpty || c.mma.any (fun x => x.started.isSome) || c.scan.running.isSome ||
    [EngClass.copy, .sheaf, .coll].any (fun p => (c.engOf p).any (s.advances (primOf c.id) p)))
/-- The next stage of a rollback whose TIME has come: its commands have completed, and its cores are put back; or they go on. -/
def State.roll (s : State) (lh : Nat) : State :=
  match s.launch? lh with
  | none => s
  | some l =>
    if l.rolled then s.resumeRolled lh
    else if s.working lh then s.updLaunch lh (fun l => { l with rolling := some (s.timeFine + 1) })
    else s.restoreEpoch l

/-- A quarantined core that still runs outside a mirror launch: it is vacated with its gang, or with its timed launch, once no core of
them is in BIND, R244, R364. -/
def State.quarantineVacate (s : State) : Option Instr :=
  let f (p : Nat × SlotRec) : Option Instr :=
    match s.launch? p.2.lhandle with
    | none => none
    | some l =>
      if l.lrec.mirror || p.2.state != .run || ((s.coreAt p.1).map (fun c => c.resident)).getD false == false then none else
      let u := (l.units.find? (fun u => u.contains p.2.lcore)).getD []
      if !s.binding l.h u && s.slots.any (fun q => q.2.lhandle == l.h && u.contains q.2.lcore && (s.physOf q.1).quarantined && q.2.state != .empty && q.2.state != .fenced)
      then some (.slotVacate p.1) else none
  s.slots.findSome? f

end Sys2Proof.Machine
end

