-- ==== Sys2Proof/Machine/Windows.lean ====
section
/-! DEFINITION. The memory-mapped windows: what their registers read as, and what a write of one does (spec/00_scope.md R4;
spec/11_progress.md R236, R237; spec/16_isolation.md R311; spec/18_recovery.md R368; spec/20_attachment.md R378 to R387). -/

namespace Sys2Proof.Machine

/-! ### What the registers read as -/

/-- The word of a launch queue's block at an offset, R236, R237. -/
def LQueue.word (k : LQueue) (off : Nat) : Word :=
  match off with
  | 0x00 => k.base
  | 0x08 => k.size
  | 0x10 => k.tail
  | 0x18 => k.head
  | 0x20 => k.done
  | 0x28 => wd (k.ctx * 256 + nbit k.err * 4 + nbit k.enable)
  | 0x30 => wd (k.limc % 2 ^ 20 * 2 ^ 40 + k.limb % 2 ^ 20 * 2 ^ 20 + k.lima % 2 ^ 20)
  | _ => 0
/-- The word of a context's block at an offset, R311; FQRESUME and TLBINV are write-only. -/
def Ctx.word (c : Ctx) (off : Nat) : Word :=
  match off with
  | 0x00 => wd (c.part * 256 + nbit c.enable)
  | 0x08 => c.fqbase
  | 0x10 => c.fqsize
  | 0x18 => c.fqtail
  | 0x20 => c.fqhead
  | 0x38 => c.tlbinvst
  | n => if 0x40 ≤ n ∧ n < 0xC0 ∧ n % 8 = 0 then nth c.roots.toList ((n - 0x40) / 8) 0 else 0
/-- HEALTH, R368. -/
def Mgmt.health (m : Mgmt) : Word :=
  wd ((List.range 4).foldl (fun n d => n + nth m.spares.toList d 0 % 256 * 2 ^ (8 + 8 * d)) 0 +
    nbit m.retire * 8 + nbit m.hbmex * 4 + nbit m.spareex * 2 + nbit (m.hbmex || m.spareex))
/-- TIMESTAT, R378. -/
def Mgmt.timestat (m : Mgmt) : Word :=
  wd ((m.toffset % 2 ^ 32).toNat * 2 ^ 32 + m.tsrc % 16 * 2 ^ 20 + m.tport % 16 * 2 ^ 16 + nbit (m.slewing != 0) * 4 +
    nbit m.freerun * 2 + nbit m.lock)
/-- PWRSTAT, R387. -/
def Mgmt.pwrstat (m : Mgmt) : Word :=
  wd (m.power % 2 ^ 16 * 2 ^ 32 + m.whelp % 256 * 2 ^ 16 + nbit m.throt * 2 ^ 8 + m.hot.toNat * 16 + m.capped.toNat)
/-- The word of the management window at an offset; the sensors lie from 0x1000 on, R379. -/
def Mgmt.word (m : Mgmt) (off : Nat) : Word :=
  match off with
  | 0x00 => m.health
  | 0x08 => m.ready
  | 0x10 => m.timestat
  | 0x18 => wd (m.tdomain.toNat * 256 + m.srcsel.toNat)
  | 0x20 => wd m.cap
  | 0x28 => m.pwrstat
  | 0x30 => zx m.pready
  | n => if 0x1000 ≤ n ∧ n % 8 = 0 then
      wd (leNat ((List.range 4).flatMap (fun i => leBytes 2 (nth m.sensors ((n - 0x1000) / 2 + i) 0))))
    else 0
/-- The word that a register of a window reads as. -/
def State.readReg (s : State) (win : Window) (off : Nat) : Word :=
  match win with
  | .launchQueue => if off < 4096 then (s.queue (off / 64)).word (off % 64) else 0
  | .context => if off < 16384 then (s.ctx (off / 256)).word (off % 256) else 0
  | .management => s.mgmt.word off

/-! ### Writes -/

/-- A write of LQCTL: CTX while the queue is off, ERR cleared by 1, then CANCEL and ENABLE, R237. A CTX above 63 is stored modulo 64 (DESIGN
CHOICE, log entry 108). -/
def State.writeLqctl (s : State) (q : Nat) (v : Word) : State :=
  let s := if (s.queue q).enable then s else s.updQueue q (fun k => { k with ctx := (v.extractLsb' 8 8).toNat % 64 })
  let s := if v.getLsbD 2 then s.updQueue q (fun k => { k with err := false }) else s
  let s := if v.getLsbD 1 then s.cancelQueue q else s
  if v.getLsbD 0 then s.enableQueue q else s.disableQueue q
/-- A write to a launch queue's block. -/
def State.writeQueueReg (s : State) (q off : Nat) (v : Word) : State :=
  match off with
  | 0x00 => s.updQueue q (fun k => { k with base := v })
  | 0x08 => s.updQueue q (fun k => { k with size := v })
  | 0x10 => s.writeTail q v
  | 0x28 => s.writeLqctl q v
  | 0x30 => s.updQueue q (fun k => { k with
      lima := (v.extractLsb' 0 20).toNat, limb := (v.extractLsb' 20 20).toNat, limc := (v.extractLsb' 40 20).toNat })
  | _ => s

/-- A write of CTXCTL: PART while the context is off, then ENABLE, R311. -/
def State.writeCtxctl (s : State) (ctx : Nat) (v : Word) : State :=
  let part := (v.extractLsb' 8 2).toNat
  if (s.ctx ctx).enable then (if v.getLsbD 0 then s else s.disableCtx ctx)
  else if v.getLsbD 0 then s.enableCtx ctx part
  else s.updCtx ctx (fun c => { c with part := part })
/-- A write of FQRESUME; one with other bits set is ignored, R320. -/
def State.writeFqresume (s : State) (ctx : Nat) (v : Word) : State :=
  let n := (v.extractLsb' 0 32).toNat
  if v.toNat / 2 ^ 33 ≠ 0 then s else if v.getLsbD 32 then s.denyFault ctx n else s.retryFault ctx n
/-- A write of TLBINV; one with other bits set is ignored, R317. -/
def State.writeTlbinv (s : State) (ctx : Nat) (v : Word) : State :=
  if v.toNat / 2 ^ 52 ≠ 0 || v.toNat / 2 ^ 5 % 2 ^ 7 ≠ 0 then s
  else if v.getLsbD 4 then s.invalidate ctx (fun _ => true)
  else s.invalidatePage ctx (v &&& ~~~(0xFFF : Word)) (v.toNat % 16)
/-- A write to a context's block. -/
def State.writeCtxReg (s : State) (ctx off : Nat) (v : Word) : State :=
  match off with
  | 0x00 => s.writeCtxctl ctx v
  | 0x08 => s.updCtx ctx (fun c => { c with fqbase := v })
  | 0x10 => (s.updCtx ctx (fun c => { c with fqsize := v })).sched s.now true (.faultQueueSpace ctx)
  | 0x20 => (s.updCtx ctx (fun c => { c with fqhead := v })).sched s.now true (.faultQueueSpace ctx)
  | 0x28 => s.writeFqresume ctx v
  | 0x30 => s.writeTlbinv ctx v
  | n => if 0x40 ≤ n ∧ n < 0xC0 ∧ n % 8 = 0 then
      s.updCtx ctx (fun c => { c with roots := if h : (n - 0x40) / 8 < 16 then c.roots.set ((n - 0x40) / 8) v else c.roots })
    else s

/-- A write to the management window by the application die: of PWRCTL when the configuration permits it, R384; PWRSTAT's THROT is cleared
by 1, R387. -/
def State.writeMgmtReg (s : State) (off : Nat) (v : Word) : State :=
  match off with
  | 0x18 => s.writeTimectl v
  | 0x20 => if s.mgmt.config.appPower then s.writePwrctl v else s
  | 0x28 => if v.getLsbD 8 then s.updMgmt (fun m => { m with throt := false }) else s
  | _ => s

/-- REGISTER_WRITE: a write of 8 bytes at an offset of a window; reserved and read-only registers ignore it, R4. -/
def execRegisterWrite (win : Window) (off : Nat) (v : Word) (s : State) : Out :=
  .next (match win with
  | .launchQueue => if off < 4096 then s.writeQueueReg (off / 64) (off % 64) v else s
  | .context => if off < 16384 then s.writeCtxReg (off / 256) (off % 256) v else s
  | .management => s.writeMgmtReg off v)

end Sys2Proof.Machine
end

