-- ==== Sys2Proof/Machine/Dispatch.lean ====
section
/-! DEFINITION. The meaning of every step: one arm for each constructor of Instr. -/

namespace Sys2Proof.Machine

open Sys2Proof

def exec (i : Instr) (s : State) : Host.Outcome State Fault Refusal :=
  match i with
  | .illegal w => Sys2Proof.Machine.execIllegal w s
  | .registerWriteLanding c => Sys2Proof.Machine.execRegisterWriteLanding c s
  | .storeLineDrain c => Sys2Proof.Machine.execStoreLineDrain c s
  | .commandDrain c => Sys2Proof.Machine.execCommandDrain c s
  | .dynamicLineLanding id => Sys2Proof.Machine.execDynamicLineLanding id s
  | .messageArrival id => Sys2Proof.Machine.execMessageArrival id s
  | .logEntryArrival id => Sys2Proof.Machine.execLogEntryArrival id s
  | .tsendLanding id => Sys2Proof.Machine.execTsendLanding id s
  | .tick lh => Sys2Proof.Machine.execTick lh s
  | .sleepuExpiry c => Sys2Proof.Machine.execSleepuExpiry c s
  | .waitaDeadline c => Sys2Proof.Machine.execWaitaDeadline c s
  | .mmaGangStart lh gang n => Sys2Proof.Machine.execMmaGangStart lh gang n s
  | .mmaCompletion lh gang n => Sys2Proof.Machine.execMmaCompletion lh gang n s
  | .copyCompletion c ticket => Sys2Proof.Machine.execCopyCompletion c ticket s
  | .mcastDelivery id => Sys2Proof.Machine.execMcastDelivery id s
  | .scanCommandCompletion c => Sys2Proof.Machine.execScanCommandCompletion c s
  | .carryDelivery c => Sys2Proof.Machine.execCarryDelivery c s
  | .groupBarrierFire lh g => Sys2Proof.Machine.execGroupBarrierFire lh g s
  | .snapFire lh => Sys2Proof.Machine.execSnapFire lh s
  | .tourReadStart id => Sys2Proof.Machine.execTourReadStart id s
  | .tileArrival id stop => Sys2Proof.Machine.execTileArrival id stop s
  | .holdLimitExpiry id stop => Sys2Proof.Machine.execHoldLimitExpiry id stop s
  | .gleaningDelivery id stop => Sys2Proof.Machine.execGleaningDelivery id stop s
  | .gleaningBoundExpiry id => Sys2Proof.Machine.execGleaningBoundExpiry id s
  | .tourEnd id => Sys2Proof.Machine.execTourEnd id s
  | .cagrpCompletion c ticket => Sys2Proof.Machine.execCagrpCompletion c ticket s
  | .cagrpDrainExpiry c ticket => Sys2Proof.Machine.execCagrpDrainExpiry c ticket s
  | .reductionStart c ticket peers => Sys2Proof.Machine.execReductionStart c ticket peers s
  | .chunkWrite c ticket k => Sys2Proof.Machine.execChunkWrite c ticket k s
  | .collCompletion c ticket => Sys2Proof.Machine.execCollCompletion c ticket s
  | .memberAbsent c ticket mask => Sys2Proof.Machine.execMemberAbsent c ticket mask s
  | .stalePacketArrival ctx agid gen => Sys2Proof.Machine.execStalePacketArrival ctx agid gen s
  | .apertureAccess pkg pa len wr => Sys2Proof.Machine.execApertureAccess pkg pa len wr s
  | .detectedError c u => Sys2Proof.Machine.execDetectedError c u s
  | .regionReentry c => Sys2Proof.Machine.execRegionReentry c s
  | .consumedUncorrectableError e => Sys2Proof.Machine.execConsumedUncorrectableError e s
  | .headerUncorrectableError part => Sys2Proof.Machine.execHeaderUncorrectableError part s
  | .partitionRebringupComplete part => Sys2Proof.Machine.execPartitionRebringupComplete part s
  | .mirrorItemCompare lh lc => Sys2Proof.Machine.execMirrorItemCompare lh lc s
  | .mirrorHashMismatch lh lc => Sys2Proof.Machine.execMirrorHashMismatch lh lc s
  | .mirrorHashTimeout lh lc => Sys2Proof.Machine.execMirrorHashTimeout lh lc s
  | .triageDecision lh lc t => Sys2Proof.Machine.execTriageDecision lh lc t s
  | .mirrorResyncComplete lh lc => Sys2Proof.Machine.execMirrorResyncComplete lh lc s
  | .lqtailWrite q v => Sys2Proof.Machine.execLqtailWrite q v s
  | .queueEnable q => Sys2Proof.Machine.execQueueEnable q s
  | .queueDisable q => Sys2Proof.Machine.execQueueDisable q s
  | .queueCancel q => Sys2Proof.Machine.execQueueCancel q s
  | .launchRecordTake q => Sys2Proof.Machine.execLaunchRecordTake q s
  | .launchEligible lh => Sys2Proof.Machine.execLaunchEligible lh s
  | .priorityAging lh => Sys2Proof.Machine.execPriorityAging lh s
  | .slotBind ix lh lc => Sys2Proof.Machine.execSlotBind ix lh lc s
  | .dispatch ix => Sys2Proof.Machine.execDispatch ix s
  | .slotVacate ix => Sys2Proof.Machine.execSlotVacate ix s
  | .coreStop ix => Sys2Proof.Machine.execCoreStop ix s
  | .saveComplete ix => Sys2Proof.Machine.execSaveComplete ix s
  | .watchdogLimit1 lh => Sys2Proof.Machine.execWatchdogLimit1 lh s
  | .watchdogLimit2 lh => Sys2Proof.Machine.execWatchdogLimit2 lh s
  | .watchdogLimit3 lh => Sys2Proof.Machine.execWatchdogLimit3 lh s
  | .quantumExpiry lh => Sys2Proof.Machine.execQuantumExpiry lh s
  | .kernelCompletion lh => Sys2Proof.Machine.execKernelCompletion lh s
  | .contextEnable ctx part => Sys2Proof.Machine.execContextEnable ctx part s
  | .contextDisable ctx => Sys2Proof.Machine.execContextDisable ctx s
  | .fqresumeRetry ctx fseq => Sys2Proof.Machine.execFqresumeRetry ctx fseq s
  | .fqresumeDeny ctx fseq => Sys2Proof.Machine.execFqresumeDeny ctx fseq s
  | .rewalk c ticket => Sys2Proof.Machine.execRewalk c ticket s
  | .faultQueueSpace ctx => Sys2Proof.Machine.execFaultQueueSpace ctx s
  | .tlbinvPage ctx va size => Sys2Proof.Machine.execTlbinvPage ctx va size s
  | .tlbinvAll ctx => Sys2Proof.Machine.execTlbinvAll ctx s
  | .tlbinvstAdvance ctx => Sys2Proof.Machine.execTlbinvstAdvance ctx s
  | .registerWrite win off v => Sys2Proof.Machine.execRegisterWrite win off v s
  | .timectlWrite v => Sys2Proof.Machine.execTimectlWrite v s
  | .pwrctlWrite v => Sys2Proof.Machine.execPwrctlWrite v s
  | .ptpMessage off port => Sys2Proof.Machine.execPtpMessage off port s
  | .ptmMessage off => Sys2Proof.Machine.execPtmMessage off s
  | .timeReferenceLoss => Sys2Proof.Machine.execTimeReferenceLoss s
  | .timeokExpiry => Sys2Proof.Machine.execTimeokExpiry s
  | .powerControlPeriod watts withhold => Sys2Proof.Machine.execPowerControlPeriod watts withhold s
  | .thermalThrottle die => Sys2Proof.Machine.execThermalThrottle die s
  | .thermalShutdown die => Sys2Proof.Machine.execThermalShutdown die s
  | .sensorRefresh vals => Sys2Proof.Machine.execSensorRefresh vals s
  | .hbmCorrectedError ch bank row col => Sys2Proof.Machine.execHbmCorrectedError ch bank row col s
  | .hbmBankCopyComplete ch bank => Sys2Proof.Machine.execHbmBankCopyComplete ch bank s
  | .correctedErrorAging ch => Sys2Proof.Machine.execCorrectedErrorAging ch s
  | .powerOn => Sys2Proof.Machine.execPowerOn s
  | .hbmStackReady n => Sys2Proof.Machine.execHbmStackReady n s
  | .dieReady die => Sys2Proof.Machine.execDieReady die s
  | .engineReady n => Sys2Proof.Machine.execEngineReady n s
  | .appdieReady => Sys2Proof.Machine.execAppdieReady s
  | .pcieLinkUp n => Sys2Proof.Machine.execPcieLinkUp n s
  | .scaleoutLinkUp n => Sys2Proof.Machine.execScaleoutLinkUp n s
  | .linkDown scaleOut n => Sys2Proof.Machine.execLinkDown scaleOut n s
  | .firmwareUpdate image sig key => Sys2Proof.Machine.execFirmwareUpdate image sig key s
  | .getVersion => Sys2Proof.Machine.execGetVersion s
  | .getCapabilities => Sys2Proof.Machine.execGetCapabilities s
  | .negotiateAlgorithms asym hash => Sys2Proof.Machine.execNegotiateAlgorithms asym hash s
  | .getDigests => Sys2Proof.Machine.execGetDigests s
  | .getCertificate slot off len => Sys2Proof.Machine.execGetCertificate slot off len s
  | .challenge slot nonce => Sys2Proof.Machine.execChallenge slot nonce s
  | .getMeasurements ix => Sys2Proof.Machine.execGetMeasurements ix s
  | .sheafCommandCompletion c ticket => Sys2Proof.Machine.execSheafCommandCompletion c ticket s
  | .scopeAcknowledgement c => Sys2Proof.Machine.execScopeAcknowledgement c s
  | .hostPathAccess h => Sys2Proof.Machine.execHostPathAccess h s
  | .ctxEcmd w => Sys2Proof.Machine.execCtxEcmd w s
  | .outsideLoadedText => Sys2Proof.Machine.execOutsideLoadedText s
  | .shutdown => Sys2Proof.Machine.execShutdown s
  | .configurationUpdate u => Sys2Proof.Machine.execConfigurationUpdate u s
  | .dieCooled die => Sys2Proof.Machine.execDieCooled die s
  | .add r => Sys2Proof.Machine.execAdd r s
  | .sub r => Sys2Proof.Machine.execSub r s
  | .and r => Sys2Proof.Machine.execAnd r s
  | .or r => Sys2Proof.Machine.execOr r s
  | .xor r => Sys2Proof.Machine.execXor r s
  | .andn r => Sys2Proof.Machine.execAndn r s
  | .orn r => Sys2Proof.Machine.execOrn r s
  | .sll r => Sys2Proof.Machine.execSll r s
  | .srl r => Sys2Proof.Machine.execSrl r s
  | .sra r => Sys2Proof.Machine.execSra r s
  | .slt r => Sys2Proof.Machine.execSlt r s
  | .sltu r => Sys2Proof.Machine.execSltu r s
  | .min r => Sys2Proof.Machine.execMin r s
  | .max r => Sys2Proof.Machine.execMax r s
  | .minu r => Sys2Proof.Machine.execMinu r s
  | .maxu r => Sys2Proof.Machine.execMaxu r s
  | .addsat r => Sys2Proof.Machine.execAddsat r s
  | .subsat r => Sys2Proof.Machine.execSubsat r s
  | .selnz r => Sys2Proof.Machine.execSelnz r s
  | .addi r => Sys2Proof.Machine.execAddi r s
  | .andi r => Sys2Proof.Machine.execAndi r s
  | .ori r => Sys2Proof.Machine.execOri r s
  | .xori r => Sys2Proof.Machine.execXori r s
  | .slti r => Sys2Proof.Machine.execSlti r s
  | .sltiu r => Sys2Proof.Machine.execSltiu r s
  | .slli r => Sys2Proof.Machine.execSlli r s
  | .srli r => Sys2Proof.Machine.execSrli r s
  | .srai r => Sys2Proof.Machine.execSrai r s
  | .addw r => Sys2Proof.Machine.execAddw r s
  | .subw r => Sys2Proof.Machine.execSubw r s
  | .sllw r => Sys2Proof.Machine.execSllw r s
  | .srlw r => Sys2Proof.Machine.execSrlw r s
  | .sraw r => Sys2Proof.Machine.execSraw r s
  | .mulw r => Sys2Proof.Machine.execMulw r s
  | .addiw r => Sys2Proof.Machine.execAddiw r s
  | .slliw r => Sys2Proof.Machine.execSlliw r s
  | .srliw r => Sys2Proof.Machine.execSrliw r s
  | .sraiw r => Sys2Proof.Machine.execSraiw r s
  | .lui r => Sys2Proof.Machine.execLui r s
  | .auipc r => Sys2Proof.Machine.execAuipc r s
  | .mul r => Sys2Proof.Machine.execMul r s
  | .mulh r => Sys2Proof.Machine.execMulh r s
  | .mulhu r => Sys2Proof.Machine.execMulhu r s
  | .mulhsu r => Sys2Proof.Machine.execMulhsu r s
  | .div r => Sys2Proof.Machine.execDiv r s
  | .divu r => Sys2Proof.Machine.execDivu r s
  | .rem r => Sys2Proof.Machine.execRem r s
  | .remu r => Sys2Proof.Machine.execRemu r s
  | .clz r => Sys2Proof.Machine.execClz r s
  | .ctz r => Sys2Proof.Machine.execCtz r s
  | .popc r => Sys2Proof.Machine.execPopc r s
  | .rev8 r => Sys2Proof.Machine.execRev8 r s
  | .brev r => Sys2Proof.Machine.execBrev r s
  | .extu r => Sys2Proof.Machine.execExtu r s
  | .exts r => Sys2Proof.Machine.execExts r s
  | .ins r => Sys2Proof.Machine.execIns r s
  | .rol r => Sys2Proof.Machine.execRol r s
  | .ror r => Sys2Proof.Machine.execRor r s
  | .ldB r => Sys2Proof.Machine.execLdB r s
  | .ldBu r => Sys2Proof.Machine.execLdBu r s
  | .ldH r => Sys2Proof.Machine.execLdH r s
  | .ldHu r => Sys2Proof.Machine.execLdHu r s
  | .ldW r => Sys2Proof.Machine.execLdW r s
  | .ldWu r => Sys2Proof.Machine.execLdWu r s
  | .ldD r => Sys2Proof.Machine.execLdD r s
  | .stB r => Sys2Proof.Machine.execStB r s
  | .stH r => Sys2Proof.Machine.execStH r s
  | .stW r => Sys2Proof.Machine.execStW r s
  | .stD r => Sys2Proof.Machine.execStD r s
  | .msgD r => Sys2Proof.Machine.execMsgD r s
  | .msgW r => Sys2Proof.Machine.execMsgW r s
  | .msgB r => Sys2Proof.Machine.execMsgB r s
  | .msgN r w pos => Sys2Proof.Machine.execMsgN r w pos s
  | .msgEv r => Sys2Proof.Machine.execMsgEv r s
  | .amoadd wide r => Sys2Proof.Machine.execAmoadd wide r s
  | .amomin wide r => Sys2Proof.Machine.execAmomin wide r s
  | .amomax wide r => Sys2Proof.Machine.execAmomax wide r s
  | .amominu wide r => Sys2Proof.Machine.execAmominu wide r s
  | .amomaxu wide r => Sys2Proof.Machine.execAmomaxu wide r s
  | .amoand wide r => Sys2Proof.Machine.execAmoand wide r s
  | .amoor wide r => Sys2Proof.Machine.execAmoor wide r s
  | .amoxor wide r => Sys2Proof.Machine.execAmoxor wide r s
  | .amoswap wide r => Sys2Proof.Machine.execAmoswap wide r s
  | .amocas wide r => Sys2Proof.Machine.execAmocas wide r s
  | .amofadd wide r => Sys2Proof.Machine.execAmofadd wide r s
  | .logAdd narrow r => Sys2Proof.Machine.execLogAdd narrow r s
  | .logMin narrow r => Sys2Proof.Machine.execLogMin narrow r s
  | .logMax narrow r => Sys2Proof.Machine.execLogMax narrow r s
  | .logOr narrow r => Sys2Proof.Machine.execLogOr narrow r s
  | .logFadd narrow r => Sys2Proof.Machine.execLogFadd narrow r s
  | .logMerge => Sys2Proof.Machine.execLogMerge s
  | .fence sc pred succ => Sys2Proof.Machine.execFence sc pred succ s
  | .fenceX sc p c => Sys2Proof.Machine.execFenceX sc p c s
  | .fenceI => Sys2Proof.Machine.execFenceI s
  | .waita r => Sys2Proof.Machine.execWaita r s
  | .waitseq p r => Sys2Proof.Machine.execWaitseq p r s
  | .waitbo r => Sys2Proof.Machine.execWaitbo r s
  | .time d => Sys2Proof.Machine.execTime d s
  | .cycle d => Sys2Proof.Machine.execCycle d s
  | .sleepu r => Sys2Proof.Machine.execSleepu r s
  | .realign d => Sys2Proof.Machine.execRealign d s
  | .beq r => Sys2Proof.Machine.execBeq r s
  | .bne r => Sys2Proof.Machine.execBne r s
  | .blt r => Sys2Proof.Machine.execBlt r s
  | .bge r => Sys2Proof.Machine.execBge r s
  | .bltu r => Sys2Proof.Machine.execBltu r s
  | .bgeu r => Sys2Proof.Machine.execBgeu r s
  | .jal r => Sys2Proof.Machine.execJal r s
  | .jalr r => Sys2Proof.Machine.execJalr r s
  | .loopS l r imm => Sys2Proof.Machine.execLoopS l r imm s
  | .loopSi l n imm => Sys2Proof.Machine.execLoopSi l n imm s
  | .loopX l => Sys2Proof.Machine.execLoopX l s
  | .rgnOpen => Sys2Proof.Machine.execRgnOpen s
  | .rgnCommit => Sys2Proof.Machine.execRgnCommit s
  | .rgnLimit n => Sys2Proof.Machine.execRgnLimit n s
  | .rgnAbort => Sys2Proof.Machine.execRgnAbort s
  | .rgnQuery d => Sys2Proof.Machine.execRgnQuery d s
  | .snap d => Sys2Proof.Machine.execSnap d s
  | .ecall => Sys2Proof.Machine.execEcall s
  | .ebreak => Sys2Proof.Machine.execEbreak s
  | .trap r => Sys2Proof.Machine.execTrap r s
  | .eret => Sys2Proof.Machine.execEret s
  | .sysr d n => Sys2Proof.Machine.execSysr d n s
  | .sysw n r => Sys2Proof.Machine.execSysw n r s
  | .sysset n r => Sys2Proof.Machine.execSysset n r s
  | .sysclr n r => Sys2Proof.Machine.execSysclr n r s
  | .halt => Sys2Proof.Machine.execHalt s
  | .inject r => Sys2Proof.Machine.execInject r s
  | .grpid r => Sys2Proof.Machine.execGrpid r s
  | .grpsz r => Sys2Proof.Machine.execGrpsz r s
  | .gbar r => Sys2Proof.Machine.execGbar r s
  | .garrive r => Sys2Proof.Machine.execGarrive r s
  | .gwaitb r => Sys2Proof.Machine.execGwaitb r s
  | .follow => Sys2Proof.Machine.execFollow s
  | .unfollow => Sys2Proof.Machine.execUnfollow s
  | .lcore r => Sys2Proof.Machine.execLcore r s
  | .copyin r => Sys2Proof.Machine.execCopyin r s
  | .copyout r => Sys2Proof.Machine.execCopyout r s
  | .gather r => Sys2Proof.Machine.execGather r s
  | .mcast r => Sys2Proof.Machine.execMcast r s
  | .copyloc r => Sys2Proof.Machine.execCopyloc r s
  | .shfItin r => Sys2Proof.Machine.execShfItin r s
  | .shfRead r => Sys2Proof.Machine.execShfRead r s
  | .shfTake r => Sys2Proof.Machine.execShfTake r s
  | .shfRel r => Sys2Proof.Machine.execShfRel r s
  | .shfHold r => Sys2Proof.Machine.execShfHold r s
  | .shfStat r => Sys2Proof.Machine.execShfStat r s
  | .shfReread r => Sys2Proof.Machine.execShfReread r s
  | .scnCfg r => Sys2Proof.Machine.execScnCfg r s
  | .scnRun r => Sys2Proof.Machine.execScnRun r s
  | .scnRed r => Sys2Proof.Machine.execScnRed r s
  | .scnApply r => Sys2Proof.Machine.execScnApply r s
  | .scnClose d => Sys2Proof.Machine.execScnClose d s
  | .scnStat d => Sys2Proof.Machine.execScnStat d s
  | .cagrp r => Sys2Proof.Machine.execCagrp r s
  | .cldred r => Sys2Proof.Machine.execCldred r s
  | .cstred r => Sys2Proof.Machine.execCstred r s
  | .cgraph r => Sys2Proof.Machine.execCgraph r s
  | .crun r => Sys2Proof.Machine.execCrun r s
  | .cabort r => Sys2Proof.Machine.execCabort r s
  | .boset r => Sys2Proof.Machine.execBoset r s
  | .boq r => Sys2Proof.Machine.execBoq r s
  | .trcEmit r => Sys2Proof.Machine.execTrcEmit r s
  | .trcCfg r => Sys2Proof.Machine.execTrcCfg r s
  | .vadd r => Sys2Proof.Machine.execVadd r s
  | .vsub r => Sys2Proof.Machine.execVsub r s
  | .vaddsat r => Sys2Proof.Machine.execVaddsat r s
  | .vsubsat r => Sys2Proof.Machine.execVsubsat r s
  | .vmin r => Sys2Proof.Machine.execVmin r s
  | .vmax r => Sys2Proof.Machine.execVmax r s
  | .vminu r => Sys2Proof.Machine.execVminu r s
  | .vmaxu r => Sys2Proof.Machine.execVmaxu r s
  | .vand r => Sys2Proof.Machine.execVand r s
  | .vor r => Sys2Proof.Machine.execVor r s
  | .vxor r => Sys2Proof.Machine.execVxor r s
  | .vsll r => Sys2Proof.Machine.execVsll r s
  | .vsrl r => Sys2Proof.Machine.execVsrl r s
  | .vsra r => Sys2Proof.Machine.execVsra r s
  | .vmul r => Sys2Proof.Machine.execVmul r s
  | .vmulh r => Sys2Proof.Machine.execVmulh r s
  | .vcmpeq r => Sys2Proof.Machine.execVcmpeq r s
  | .vcmplt r => Sys2Proof.Machine.execVcmplt r s
  | .vcmpltu r => Sys2Proof.Machine.execVcmpltu r s
  | .vsel r => Sys2Proof.Machine.execVsel r s
  | .vmov r => Sys2Proof.Machine.execVmov r s
  | .vbcast r => Sys2Proof.Machine.execVbcast r s
  | .vextr r => Sys2Proof.Machine.execVextr r s
  | .vins r => Sys2Proof.Machine.execVins r s
  | .vfadd r => Sys2Proof.Machine.execVfadd r s
  | .vfsub r => Sys2Proof.Machine.execVfsub r s
  | .vfmul r => Sys2Proof.Machine.execVfmul r s
  | .vfma r => Sys2Proof.Machine.execVfma r s
  | .vfms r => Sys2Proof.Machine.execVfms r s
  | .vfnma r => Sys2Proof.Machine.execVfnma r s
  | .vfmin r => Sys2Proof.Machine.execVfmin r s
  | .vfmax r => Sys2Proof.Machine.execVfmax r s
  | .vfabs r => Sys2Proof.Machine.execVfabs r s
  | .vfneg r => Sys2Proof.Machine.execVfneg r s
  | .vfcmpeq r => Sys2Proof.Machine.execVfcmpeq r s
  | .vfcmplt r => Sys2Proof.Machine.execVfcmplt r s
  | .vfcmple r => Sys2Proof.Machine.execVfcmple r s
  | .vfclass r => Sys2Proof.Machine.execVfclass r s
  | .vcvtn r => Sys2Proof.Machine.execVcvtn r s
  | .vcvtw r => Sys2Proof.Machine.execVcvtw r s
  | .vcvtsr r => Sys2Proof.Machine.execVcvtsr r s
  | .vcvti r => Sys2Proof.Machine.execVcvti r s
  | .vcvtf r => Sys2Proof.Machine.execVcvtf r s
  | .vqscale r => Sys2Proof.Machine.execVqscale r s
  | .vquant r => Sys2Proof.Machine.execVquant r s
  | .vdeq r => Sys2Proof.Machine.execVdeq r s
  | .vredadd r => Sys2Proof.Machine.execVredadd r s
  | .vredmax r => Sys2Proof.Machine.execVredmax r s
  | .vredmin r => Sys2Proof.Machine.execVredmin r s
  | .vfredadd r => Sys2Proof.Machine.execVfredadd r s
  | .vfredmax r => Sys2Proof.Machine.execVfredmax r s
  | .vperm r => Sys2Proof.Machine.execVperm r s
  | .vrot r => Sys2Proof.Machine.execVrot r s
  | .vslide r => Sys2Proof.Machine.execVslide r s
  | .vexp2 r => Sys2Proof.Machine.execVexp2 r s
  | .vlog2 r => Sys2Proof.Machine.execVlog2 r s
  | .vrcp r => Sys2Proof.Machine.execVrcp r s
  | .vrsqrt r => Sys2Proof.Machine.execVrsqrt r s
  | .vsigm r => Sys2Proof.Machine.execVsigm r s
  | .vtanh r => Sys2Proof.Machine.execVtanh r s
  | .verf r => Sys2Proof.Machine.execVerf r s
  | .kand kd ka kb => Sys2Proof.Machine.execKand kd ka kb s
  | .kor kd ka kb => Sys2Proof.Machine.execKor kd ka kb s
  | .kxor kd ka kb => Sys2Proof.Machine.execKxor kd ka kb s
  | .knot kd ka => Sys2Proof.Machine.execKnot kd ka s
  | .kmovx kd ka kb => Sys2Proof.Machine.execKmovx kd ka kb s
  | .kmovk kd ka => Sys2Proof.Machine.execKmovk kd ka s
  | .kpopc kd ka => Sys2Proof.Machine.execKpopc kd ka s
  | .kfirst kd ka => Sys2Proof.Machine.execKfirst kd ka s
  | .strmBind n => Sys2Proof.Machine.execStrmBind n s
  | .strmCfg n va la => Sys2Proof.Machine.execStrmCfg n va la s
  | .strmFree n => Sys2Proof.Machine.execStrmFree n s
  | .strmStat vd n => Sys2Proof.Machine.execStrmStat vd n s
  | .vld r => Sys2Proof.Machine.execVld r s
  | .vst r => Sys2Proof.Machine.execVst r s
  | .vlds r => Sys2Proof.Machine.execVlds r s
  | .vsts r => Sys2Proof.Machine.execVsts r s
  | .vldg r => Sys2Proof.Machine.execVldg r s
  | .vstsc r => Sys2Proof.Machine.execVstsc r s
  | .vldb r => Sys2Proof.Machine.execVldb r s
  | .vldacc r => Sys2Proof.Machine.execVldacc r s
  | .mma r => Sys2Proof.Machine.execMma r s
  | .mmaz r => Sys2Proof.Machine.execMmaz r s
  | .mmaq d => Sys2Proof.Machine.execMmaq d s
  | .mmaqC d => Sys2Proof.Machine.execMmaqC d s
  | .ringset n r => Sys2Proof.Machine.execRingset n r s
  | .ringpush n r => Sys2Proof.Machine.execRingpush n r s
  | .ringpop n r => Sys2Proof.Machine.execRingpop n r s
  | .ringstat d n => Sys2Proof.Machine.execRingstat d n s
  | .ringclr n => Sys2Proof.Machine.execRingclr n s
  | .tiddef r => Sys2Proof.Machine.execTiddef r s
  | .tidget r => Sys2Proof.Machine.execTidget r s
  | .tidswap r => Sys2Proof.Machine.execTidswap r s
  | .tidinv r => Sys2Proof.Machine.execTidinv r s
  | .tsend r => Sys2Proof.Machine.execTsend r s
  | .tslotcfg r => Sys2Proof.Machine.execTslotcfg r s
  | .tslotq d => Sys2Proof.Machine.execTslotq d s
  | .clVadd r => Sys2Proof.Machine.execClVadd r s
  | .clVsub r => Sys2Proof.Machine.execClVsub r s
  | .clVmax r => Sys2Proof.Machine.execClVmax r s
  | .clVmin r => Sys2Proof.Machine.execClVmin r s
  | .clVand r => Sys2Proof.Machine.execClVand r s
  | .clVor r => Sys2Proof.Machine.execClVor r s
  | .clVxor r => Sys2Proof.Machine.execClVxor r s
  | .clVmov r => Sys2Proof.Machine.execClVmov r s
  | .clVfadd r => Sys2Proof.Machine.execClVfadd r s
  | .clVfsub r => Sys2Proof.Machine.execClVfsub r s
  | .clVfmul r => Sys2Proof.Machine.execClVfmul r s
  | .clVfmax r => Sys2Proof.Machine.execClVfmax r s
  | .clVfmin r => Sys2Proof.Machine.execClVfmin r s
  | .clVfmacv r => Sys2Proof.Machine.execClVfmacv r s
  | .vabs r => Sys2Proof.Machine.execVabs r s
  | .clVfabs r => Sys2Proof.Machine.execClVfabs r s
  | .cAddi d imm => Sys2Proof.Machine.execCAddi d imm s
  | .cMv d a => Sys2Proof.Machine.execCMv d a s
  | .cLi d imm => Sys2Proof.Machine.execCLi d imm s
  | .cLdl d imm => Sys2Proof.Machine.execCLdl d imm s
  | .cStl d imm => Sys2Proof.Machine.execCStl d imm s
  | .cBeqz d imm => Sys2Proof.Machine.execCBeqz d imm s
  | .cBnez d imm => Sys2Proof.Machine.execCBnez d imm s
  | .cRgn => Sys2Proof.Machine.execCRgn s

end Sys2Proof.Machine
end

