-- ==== Sys2Proof/Machine/Cycle.lean ====
section
/-! DEFINITION. What the machine does next within a cycle, and the passing of a cycle. One step is one event, one
instruction, one wait that returns, one kill by the firmware, or the end of the cycle (log entry 25). What builds an
instruction is marked noncomputable (see Decode); the kernel evaluates all of it. -/

namespace Sys2Proof.Machine

noncomputable section

/-- Whether a step of the table is an event, and not an instruction: events have no encoding. -/
def isEvent (i : Instr) : Bool := (encode i).isNone

/-- What the machine does next. -/
inductive Todo where
  | event (i : Instr) (s : State)
  | issue (id : CoreId)
  | follow (id : CoreId) (f : Forward)
  | wake (ids : List CoreId)
  | kill (lh : Nat)
  | roll (lh : Nat)
  | tick

/-- The first element that a test accepts, and the rest. -/
def takeFirst {α : Type} (p : α → Bool) (l : List α) : Option (α × List α) :=
  match l with
  | [] => none
  | a :: t => if p a then some (a, t) else (takeFirst p t).map (fun r => (r.1, a :: r.2))

/-- The cores whose die does not lose the current cycle: only they do anything in it, R385. -/
def State.live (s : State) : List Core := s.cores.filter (fun c => !s.withheld c.die)
/-- The tour that waits for a parking slot and obtains one now. -/
def State.tourStarts (s : State) : Option Nat :=
  (s.firstTour [] s.tours).filter (fun n => match (s.tour? n).bind (fun t => s.core? t.core) with
    | some c => !s.withheld c.die
    | none => true)
/-- Whether a core issues an instruction that it fetches itself in this cycle. -/
def State.canIssue (s : State) (c : Core) : Bool := c.run == .ready && decide (c.nextIssue ≤ s.now) && !s.follower c
/-- The forwarded instruction that a follower issues in this cycle. -/
def State.canFollow (s : State) (c : Core) : Option Forward :=
  if c.run == .ready && decide (c.nextIssue ≤ s.now) && s.follower c then
    match c.forwards with
    | f :: _ => if f.due ≤ s.now then some f else none
    | [] => none
  else none

/-- Whether a core sleeps in a wait that ends now. -/
def State.waitEnds (s : State) (c : Core) : Bool :=
  match c.run with
  | .waiting w => s.due c w
  | _ => false
/-- Whether the event lines on which cores of a gang sleep hold a raise for each of them: a raise wakes one load, R272. -/
def State.raisesCover (s : State) (mates : List Core) : Bool :=
  mates.all (fun d => match d.run with
    | .waiting (.eventLine i _ _) =>
      let same := mates.filter (fun e => s.evCluster e == s.evCluster d && e.ctx == d.ctx &&
        (match e.run with | .waiting (.eventLine j _ _) => j == i | _ => false))
      decide (same.length ≤ nth (s.evset (s.evCluster d) d.ctx).events.toList i 0)
    | _ => true)
/-- The cores whose waits end together: the core itself, or every member of its slaved gang (R202); the hold of RGN.COMMIT
is each core's own. -/
def State.wakers (s : State) (c : Core) : Option (List CoreId) :=
  if !c.slaved || c.run == .waiting .drain then (if s.waitEnds c then some [c.id] else none)
  else if c.id.lc % s.gangOf c ≠ 0 then none
  else
    let mates := s.cores.filter (fun d => d.id.lh == c.id.lh && d.id.twin == c.id.twin && d.slaved &&
      d.id.lc / s.gangOf c == c.id.lc / s.gangOf c)
    if mates.all (fun d => !s.withheld d.die && s.waitEnds d && d.forwards.isEmpty) && s.raisesCover mates then some (mates.map (·.id)) else none

/-- The step that ends waits: an event for SLEEPU and for a WAITA that its deadline ends, else the return itself. -/
def State.wakeStep (s : State) (ids : List CoreId) : Todo :=
  match ids with
  | [id] =>
    match s.core? id with
    | some c =>
      match c.run with
      | .waiting (.sleepu _) => .event (.sleepuExpiry id) s
      | .waiting (.arm _ slots _) => if (c.firing slots).isSome then .wake ids else .event (.waitaDeadline id) s
      | _ => .wake ids
    | none => .wake ids
  | _ => .wake ids

/-- The first result of a list of cores. -/
def firstOf {α : Type} (f : Core → Option α) : List Core → Option α
  | [] => none
  | c :: t => match f c with | some a => some a | none => firstOf f t

/-- The write in flight that is visible now, R44. -/
def State.landing (s : State) (c : Core) : Option Instr :=
  if c.flights.any (fun f => decide (f.due ≤ s.now)) then some (.registerWriteLanding c.id) else none
/-- Whether a twin has offered a BOSET of an object in a line, which is still to be compared and written. -/
def Core.bosetOffered (c : Core) (ln : Nat) : Bool :=
  c.mirror.any (fun m => match m.item.item with | .cmd _ _ (.boset a (some _)) => a / 64 == ln | _ => false)
/-- The drain of a core in this cycle, R348: a line and a BOSET wait for their bank (R15), an MSG.EV for what it releases (R172). -/
def State.draining (s : State) (c : Core) : Option Instr :=
  if s.now < c.nextDrain then none else
  match s.dropFences c with
  | [] => if c.drainq.isEmpty then none else some (.commandDrain c.id)
  | d :: _ => match d.item with
    | .cmd _ _ (.boset a (some _)) => if !(s.recOf c.id.lh).mirror && s.bankBusy c a then none else some (.commandDrain c.id)
    | .cmd .. | .slotSel .. | .ring .. => some (.commandDrain c.id)
    | .fence .. => none
    | .act .. => some (.storeLineDrain c.id)
    | .line ln _ => if s.bankBusy c (64 * ln) || c.bosetOffered ln then none else some (.storeLineDrain c.id)
    | .msg _ _ (.event _) => if s.sent c .device then some (.storeLineDrain c.id) else none
    | .msg .. | .log .. => some (.storeLineDrain c.id)

/-- The oldest command of an engine of a core that has nothing left to do but complete, R28, R207. -/
def State.completing (s : State) (c : Core) : Option Instr :=
  if c.id.twin then none else
  match s.headDone c .copy with
  | some n => some (.copyCompletion c.id n)
  | none =>
    match s.headDone c .sheaf with
    | some n => some (.sheafCommandCompletion c.id n)
    | none => s.collReady c
/-- What the engines start beside the drains: a gang's matrix command, the comparison of a mirror pair's items. -/
def State.starting (s : State) (c : Core) : Option Instr :=
  match s.gangWaiting c with
  | some i => some i
  | none => s.mirrorNext c

/-- What the firmware does of itself: a trapped launch's kill, once every timed line that has left its sender has landed (R307), the completion of a kernel, the watchdog limits and the quantum, and
the vacate of a quarantined core, R34, R250, R251, R334, R364. -/
def State.firmware (s : State) : Option Todo :=
  let f (l : Launch) : Option Todo :=
    if l.status == .eligible && l.effPrio < 7 && s.partReady l.ctx && decide (s.timeNs ≥ l.eligibleAt + 1000000 * (l.effPrio - l.lrec.prio + 1)) then
      some (.event (.priorityAging l.h) s)
    else if l.status != .started then none else
    let lim (i : Nat) : Nat := nth l.lrec.wd i 0
    if (match l.doomed with | some n => decide (n ≤ s.now) | none => false) && !s.tlines.any (fun t => t.core.lh == l.h) then some (.kill l.h)
    else if l.rollAt.isNone && (match l.rolling with | some n => decide (n ≤ s.timeFine) | none => false) then some (.roll l.h)
    else if s.finished l then some (.event (.kernelCompletion l.h) s)
    else if l.wdLevel < 1 && lim 0 != 0 && decide (l.residentNs ≥ lim 0 * 66000) then some (.event (.watchdogLimit1 l.h) s)
    else if l.wdLevel < 2 && lim 1 != 0 && decide (l.residentNs ≥ lim 1 * 66000) then some (.event (.watchdogLimit2 l.h) s)
    else if l.lrec.quantum != 0 && !l.quantumOut && decide (l.quantumNs ≥ l.lrec.quantum * 66000) then
      some (.event (.quantumExpiry l.h) s)
    else none
  match s.quarantineVacate with
  | some i => some (.event i s)
  | none => l3 s.launches f
where
  /-- The first of the launches with something to do. -/
  l3 : List Launch → (Launch → Option Todo) → Option Todo
  | [], _ => none
  | l :: t, f => match f l with | some x => some x | none => l3 t f

/-- Whether an input falls behind the issues of its cycle: an error is detected in the region that is open then, R353. -/
def isLate : Instr → Bool
  | .detectedError .. => true
  | _ => false
/-- The next step of the machine: the inputs of the cycle, what comes before its issues, the instructions, what comes after
them, and the end of the cycle. -/
def State.todo (s : State) : Todo :=
  match takeFirst (fun x => decide (x.1 ≤ s.now) && isEvent x.2 && !isLate x.2) s.inputs with
  | some (x, t) => .event x.2 { s with inputs := t }
  | none =>
  match firstOf s.landing s.live with
  | some i => .event i s
  | none =>
  match takeFirst (fun x => decide (x.1 ≤ s.timeFine)) s.timers with
  | some (x, t) => .event x.2 { s with timers := t }
  | none =>
  match takeFirst (fun d => !d.post && decide (d.at_ ≤ s.now)) s.agenda with
  | some (d, t) => .event d.ev { s with agenda := t }
  | none =>
  match firstOf s.completing s.live with
  | some i => .event i s
  | none =>
  match firstOf (fun c => if s.canIssue c then some c.id else none) s.live with
  | some id => .issue id
  | none =>
  match firstOf (fun c => (s.canFollow c).map (fun f => (c.id, f))) s.live with
  | some (id, f) => .follow id f
  | none =>
  match takeFirst (fun x => decide (x.1 ≤ s.now) && isLate x.2) s.inputs with
  | some (x, t) => .event x.2 { s with inputs := t }
  | none =>
  match takeFirst (fun d => d.post && decide (d.at_ ≤ s.now)) s.agenda with
  | some (d, t) => .event d.ev { s with agenda := t }
  | none =>
  match firstOf s.draining s.live with
  | some i => .event i s
  | none =>
  match firstOf s.starting s.live with
  | some i => .event i s
  | none =>
  match s.tourStarts with
  | some n => .event (.tourReadStart n) s
  | none =>
  match firstOf s.completing s.live with
  | some i => .event i s
  | none =>
  match firstOf s.wakers s.live with
  | some ids => s.wakeStep ids
  | none =>
  match s.firmware with
  | some t => t
  | none => .tick

/-- The instruction a core fetches at its program counter, or the event that the fetch raises instead, R35, R36, R52. -/
def Core.fetch (c : Core) : Instr :=
  match decode c.codeFrom with
  | .ok (i, _) => i
  | .error .outsideText => .outsideLoadedText
  | .error (.illegal w) => .illegal w
/-- The length of the instruction at the program counter, R35. -/
def Core.instrSize (c : Core) : Nat := if (nth c.codeFrom 0 1).getLsbD 0 then wordSize else halfSize

/-- The issue of the core in front: the instruction at its program counter, or its passing over after ERET with SKIP (R335). -/
def State.issueCore (s : State) : Out :=
  if s.core.skip && s.core.pc == s.core.epc then
    .next { s with core := { s.core with skip := false }.advance s.now s.core.instrSize }
  else exec s.core.fetch s

/-- Whether an instruction has issued, and not been held or trapped, between two states of its core. -/
def issued (c c' : Core) : Bool := c'.id == c.id && (c'.iseq == c.iseq + 1 || (match c'.run with | .waiting _ => true | _ => false))

/-- The leader's instruction forwarded to the followers of its slaved gang, two cycles a hop later, R21. -/
def State.forward (s : State) (c : Core) (gang : Nat) : State :=
  s.mapCores (fun d => d.id.lh == c.id.lh && d.id.twin == c.id.twin && d.slaved && d.id != c.id && d.id.lc / gang == c.id.lc / gang)
    (fun d => { d with forwards := d.forwards ++
      [⟨s.now + 2 * (d.id.lc % gang), c.pc, s.core.pc, s.core.arch.lc, s.core.arch.ls, s.core.arch.le, s.core.nextIssue - s.now⟩] })

/-- The issue of a core that fetches for itself. -/
def State.issueOf (s : State) (id : CoreId) : Out :=
  let s := s.focus id
  if !s.core.slaved then s.issueCore else
  match s.issueCore with
  | .next t => .next (if issued s.core t.core then t.forward s.core (s.gangOf s.core) else t)
  | .fault r => .fault r
  | .refused r => .refused r

/-- Whether an instruction decides where its core goes on: a branch, a jump or the set-up of a loop. -/
def decidesFlow : Instr → Bool
  | .beq .. | .bne .. | .blt .. | .bge .. | .bltu .. | .bgeu .. | .cBeqz .. | .cBnez .. | .jal .. | .jalr .. | .loopS .. | .loopSi .. => true
  | _ => false
/-- The issue of a forwarded instruction in a follower: the leader has decided the next address, with the cycles that going there takes, and
the loops, R276. -/
def State.followOf (s : State) (id : CoreId) (f : Forward) : Out :=
  let s := s.focus id
  let s := { s with core := { s.core with pc := f.pc } }
  match s.issueCore with
  | .next t =>
    if issued s.core t.core then
      let c := { t.core with forwards := t.core.forwards.tail }
      let a := { c.arch with lc := f.lc, ls := f.ls, le := f.le }
      let at_ := if decidesFlow s.core.fetch then s.now + f.cost else c.nextIssue
      .next { t with core := if c.run == .ready then { c with pc := f.npc, arch := a, nextIssue := at_ } else c }
    else .next t
  | .fault r => .fault r
  | .refused r => .refused r

/-- The waits of a list of cores return. -/
def State.wakeAll (s : State) : List CoreId → Out
  | [] => .next s
  | id :: t =>
    let s := s.focus id
    match s.core.run with
    | .waiting w => match s.run (s.finish w) with
      | .next s' => s'.wakeAll t
      | .fault r => .fault r
      | .refused r => .refused r
    | _ => s.wakeAll t

/-! ### The passing of a cycle (R2, R251, R258, R377, R385) -/

/-- The correction of one cycle's TIME while a slew lasts: at most 500 ppm, R377. -/
def slewStep (left : Int) : Int := if left > 10 then 10 else if left < -10 then -10 else left

/-- The core whose cycles an event of the agenda counts when its time spans no other die. What is due at a TIME stands in `timers`. -/
def State.eventCore (s : State) : Instr → Option CoreId
  | .registerWriteLanding c | .storeLineDrain c | .commandDrain c | .sleepuExpiry c | .waitaDeadline c | .copyCompletion c _
  | .scanCommandCompletion c | .carryDelivery c | .cagrpCompletion c _ | .collCompletion c _ | .memberAbsent c _ _ | .regionReentry c
  | .chunkWrite c _ _ | .reductionStart c _ _ | .sheafCommandCompletion c _ | .scopeAcknowledgement c => some c
  | .dynamicLineLanding id | .mcastDelivery id =>
    match s.delivs.find? (fun d => d.id == id) with
    | some d => some d.core
    | none => (s.accs.find? (fun a => a.id == id)).map (·.core)
  | .messageArrival id | .logEntryArrival id => (s.packets.find? (fun p => p.id == id)).map (fun p => ⟨p.lh, p.dst, false⟩)
  | .tsendLanding id => (s.tlines.find? (fun t => t.id == id)).map (·.core)
  | .mmaGangStart lh g _ | .mmaCompletion lh g _ => some ⟨lh, g * Nat.max 1 (s.recOf lh).gang, false⟩
  | .holdLimitExpiry id i | .tileArrival id i | .gleaningDelivery id i => (s.tour? id).map (fun t => t.coreAt i)
  | .mirrorResyncComplete lh lc => some ⟨lh, lc, false⟩
  | _ => none

/-- A count of cycles that ends at a cycle put off by the current one, which does not count, R385. -/
def putOff (now t : Nat) : Nat := if t < now then t else t + 1
/-- A command in flight in a core that loses a cycle: what it counts from its commit does too. -/
def Inflight.putOff (now : Nat) (x : Inflight) : Inflight :=
  { x with base := x.base + 1, due := if x.legs.isEmpty then Machine.putOff now x.due else x.due }
/-- The parts of a command's time that spans dies: put off when the current cycle does not count. -/
def Inflight.legsOff (lost : BitVec 4) (now : Nat) (x : Inflight) : Inflight :=
  if legsLate lost now x.legs then { x with due := Machine.putOff now x.due, legs := Machine.legsOff now x.legs } else x
/-- The scan engine of a core that loses a cycle. -/
def Scan.putOff (now : Nat) (sc : Scan) : Scan :=
  { sc with
    queue := sc.queue.map (fun x => { x with at_ := x.at_ + 1 })
    running := sc.running.map (Machine.putOff now)
    free := sc.free + 1
    carries := sc.carries.map (fun y => { y with at_ := y.at_ + 1 })
    prevAt := sc.prevAt + 1
    res := sc.res.map (fun r => { r with next := Machine.putOff now r.next }) }

/-- A core that loses the current cycle: everything that it and its engines count in cycles comes a cycle later, R385. -/
def Core.delay (now : Nat) (c : Core) : Core :=
  let off := putOff now
  { c with
    nextIssue := off c.nextIssue
    nextDrain := off c.nextDrain
    firstAt := off c.firstAt
    flights := c.flights.map (fun f => { f with due := off f.due })
    bankUse := c.bankUse.map (fun u => { u with lo := off u.lo, hi := off u.hi })
    window := c.window.map (· + 1)
    forwards := c.forwards.map (fun f => { f with due := off f.due })
    drainq := c.drainq.map (fun d => { d with base := d.base + 1 })
    mirror := c.mirror.map (fun m => { m with at_ := m.at_ + 1, item := { m.item with base := m.item.base + 1 } })
    tails := c.tails.map (fun t => (t.1, t.2.1 + 1, t.2.2))
    mma := c.mma.map (fun x => { x with at_ := x.at_ + 1, started := x.started.map off, next := off x.next })
    copies := c.copies.map (Inflight.putOff now)
    shfs := c.shfs.map (Inflight.putOff now)
    colls := c.colls.map (Inflight.putOff now)
    scan := c.scan.putOff now }

/-- Whether the current cycle does not count for an entry of the agenda: a die of the part of its latency that the cycle belongs to loses it,
R386, or that of the core it concerns, R385. -/
def State.lateDue (s : State) (x : Due) : Bool :=
  if x.legs.isEmpty then
    (match (s.eventCore x.ev).bind s.core? with | some c => s.withheld c.die | none => false) && decide (s.now ≤ x.at_)
  else legsLate s.mgmt.lost s.now x.legs

/-- The counts in cycles of the current one, which some dies lose: in a lost cycle no count of a die's cores, engines, walkers and scrubs
advances, and a latency that spans dies counts only the cycles that the dies of its parts keep, R385, R386. -/
def State.loseCycle (s : State) : State :=
  if s.mgmt.lost = 0 then s else
  let late := (s.agenda.filter s.lateDue).map (·.ev)
  let lost (c : Core) : Bool := s.withheld c.die
  let stopLost (t : Tour) (i : Nat) : Bool := (((s.core? (t.coreAt i)).map lost).getD false)
  let t : State := { s with
    agenda := s.agenda.map (fun x => if s.lateDue x then { x with at_ := x.at_ + 1, legs := legsOff s.now x.legs } else x)
    packets := s.packets.map (fun p =>
      if late.contains (.messageArrival p.id) || late.contains (.logEntryArrival p.id) then { p with due := putOff s.now p.due } else p)
    tlines := s.tlines.map (fun t => if late.contains (.tsendLanding t.id) then { t with due := putOff s.now t.due } else t)
    delivs := s.delivs.map (fun d => if late.contains (.dynamicLineLanding d.id) then { d with ready := d.ready + 1 } else d)
    launches := s.launches.map (fun l => { l with
      rollAt := if s.cores.any (fun c => c.id.lh == l.h && lost c) then l.rollAt.map (putOff s.now) else l.rollAt
      carries := l.carries.map (fun m => if legsLate s.mgmt.lost s.now m.legs then { m with due := m.due + 1, legs := legsOff s.now m.legs } else m) })
    walks := s.walks.map (fun (w : Nat × Nat) => if s.withheld w.1 then (w.1, putOff s.now w.2) else w)
    mgmt := { s.mgmt with dieScrub := perDie (fun d => if s.withheld d.val then putOff s.now s.mgmt.dieScrub[d] else s.mgmt.dieScrub[d]) }
    phys := s.phys.map (fun p => if s.withheld (physDie p.1) then (p.1, { p.2 with scrubbed := putOff s.now p.2.scrubbed }) else p)
    tours := s.tours.map (fun t => { t with
      arrived := (List.range t.arrived.length).map (fun i => (t.arrivedAt i).map (fun a => if stopLost t i then a + 1 else a)) }) }
  let legs (l : List Inflight) : List Inflight := l.map (Inflight.legsOff s.mgmt.lost s.now)
  (t.mapCores lost (Core.delay s.now)).mapCores (fun _ => true) (fun c => { c with
    copies := legs c.copies, shfs := legs c.shfs, colls := legs c.colls })

/-- The undo lines of an Umbra launch that have been logged since drained into its parking area, with their index, R356, R358 (log
entry 45). -/
def State.drainUndo (s : State) : State :=
  (s.cores.filter (fun c => !c.id.twin && decide (c.undoSent < c.undo.length))).foldl (fun s c =>
    let s := ((List.range c.undo.length).drop c.undoSent).foldl (fun s i =>
      let u := nth c.undo i (0, [])
      (s.parkWrite c.id (256 * i) u.2).parkWrite c.id (1024 * 1024 + 2 * i) (leBytes 2 u.1)) s
    s.updCore c.id (fun c => { c with undoSent := c.undo.length })) s

/-- Whether a die loses the cycle that begins, R385: one that withholds cycles for CAP, and a hot one in the first cycle of each period and in a
free choice of the odd ones (log entry 72); at most half of a millisecond's cycles. -/
def State.loses (s : State) (d : Nat) : Bool :=
  decide (nth s.mgmt.heldNow.toList d 0 < halfPeriod) &&
  (decide (nth s.mgmt.withhold.toList d 0 > 0) ||
    (s.mgmt.hot.getLsbD d && s.now % 2 == 1 && (s.now % (2 * halfPeriod) == 1 || Config.heatLoses (4 * s.now + d))))
/-- The dies that lose the cycle that begins, counted, R385; WHELD is what the die that lost most has lost in a millisecond, R387. -/
def State.takeCycle (s : State) (newMs : Bool) : State :=
  let most := s.mgmt.heldNow.toList.foldl Nat.max 0
  let s := if newMs then { s with mgmt := { s.mgmt with whelp := most * 100 / (2 * halfPeriod), heldNow := Vector.replicate 4 0 } } else s
  let lost := (List.range 4).foldl (fun (b : BitVec 4) d => if s.loses d then b ||| BitVec.ofNat 4 (2 ^ d) else b) 0
  { s with mgmt := { s.mgmt with
    lost := lost
    throt := s.mgmt.throt || lost != 0
    heldNow := perDie (fun d => s.mgmt.heldNow[d] + nbit (s.loses d.val))
    withhold := perDie (fun d => s.mgmt.withhold[d] - nbit (s.loses d.val)) } }

/-- The end of a cycle: the lines of scan outputs and the groups of accumulator elements of this cycle are written; then TIME goes on, the counts in cycles and in resident time advance, the ticks that fall in the new cycle
come first in it, and the dies from which the new cycle is withheld lose it. The physical cores of halted cores are freed. -/
def State.clock (s0 : State) : State :=
  let s : State := { s0.scanLines.addParts.tileReads with dynUse := [] }
  let d := slewStep s.mgmt.slewing
  let step := 20000 + d.toNat - (-d).toNat
  let fine := s.timeFine + step
  let s1 : State := { s with now := s.now + 1, timeFine := fine }
  let s1 : State := { s1 with launches := s1.launches.map (fun (l : Launch) => match l.rollAt with
    | some n => if n ≤ s1.now then { l with rollAt := none, rolling := some (s1.timeFine + fineOf 2000) } else l
    | none => l) }
  let stops (c : Core) : Bool := c.resident && (((s.launch? c.id.lh).map (fun l => l.doomed.isSome)).getD false)
  let s1 : State := s1.mapCores stops (fun c => { c with run := .trapped })
  let s1 : State := s1.takeCycle (s.timeNs / 1000000 != s1.timeNs / 1000000)
  let s1 : State := (s1.mapCores (fun c => s1.isResident c && !s1.withheld c.die) (fun c => { c with cycles := c.cycles + 1 })).loseCycle
  let s1 : State := { s1 with
    launches := s1.launches.map (fun (l : Launch) =>
      if s1.cores.any (fun c => c.id.lh == l.h && s1.isResident c) then { l with residentNs := l.residentNs + step, quantumNs := l.quantumNs + step }
      else if s1.slots.any (fun p => p.2.lhandle == l.h && p.2.state == .bind) then { l with quantumNs := l.quantumNs + step } else l)
    mgmt := { s1.mgmt with slewing := s1.mgmt.slewing - d } }
  let s1 : State := s1.freeHalted.drainUndo.readsGo.cleaned
  s1.launches.foldl (fun (t : State) (l : Launch) =>
    if l.status == .started && l.lrec.timed && l.lrec.tick != 0 &&
        decide (s.timeNs / l.lrec.tick ≠ s1.timeNs / l.lrec.tick) then t.sched s1.now false (.tick l.h) else t) s1

end

end Sys2Proof.Machine
end

