-- ==== Sys2Proof/Machine/Step.lean ====
section
/-! DEFINITION. One step of the machine, and the placing of an instruction where the next step fetches it. -/

namespace Sys2Proof.Machine

/-- One step: one event, one instruction, the end of one wait, one kill, one stage of a rollback, or the end of the cycle (log entry 25). -/
noncomputable def step (s : State) : Host.Outcome State Fault Refusal :=
  match s.todo with
  | .event i t => exec i t
  | .issue id => s.issueOf id
  | .follow id f => s.followOf id f
  | .wake ids => s.wakeAll ids
  | .kill lh => .next (s.killLaunch lh)
  | .roll lh => .next (s.roll lh)
  | .tick => .next s.clock

/-- The core that runs a placed instruction: in the entry state of R33 with its code in place. -/
def Core.withCode (c : Core) (code : List Byte) : Core :=
  { c with code := code, gaps := [], pc := 0, run := .ready, nextIssue := 0, slaved := false, skip := false, flights := [] }

/-- The state with an instruction where the next step fetches it: loaded as the text of the core that issues next, at its
program counter, with nothing due before it (log entry 26). -/
def State.withFetchWord (s : State) (nbits w : Nat) : State :=
  { s with core := s.core.withCode (tableBytes nbits w), inputs := [], agenda := [], timers := [], mgmt := { s.mgmt with lost := 0 } }

end Sys2Proof.Machine
end

