-- ==== Sys2Proof/Certificates/Slice0/Obligations.lean ====
section
/-! DEFINITION. What the provers are asked to prove of this model: statements that formalise rules of the spec, over a small
vocabulary of formulas (namespace Claims). -/

set_option linter.unusedVariables false

namespace Sys2Proof.Claims

open Sys2Proof.Machine

/-! ### Vocabulary -/

/-- R43: a read of the integer register does not trap. -/
def readable (c : Core) (r : XReg) : Bool := c.liveX r || !c.dchk

/-- R43: the live bits after the last-use marks of a list of integer registers; a mark on x0 does nothing. -/
def killed (c : Core) (l : List (XReg × Bool)) : BitVec 32 :=
  l.foldl (fun v p => if p.2 && p.1 != (0 : XReg) then v &&& ~~~(1#32 <<< p.1.val) else v) c.arch.livex

/-- R11, R44: the write of an integer register that an instruction leaves in flight; x0 discards it. -/
def xwrite (c : Core) (now lat : Nat) (d : XReg) (v : Word) : List Flight :=
  if d = 0 then [] else [⟨c.iseq, now, now + lat, c.pc, .x d v, 0, false⟩]

/-- R44, R264: the core after an instruction that completed its issue and was no taken transfer: the live bits as given, the
writes `fl` in flight, the loop counts and the next address of R264, and the next instruction one cycle later. -/
def done (c : Core) (now size : Nat) (live : BitVec 32) (fl : List Flight) : Core :=
  { c with
    arch := { c.arch with livex := live, lc := (c.loopEnd size).1.lc }
    pc := (c.loopEnd size).2
    flights := c.flights ++ fl
    nextIssue := now + 1
    iseq := c.iseq + 1 }

/-- A core as it goes on at REGPC when its region starts again: still held behind an RGN.COMMIT whose region has not drained, R350. -/
def backIn (c : Core) : Run := if c.drainHold = true ∧ c.drainq ≠ [] then .waiting .drain else .ready

/-- The state with its issuing core replaced. -/
def withC (s : State) (c : Core) : State := { s with core := c }

/-- A 32-bit result, sign-extended (R105). -/
def w32 (n : Int) : Word := sx (BitVec.ofInt 32 n)
/-- The low 32 bits as a signed number. -/
def s32 (a : Word) : Int := (a.setWidth 32).toInt
/-- The field that X[b] describes, R108: its position and its length. -/
def fpos (b : Word) : Nat := b.toNat % 64
def flen (b : Word) : Nat := min (b.toNat / 256 % 128) (64 - fpos b)
/-- An integer held to −2^63 … 2^63 − 1. -/
def clampS (n : Int) : Int := max (-2 ^ 63) (min (2 ^ 63 - 1) n)

/-- R103, R105, R107, R108: the instructions of two sources, the latency of each (R44) and what it writes to X[d]. -/
noncomputable def two : List ((R3 → Instr) × Nat × (Word → Word → Word)) :=
  [(.add, 1, fun (a b : Word) => BitVec.ofInt 64 (a.toInt + b.toInt)),
   (.sub, 1, fun (a b : Word) => BitVec.ofInt 64 (a.toInt - b.toInt)),
   (.and, 1, fun (a b : Word) => a &&& b),
   (.or, 1, fun (a b : Word) => a ||| b),
   (.xor, 1, fun (a b : Word) => a ^^^ b),
   (.andn, 1, fun (a b : Word) => a &&& ~~~b),
   (.orn, 1, fun (a b : Word) => a ||| ~~~b),
   (.sll, 1, fun (a b : Word) => wd (a.toNat * 2 ^ (b.toNat % 64))),
   (.srl, 1, fun (a b : Word) => wd (a.toNat / 2 ^ (b.toNat % 64))),
   (.sra, 1, fun (a b : Word) => BitVec.ofInt 64 (a.toInt / 2 ^ (b.toNat % 64))),
   (.slt, 1, fun (a b : Word) => if a.toInt < b.toInt then 1 else 0),
   (.sltu, 1, fun (a b : Word) => if a.toNat < b.toNat then 1 else 0),
   (.min, 1, fun (a b : Word) => BitVec.ofInt 64 (min a.toInt b.toInt)),
   (.max, 1, fun (a b : Word) => BitVec.ofInt 64 (max a.toInt b.toInt)),
   (.minu, 1, fun (a b : Word) => wd (min a.toNat b.toNat)),
   (.maxu, 1, fun (a b : Word) => wd (max a.toNat b.toNat)),
   (.addsat, 1, fun (a b : Word) => BitVec.ofInt 64 (clampS (a.toInt + b.toInt))),
   (.subsat, 1, fun (a b : Word) => BitVec.ofInt 64 (clampS (a.toInt - b.toInt))),
   (.selnz, 1, fun (a b : Word) => if b = 0 then 0 else a)] ++
  [(.addw, 1, fun (a b : Word) => w32 (a.toInt + b.toInt)),
   (.subw, 1, fun (a b : Word) => w32 (a.toInt - b.toInt)),
   (.sllw, 1, fun (a b : Word) => w32 (a.toNat * 2 ^ (b.toNat % 32))),
   (.srlw, 1, fun (a b : Word) => w32 (a.toNat % 2 ^ 32 / 2 ^ (b.toNat % 32))),
   (.sraw, 1, fun (a b : Word) => w32 (s32 a / 2 ^ (b.toNat % 32))),
   (.mulw, 3, fun (a b : Word) => w32 (a.toInt * b.toInt)),
   (.mul, 3, fun (a b : Word) => BitVec.ofInt 64 (a.toInt * b.toInt)),
   (.mulh, 3, fun (a b : Word) => BitVec.ofInt 64 (a.toInt * b.toInt / 2 ^ 64)),
   (.mulhu, 3, fun (a b : Word) => wd (a.toNat * b.toNat / 2 ^ 64)),
   (.mulhsu, 3, fun (a b : Word) => BitVec.ofInt 64 (a.toInt * b.toNat / 2 ^ 64)),
   (.div, 20, fun (a b : Word) => if b = 0 then -1 else BitVec.ofInt 64 (a.toInt.tdiv b.toInt)),
   (.divu, 20, fun (a b : Word) => if b = 0 then -1 else wd (a.toNat / b.toNat)),
   (.rem, 20, fun (a b : Word) => if b = 0 then a else BitVec.ofInt 64 (a.toInt - b.toInt * a.toInt.tdiv b.toInt)),
   (.remu, 20, fun (a b : Word) => if b = 0 then a else wd (a.toNat - b.toNat * (a.toNat / b.toNat)))] ++
  [(.extu, 1, fun (a b : Word) => wd (a.toNat / 2 ^ fpos b % 2 ^ flen b)),
   (.exts, 1, fun (a b : Word) =>
      let f : Int := a.toNat / 2 ^ fpos b % 2 ^ flen b
      if flen b = 0 then 0 else BitVec.ofInt 64 (if f < 2 ^ (flen b - 1) then f else f - 2 ^ flen b)),
   (.rol, 1, fun (a b : Word) => a <<< (b.toNat % 64) ||| a >>> (64 - b.toNat % 64)),
   (.ror, 1, fun (a b : Word) => a >>> (b.toNat % 64) ||| a <<< (64 - b.toNat % 64))]

/-- R104, R105, R108: the instructions of one source, with d, a and the mark of each, and what it writes to X[d]. -/
noncomputable def one (imm : BitVec 11) (sh : BitVec 6) (shw : BitVec 5) (d a : XReg) (la : Bool) : List (Instr × (Word → Word)) :=
  let I : Word := sx imm
  [(.addi ⟨d, a, la, imm⟩, fun (x : Word) => BitVec.ofInt 64 (x.toInt + I.toInt)),
   (.andi ⟨d, a, la, imm⟩, fun (x : Word) => x &&& I),
   (.ori ⟨d, a, la, imm⟩, fun (x : Word) => x ||| I),
   (.xori ⟨d, a, la, imm⟩, fun (x : Word) => x ^^^ I),
   (.slti ⟨d, a, la, imm⟩, fun (x : Word) => if x.toInt < I.toInt then 1 else 0),
   (.sltiu ⟨d, a, la, imm⟩, fun (x : Word) => if x.toNat < I.toNat then 1 else 0),
   (.slli ⟨d, a, la, sh⟩, fun (x : Word) => wd (x.toNat * 2 ^ sh.toNat)),
   (.srli ⟨d, a, la, sh⟩, fun (x : Word) => wd (x.toNat / 2 ^ sh.toNat)),
   (.srai ⟨d, a, la, sh⟩, fun (x : Word) => BitVec.ofInt 64 (x.toInt / 2 ^ sh.toNat)),
   (.addiw ⟨d, a, la, imm⟩, fun (x : Word) => w32 (x.toInt + I.toInt)),
   (.slliw ⟨d, a, la, shw⟩, fun (x : Word) => w32 (x.toNat * 2 ^ shw.toNat)),
   (.srliw ⟨d, a, la, shw⟩, fun (x : Word) => w32 (x.toNat % 2 ^ 32 / 2 ^ shw.toNat)),
   (.sraiw ⟨d, a, la, shw⟩, fun (x : Word) => w32 (s32 x / 2 ^ shw.toNat)),
   (.clz ⟨d, a, la⟩, fun (x : Word) => if x = 0 then 64 else wd (63 - x.toNat.log2)),
   (.ctz ⟨d, a, la⟩, fun (x : Word) => wd (((List.range 64).find? x.getLsbD).getD 64)),
   (.popc ⟨d, a, la⟩, fun (x : Word) => wd (((List.range 64).map (fun i => (x.getLsbD i).toNat)).sum)),
   (.rev8 ⟨d, a, la⟩, fun (x : Word) => x.extractLsb' 0 8 ++ x.extractLsb' 8 8 ++ x.extractLsb' 16 8 ++ x.extractLsb' 24 8 ++
      x.extractLsb' 32 8 ++ x.extractLsb' 40 8 ++ x.extractLsb' 48 8 ++ x.extractLsb' 56 8),
   (.brev ⟨d, a, la⟩, fun (x : Word) => x.reverse)]

end Sys2Proof.Claims

open Sys2Proof Sys2Proof.Machine Sys2Proof.Claims

/-! ### Encodings -/

namespace Sys2Proof.Claims

/-- The four bytes of a word, the low byte first. -/
def bytesOfWord (w : BitVec 32) : List Byte := [w.extractLsb' 0 8, w.extractLsb' 8 8, w.extractLsb' 16 8, w.extractLsb' 24 8]
/-- The two bytes of a halfword. -/
def bytesOfHalf (h : BitVec 16) : List Byte := [h.extractLsb' 0 8, h.extractLsb' 8 8]

end Sys2Proof.Claims

/-- R35 to R41, R47 to R51: for every well-formed instruction that has an encoding (an event has none), the decoder reads back that
instruction from its bytes, with every operand at every value, whatever bytes follow. -/
def Obligations.DecodeEncode : Prop :=
  ∀ (i : Instr) (rest : List Byte), i.wf = true → ∃ bs, encodeBytes i = some bs ∧ decode (bs ++ rest) = .ok (i, rest)

/-- R52, R53: whatever the decoder accepts is a well-formed instruction, and its encoding is the very code that was read: no bit of a
code is ignored, and no two codes name one instruction. -/
def Obligations.EncodeDecode : Prop :=
  ∀ (c : Code) (i : Instr), decodeCode c = .ok i → i.wf = true ∧ encode i = some c

/-- R35: bit 0 of the first halfword gives the length, and only an instruction with a halfword outside the bytes cannot be read. -/
def Obligations.InstructionLength : Prop :=
  (∀ (b0 b1 : Byte) (rest : List Byte), b0.getLsbD 0 = false →
    decode (b0 :: b1 :: rest) = (match decodeCode (.half (b1 ++ b0)) with | .ok i => .ok (i, rest) | .error e => .error e)) ∧
  (∀ (b0 b1 b2 b3 : Byte) (rest : List Byte), b0.getLsbD 0 = true →
    decode (b0 :: b1 :: b2 :: b3 :: rest) =
      (match decodeCode (.word (b3 ++ b2 ++ b1 ++ b0)) with | .ok i => .ok (i, rest) | .error e => .error e)) ∧
  (∀ bs : List Byte, decode bs = .error .outsideText ↔
    bs.length < 2 ∨ bs.length < 4 ∧ ∃ b t, bs = b :: t ∧ b.getLsbD 0 = true)

/-- R52, R53 and R39: majors from 0x24, ECMD units 0, 1, 7 and 10 to 15, a set m3 bit of MMAQ's m3[2:1], bit 15 of C.MV, any bit of d or
imm6 in C.RGN, and the halfword 0 are no instructions; the error carries the code as fetched. -/
def Obligations.IllegalCodes : Prop :=
  (∀ w : BitVec 32, w.getLsbD 0 = true → 0x24 ≤ (w.extractLsb' 1 6).toNat → decodeCode (.word w) = .error (.illegal w)) ∧
  (∀ w : BitVec 32, w.getLsbD 0 = true → w.extractLsb' 1 6 = 0x17#6 →
    (w.extractLsb' 24 4).toNat ∈ [0, 1, 7, 10, 11, 12, 13, 14, 15] → decodeCode (.word w) = .error (.illegal w)) ∧
  (∀ w : BitVec 32, w.getLsbD 0 = true → w.extractLsb' 1 6 = 0x20#6 → w.extractLsb' 27 5 = 2#5 →
    w.getLsbD 25 = true ∨ w.getLsbD 26 = true → decodeCode (.word w) = .error (.illegal w)) ∧
  (∀ h : BitVec 16, h.extractLsb' 0 2 = 2#2 → h.extractLsb' 2 3 = 1#3 → h.getLsbD 15 = true →
    decodeCode (.half h) = .error (.illegal (h.setWidth 32))) ∧
  (∀ h : BitVec 16, h.extractLsb' 0 2 = 2#2 → h.extractLsb' 2 3 = 7#3 → h.extractLsb' 5 11 ≠ 0#11 →
    decodeCode (.half h) = .error (.illegal (h.setWidth 32))) ∧
  decodeCode (.half 0) = .error (.illegal 0)

/-- R37, R39, R40, R41 and R47: words put together from the tables, bit by bit, and what they stand for. -/
def Obligations.EncodingExamples : Prop :=
  decode (bytesOfWord 0b00000_000_1_0_00101_00100_00011_000000_1#32) = .ok (.add ⟨3, 4, 5, false, true⟩, []) ∧
  decode (bytesOfWord 0b000_10_000011_110_0_00110_00101_000001_1#32) = .ok (.srai ⟨5, 6, false, 3⟩, []) ∧
  decode (bytesOfWord 0b111111_11_0_1_00111_01001_11000_001001_1#32) = .ok (.stD ⟨9, 7, true, false, 0b11111111000#11⟩, []) ∧
  decode (bytesOfWord 0b00001_001_0_0_00010_00001_00100_010000_1#32) = .ok (.bne ⟨1, 2, false, false, 0b0000100100#10⟩, []) ∧
  decode (bytesOfWord 0b10000000000000000001_00001_010001_1#32) = .ok (.jal ⟨1, 0x80001#20⟩, []) ∧
  decode (bytesOfWord 0b000010_10_011_1_0_0010_0001_0011_011001_1#32) = .ok (.vfmul ⟨3, 1, 2, 2, 3, false, true⟩, []) ∧
  decode (bytesOfHalf 0b111101_00111_000_10#16) = .ok (.cAddi 7 0b111101#6, []) ∧
  decode (bytesOfHalf 0b0_1_0011_0101_1101_00#16) = .ok (.clVfmacv ⟨5, 3, true, false⟩, []) ∧
  decode (bytesOfHalf 0b000000_00000_111_10#16) = .ok (.cRgn, [])

/-! ### Scalar instructions -/

/-- R103, R104, R105, R107, R108, with R43 and R44: every instruction of two integer sources, and of one, its operands readable, answers a
next state in which its marks have killed its sources, the one write in flight is that of X[d] with the value of its table, and nothing
else has changed but the loop counts, the next address and the issue order. So do LUI, AUIPC, INS (R106, R108) and the compact C.ADDI, C.MV
and C.LI (R41); C.ADDI and INS read their destination too. -/
def Obligations.ScalarArithmetic : Prop :=
  (∀ p ∈ two, ∀ (r : R3) (s : State), readable s.core r.a = true → readable s.core r.b = true →
     exec (p.1 r) s = .next (withC s (done s.core s.now 4 (killed s.core [(r.a, r.la), (r.b, r.lb)])
       (xwrite s.core s.now p.2.1 r.d (p.2.2 (s.core.xval r.a) (s.core.xval r.b)))))) ∧
  (∀ (imm : BitVec 11) (sh : BitVec 6) (shw : BitVec 5) (d a : XReg) (la : Bool), ∀ p ∈ one imm sh shw d a la, ∀ s : State,
     readable s.core a = true →
     exec p.1 s = .next (withC s (done s.core s.now 4 (killed s.core [(a, la)]) (xwrite s.core s.now 1 d (p.2 (s.core.xval a)))))) ∧
  ∀ s : State,
    (∀ r : UOp, exec (.lui r) s =
      .next (withC s (done s.core s.now 4 s.core.arch.livex (xwrite s.core s.now 1 r.d (BitVec.ofInt 64 (r.imm.toInt * 4096)))))) ∧
    (∀ r : UOp, exec (.auipc r) s =
      .next (withC s (done s.core s.now 4 s.core.arch.livex
        (xwrite s.core s.now 1 r.d (BitVec.ofInt 64 (s.core.pc.toInt + r.imm.toInt * 4096)))))) ∧
    (∀ r : R3, readable s.core r.a = true → readable s.core r.b = true → readable s.core r.d = true → ∃ v : Word,
      (∀ i : Nat, i < 64 → v.getLsbD i =
        (if fpos (s.core.xval r.b) ≤ i ∧ i < fpos (s.core.xval r.b) + flen (s.core.xval r.b)
          then (s.core.xval r.a).getLsbD (i - fpos (s.core.xval r.b)) else (s.core.xval r.d).getLsbD i)) ∧
      exec (.ins r) s = .next (withC s (done s.core s.now 4 (killed s.core [(r.a, r.la), (r.b, r.lb)])
        (xwrite s.core s.now 1 r.d v)))) ∧
    (∀ (d : XReg) (imm : BitVec 6), readable s.core d = true → exec (.cAddi d imm) s =
      .next (withC s (done s.core s.now 2 s.core.arch.livex
        (xwrite s.core s.now 1 d (BitVec.ofInt 64 ((s.core.xval d).toInt + imm.toInt)))))) ∧
    (∀ d a : XReg, readable s.core a = true → exec (.cMv d a) s =
      .next (withC s (done s.core s.now 2 s.core.arch.livex (xwrite s.core s.now 1 d (s.core.xval a))))) ∧
    (∀ (d : XReg) (imm : BitVec 6), exec (.cLi d imm) s =
      .next (withC s (done s.core s.now 2 s.core.arch.livex (xwrite s.core s.now 1 d (BitVec.ofInt 64 imm.toInt)))))

/-! ### Registers, traps and control flow -/

/-- R43: with STATUS.DCHK = 1, an instruction of two sources, one of them dead, traps DEADREAD with the register's number in TVAL; the trap
is taken at the instruction's address, and nothing else happens. Of two dead sources the trap names a: that order is the model's
choice (log entry 103). -/
def Obligations.DeadReadTraps : Prop :=
  ∀ p ∈ two, ∀ (r : R3) (s : State), s.core.dchk = true →
    (s.core.liveX r.a = false → exec (p.1 r) s = .next (s.takeTrap ⟨.deadread, wd r.a.val⟩ s.core.pc)) ∧
    (s.core.liveX r.a = true → s.core.liveX r.b = false →
      exec (p.1 r) s = .next (s.takeTrap ⟨.deadread, wd r.b.val⟩ s.core.pc))

/-- R11, R43: what a register reads as. x0 reads 0 and k0 all ones, whatever is stored; a live register reads as its last visible
value; x0 is always live and no mark kills it. -/
def Obligations.HardWiredRegisters : Prop :=
  ∀ c : Core, c.xval 0 = 0 ∧ c.kval 0 = BitVec.allOnes 64 ∧ c.liveX 0 = true ∧ c.killX 0 true = c ∧
    (∀ now lat v, c.writeX now lat 0 v = c) ∧ (∀ now lat v, c.writeK now lat 0 v 0 = c) ∧ (∀ v, c.setX 0 v = c) ∧
    (∀ r : XReg, r ≠ 0 → c.arch.livex.getLsbD r = true → c.xval r = c.arch.x[r]) ∧
    (∀ k : KReg, k ≠ 0 → c.kval k = c.arch.k[k])

namespace Sys2Proof.Claims

/-- R129, R130, R348: a push of 64 bytes at A, of which `bytes` names those that are written, that finds its line aligned and in the scratchpad,
outside every held span, and room in the region. -/
def pushFits (c : Core) (A : Word) (bytes : BitVec 64) : Prop :=
  A.toNat % 64 = 0 ∧ A.toNat + 64 ≤ 0x100000 ∧ c.room (c.newLines [A.toNat]) = .ok () ∧
  ∀ (i : Nat) (k : Fin 8), i < 64 → bytes.getLsbD i = true → (c.rings[k]).holds ((A.toNat + i) / 64) = false

end Sys2Proof.Claims

/-- R44, R45, R96: a write of a register that lands gives the register its value and makes an integer or lane register live, dead or not
before, unless a later-issued write of the register has landed: then it is discarded. Every other register, memory and all else the core
holds but its record of what registers have held (R43) stay, and the write's flags are raised either way. R129: a write of a lane register
bound as a write stream leaves the register and is a push: its bytes join the region's buffer at the stream's next address, and the stream
moves on; a discarded one pushes nothing. -/
def Obligations.RegisterLanding : Prop :=
  (∀ (c : Core) (f : Flight),
    (∀ (r : XReg) (w : Word), f.dst = .x r w →
      (c.landX[r] > f.seq → c.landReg f = c) ∧
      (c.landX[r] ≤ f.seq → c.landReg f = { c with
        heldX := (c.landReg f).heldX
        arch := { c.arch with x := c.arch.x.set r w, livex := c.arch.livex ||| (1#32 <<< r.val) }
        landX := c.landX.set r f.seq } ∧
        (c.landReg f).arch.x[r] = w ∧ (c.landReg f).arch.livex.getLsbD r = true ∧
        (∀ q : XReg, q ≠ r → (c.landReg f).arch.x[q] = c.arch.x[q] ∧
          (c.landReg f).arch.livex.getLsbD q = c.arch.livex.getLsbD q))) ∧
    (∀ (r : VReg) (v : Lane) (bytes : BitVec 64), f.dst = .v r v bytes →
      (c.landV[r] > f.seq → c.landReg f = c) ∧
      (c.landV[r] ≤ f.seq → c.landReg f = { c with
        heldV := (c.landReg f).heldV
        arch := { c.arch with v := c.arch.v.set r v, livev := c.arch.livev ||| (1#16 <<< r.val) }
        landV := c.landV.set r f.seq } ∧
        (c.landReg f).arch.v[r] = v ∧ (c.landReg f).arch.livev.getLsbD r = true ∧
        (∀ q : VReg, q ≠ r → (c.landReg f).arch.v[q] = c.arch.v[q] ∧
          (c.landReg f).arch.livev.getLsbD q = c.arch.livev.getLsbD q))) ∧
    (∀ (k : KReg) (w : Word), f.dst = .k k w →
      (c.landK[k] > f.seq → c.landReg f = c) ∧
      (c.landK[k] ≤ f.seq → c.landReg f = { c with
        heldX := (c.landReg f).heldX
        arch := { c.arch with k := c.arch.k.set k w }
        landK := c.landK.set k f.seq } ∧
        (c.landReg f).arch.k[k] = w ∧ (∀ q : KReg, q ≠ k → (c.landReg f).arch.k[q] = c.arch.k[q])))) ∧
  (∀ (s : State) (id : CoreId) (c : Core) (f : Flight) (r : VReg) (v : Lane) (bytes : BitVec 64), s.core? id = some c →
    c.flights = [f] → f.due ≤ s.now → f.dst = .v r v bytes →
    ∃ t e, exec (.registerWriteLanding id) s = .next t ∧ t.core? id = some e ∧
      (c.bound r = false → e.flights = [] ∧ e.arch.fflags = c.arch.fflags ||| zx f.flags ∧ e.arch.streams = c.arch.streams ∧
        e.arch.v = (({ c with flights := [] } : Core).landReg f).arch.v ∧ e.arch.livev = (({ c with flights := [] } : Core).landReg f).arch.livev ∧
        e.arch.x = c.arch.x ∧ e.arch.k = c.arch.k ∧ e.mem = c.mem ∧ e.sbuf = c.sbuf) ∧
      (c.bound r = true → c.landV[r] > f.seq → e.flights = [] ∧ e.arch = { c.arch with fflags := c.arch.fflags ||| zx f.flags } ∧
        e.mem = c.mem ∧ e.sbuf = c.sbuf) ∧
      (c.bound r = true → c.landV[r] ≤ f.seq → c.inh = false → (c.stream r).write = true → (c.stream r).pos < (c.stream r).total →
        let A := (c.stream r).addr (c.stream r).pos
        pushFits c A bytes → e.flights = [] ∧
        e.arch = { c.arch with fflags := c.arch.fflags ||| zx f.flags, streams := e.arch.streams } ∧ e.mem = c.mem ∧
        e.stream r = { c.stream r with pos := (c.stream r).pos + 1 } ∧ (∀ n, n < 4 → n ≠ r.val → e.stream n = c.stream n) ∧
        ∀ a, e.byteAt a = if A.toNat ≤ a ∧ a < A.toNat + 64 ∧ bytes.getLsbD (a - A.toNat) = true
          then v.extractLsb' (8 * (a - A.toNat)) 8 else c.byteAt a))

/-- R264: the next address and the loop counts after an instruction of `size` bytes that is no taken transfer, here each of two integer
sources: loop 1 is examined first, then loop 0; an instruction at LE[i] of an active loop lowers LC[i] and goes
back to LS[i] unless the count reaches 0, and the next instruction issues in the next cycle; where both counts reach 0 at one instruction,
fetch falls through. In the trap handler loop ends are not matched (R265, R335). -/
def Obligations.LoopEnds : Prop :=
  (∀ p ∈ two, ∀ (r : R3) (s : State), readable s.core r.a = true → readable s.core r.b = true →
    ∃ t, exec (p.1 r) s = .next t ∧ t.core.arch.lc = (s.core.loopEnd 4).1.lc ∧ t.core.pc = (s.core.loopEnd 4).2 ∧
      t.core.nextIssue = s.now + 1) ∧
  (∀ (c : Core) (size : Nat),
    let n := c.loopEnd size
    let at1 := c.arch.lc[1] ≠ 0 ∧ c.pc = c.arch.le[1]
    let at0 := c.arch.lc[0] ≠ 0 ∧ c.pc = c.arch.le[0]
    (c.inh = true → n = (c.arch, c.pc + wd size)) ∧
    (c.inh = false → ¬ at1 → ¬ at0 → n = (c.arch, c.pc + wd size)) ∧
    (c.inh = false → at1 → c.arch.lc[1] ≠ 1 → n = ({ c.arch with lc := c.arch.lc.set 1 (c.arch.lc[1] - 1) }, c.arch.ls[1])) ∧
    (c.inh = false → ¬ at1 → at0 → c.arch.lc[0] ≠ 1 →
      n = ({ c.arch with lc := c.arch.lc.set 0 (c.arch.lc[0] - 1) }, c.arch.ls[0])) ∧
    (c.inh = false → ¬ at1 → at0 → c.arch.lc[0] = 1 → n = ({ c.arch with lc := c.arch.lc.set 0 0 }, c.pc + wd size)) ∧
    (c.inh = false → at1 → c.arch.lc[1] = 1 → ¬ at0 → n = ({ c.arch with lc := c.arch.lc.set 1 0 }, c.pc + wd size)) ∧
    (c.inh = false → at1 → c.arch.lc[1] = 1 → at0 → c.arch.lc[0] ≠ 1 →
      n = ({ c.arch with lc := (c.arch.lc.set 1 0).set 0 (c.arch.lc[0] - 1) }, c.arch.ls[0])) ∧
    (c.inh = false → at1 → c.arch.lc[1] = 1 → at0 → c.arch.lc[0] = 1 →
      n = ({ c.arch with lc := (c.arch.lc.set 1 0).set 0 0 }, c.pc + wd size)))

namespace Sys2Proof.Claims

/-- R265: the loop counts after a taken transfer to a target: it leaves loop i when the target lies outside LS[i] … LE[i]; leaving
loop 0 leaves loop 1 as well; that the handler's transfers leave none is the model's choice (log entry 23). -/
def exitLC (c : Core) (target : Word) : Vector Word 2 :=
  let out (i : Fin 2) : Bool :=
    c.arch.lc[i] != 0 && (decide (target.toNat < c.arch.ls[i].toNat) || decide (c.arch.le[i].toNat < target.toNat))
  if c.inh then c.arch.lc else if out 0 then #v[0, 0] else if out 1 then #v[c.arch.lc[0], 0] else c.arch.lc

/-- R44, R260: the core after a taken branch or jump: the target issues three cycles later. -/
def jumped (c : Core) (now : Nat) (target : Word) (live : BitVec 32) (fl : List Flight) : Core :=
  { c with
    arch := { c.arch with livex := live, lc := exitLC c target }
    pc := target
    flights := c.flights ++ fl
    nextIssue := now + 3
    iseq := c.iseq + 1 }

/-- R21, R276: a core that is no follower: its gang is not slaved, or it is the gang's member 0. -/
def leads (s : State) (c : Core) : Bool := !c.slaved || c.id.lc % max 1 (s.recOf c.id.lh).gang == 0

/-- R260: the branches and the condition of each. -/
noncomputable def branches : List ((BOp → Instr) × (Word → Word → Bool)) :=
  [(.beq, fun x y => decide (x = y)), (.bne, fun x y => decide (x ≠ y)),
   (.blt, fun x y => decide (x.toInt < y.toInt)), (.bge, fun x y => decide (y.toInt ≤ x.toInt)),
   (.bltu, fun x y => decide (x.toNat < y.toNat)), (.bgeu, fun x y => decide (y.toNat ≤ x.toNat))]

end Sys2Proof.Claims

/-- R260, R41: a conditional branch, its operands readable, goes to its own address plus the offset when its condition holds, and to
the next instruction when not; it writes nothing but the liveness of what it marks and the loop counts. R261: JAL and JALR put the address
of the next instruction in X[d] and go to their target; a JALR to an odd target traps MISALIGN, with the target in TVAL, but that a follower
of a slaved gang, whose leader decides its target (R276), does not. That a taken transfer of the trap handler leaves no loop is the model's
choice (log entry 23). -/
def Obligations.BranchesAndJumps : Prop :=
  ((∀ p ∈ branches, ∀ (r : BOp) (s : State), readable s.core r.a = true → readable s.core r.b = true →
     let live := killed s.core [(r.a, r.la), (r.b, r.lb)]
     exec (p.1 r) s = .next (withC s (if p.2 (s.core.xval r.a) (s.core.xval r.b)
       then jumped s.core s.now (s.core.pc + BitVec.ofInt 64 (2 * r.off.toInt)) live []
       else done s.core s.now 4 live []))) ∧
   (∀ (d : XReg) (imm : BitVec 6) (s : State), readable s.core d = true →
     exec (.cBeqz d imm) s = .next (withC s (if s.core.xval d = 0
       then jumped s.core s.now (s.core.pc + BitVec.ofInt 64 (2 * imm.toInt)) s.core.arch.livex []
       else done s.core s.now 2 s.core.arch.livex [])) ∧
     exec (.cBnez d imm) s = .next (withC s (if s.core.xval d ≠ 0
       then jumped s.core s.now (s.core.pc + BitVec.ofInt 64 (2 * imm.toInt)) s.core.arch.livex []
       else done s.core s.now 2 s.core.arch.livex [])))) ∧
  ((∀ (r : UOp) (s : State), exec (.jal r) s = .next (withC s (jumped s.core s.now (s.core.pc + BitVec.ofInt 64 (2 * r.imm.toInt))
     s.core.arch.livex (xwrite s.core s.now 1 r.d (s.core.pc + 4))))) ∧
   (∀ (r : IOp) (s : State), readable s.core r.a = true →
     let t := s.core.xval r.a + BitVec.ofInt 64 r.imm.toInt
     (t.toNat % 2 = 0 ∨ leads s s.core = false → exec (.jalr r) s = .next (withC s (jumped s.core s.now t (killed s.core [(r.a, r.la)])
       (xwrite s.core s.now 1 r.d (s.core.pc + 4))))) ∧
     (t.toNat % 2 = 1 → leads s s.core = true → exec (.jalr r) s = .next (s.takeTrap ⟨.misalign, t⟩ s.core.pc))))

namespace Sys2Proof.Claims

/-- R263: whether a loop may be set up: it is not active, loop 0 has no active loop 1, and loop 1 lies inside an active loop 0. -/
def mayLoop (c : Core) (i : Fin 2) (stop : Word) : Bool :=
  c.arch.lc[i] == 0 && (i == 1 || c.arch.lc[1] == 0) &&
  (i == 0 || c.arch.lc[0] == 0 || (decide (c.arch.ls[0].toNat ≤ (c.pc + 4).toNat) && decide (stop.toNat ≤ c.arch.le[0].toNat)))
/-- R263: the core behind a loop set up for n iterations, 0 or more: a count that is not 0 starts it at the next instruction, in the next
cycle; a count of 0 goes on behind the body, `skip` bytes after the loop's end, three cycles later. -/
def looped (c : Core) (now : Nat) (i : Fin 2) (n stop : Word) (live : BitVec 32) (skip : Nat) : Core :=
  if n = 0 then
    { c with arch := { c.arch with livex := live }, pc := stop + wd skip, nextIssue := now + 3, iseq := c.iseq + 1 }
  else
    let d := done c now 4 live []
    { d with arch := { d.arch with
        lc := d.arch.lc.set i n
        ls := d.arch.ls.set i (c.pc + 4)
        le := d.arch.le.set i stop } }
/-- R263: the length of the instruction at an address, by bit 0 of its halfword there; either where no code is loaded. -/
def lengthAt (c : Core) (a : Word) (n : Nat) : Prop :=
  (n = 2 ∨ n = 4) ∧ ∀ b0 b1 rest, c.codeAt a.toNat = b0 :: b1 :: rest → n = if b0.getLsbD 0 = true then 4 else 2

end Sys2Proof.Claims

/-- R263, R265: outside the handler, LOOP.S and LOOP.SI trap LOOPNEST, with the instruction's code in TVAL, when the loop is active, when loop
0 is set up while loop 1 is active, and when loop 1 would reach outside an active loop 0. Otherwise a count that is not 0 starts the loop at
the next instruction, in the next cycle, and a count of 0 goes on behind the body, 2 or 4 bytes after its end by bit 0 of the halfword
there, three cycles later. LOOP.X ends an active loop, and loop 1 with loop 0. -/
def Obligations.Loops : Prop :=
  ∀ s : State, s.core.inh = false →
    (∀ (i : Fin 2) (imm : BitVec 11) (j : Instr) (n : Word) (live : BitVec 32),
      ((∃ r : S1, j = .loopS i r imm ∧ readable s.core r.a = true ∧ n = s.core.xval r.a ∧ live = killed s.core [(r.a, r.la)]) ∨
        (∃ m : BitVec 5, j = .loopSi i m imm ∧ n = zx m ∧ live = s.core.arch.livex)) →
      let stop := s.core.pc + wd (2 * imm.toNat)
      (mayLoop s.core i stop = true → ∃ k, lengthAt s.core stop k ∧
        exec j s = .next { s with fresh := s.fresh + 1, core := looped s.core s.now i n stop live k }) ∧
      (mayLoop s.core i stop = false → exec j s = .next (s.takeTrap ⟨.loopnest, s.core.instrWord⟩ s.core.pc))) ∧
    (∀ i : Fin 2, exec (.loopX i) s = .next (withC s
      (done { s.core with arch := { s.core.arch with lc :=
        (if s.core.arch.lc[i] = 0 then s.core.arch.lc else if i = 0 then #v[0, 0] else #v[s.core.arch.lc[0], 0]) } }
        s.now 4 s.core.arch.livex [])))

namespace Sys2Proof.Claims

/-- R331, R334: the causes that STATUS delegates to the kernel's handler, DEADREAD by DDRD, MISALIGN by DMIS, EBREAK by DEBK and SWTRAP
by DSWT. -/
def delegated (status : Word) (c : Cause) : Bool :=
  (c == .deadread && status.getLsbD 7) || (c == .misalign && status.getLsbD 8) || (c == .ebreak && status.getLsbD 9) ||
  (c == .swtrap && status.getLsbD 10)

end Sys2Proof.Claims

/-- R333, R334, R335: taking a trap. Outside the handler, in a core whose gang is not slaved, the region is discarded: what it buffered
and what was in flight are dropped, and registers, liveness, loops, streams, seeds, STATUS and FFLAGS are those of the checkpoint; CAUSE,
TVAL and EPC are written. A cause that the checkpoint's STATUS delegates enters the handler: INH is set, and fetch goes on at TRAPVEC, in the
next cycle, which is the model's choice (log entry 106). Any other stops the core for the firmware. In the handler every trap goes to the firmware, and nothing is discarded. -/
def Obligations.TrapEntry : Prop :=
  ∀ (s : State) (t : Trap) (epc : Word), s.core.slaved = false → s.core.run = .ready →
    let e := (s.takeTrap t epc).core
    e.cause = wd t.cause.code ∧ e.tval = t.tval ∧ e.epc = epc ∧
    (s.core.inh = false →
      e.sbuf = [] ∧ e.flights = [] ∧ e.rings = s.core.erings ∧ e.mem = s.core.mem ∧ e.drainq = s.core.drainq ∧
      (delegated s.core.ckpt.status t.cause = true →
        e.arch = { s.core.ckpt with status := s.core.ckpt.status ||| 0x1000 } ∧ e.pc = s.core.trapvec ∧ e.run = .ready ∧
        e.nextIssue = s.now + 1) ∧
      (delegated s.core.ckpt.status t.cause = false → e.arch = s.core.ckpt ∧ e.run = .trapped)) ∧
    (s.core.inh = true → e.arch = s.core.arch ∧ e.sbuf = s.core.sbuf ∧ e.mem = s.core.mem ∧ e.run = .trapped)

/-- R337: EBREAK and TRAP raise EBREAK and SWTRAP, at their own address, TRAP with X[a] in TVAL, and do nothing else. -/
def Obligations.EbreakAndTrap : Prop :=
  ∀ s : State,
    exec .ebreak s = .next (s.takeTrap ⟨.ebreak, 0⟩ s.core.pc) ∧
    (∀ r : S1, readable s.core r.a = true → exec (.trap r) s = .next (s.takeTrap ⟨.swtrap, s.core.xval r.a⟩ s.core.pc))

/-- R27, R36, R48, R53, R335: the events that a fetch raises instead of an instruction trap. A reserved code traps ILLEGAL with the code as
fetched in TVAL, a fetch outside the loaded text ACCESS with the PC, and a management command in kernel mode ACCESS with TVAL 0xF8; in the
handler, where commands are forbidden, with 0xE0, which comes first by the model's choice (log entry 59). ERET outside the handler traps
ACCESS with TVAL 0xE3. R335: in the handler it clears INH and SKIP, takes the checkpoint from the registers as the handler leaves them (here
with no write in flight) and goes to REGPC, three cycles later; a push in flight holds it (log entry 21). With SKIP the re-entry is not
counted and the instruction at EPC will be passed over; without, REGCNT rises by one, within its limit, and past it REGION_LIMIT goes to the
firmware with the ERET's own address (R333, R352). A re-entry has its trace record (R340; log entry 32). -/
def Obligations.FetchTrapsAndEret : Prop :=
  (∀ s : State,
    (∀ w : BitVec 32, exec (.illegal w) s = .next (s.takeTrap ⟨.illegal, zx w⟩ s.core.pc)) ∧
    exec .outsideLoadedText s = .next (s.takeTrap ⟨.access, s.core.pc⟩ s.core.pc) ∧
    (∀ w : BitVec 32,
      (s.core.inh = true → exec (.ctxEcmd w) s = .next (s.takeTrap ⟨.access, 0xE0⟩ s.core.pc)) ∧
      (s.core.inh = false → s.core.arch.status.getLsbD 0 = false →
        exec (.ctxEcmd w) s = .next (s.takeTrap ⟨.access, 0xF8⟩ s.core.pc))) ∧
    (s.core.inh = false → exec .eret s = .next (s.takeTrap ⟨.access, 0xE3⟩ s.core.pc))) ∧
  (∀ s : State, s.core.inh = true →
    ((s.core.flights.any s.core.isPush) = true → exec .eret s = .next s.held) ∧
    (s.core.flights = [] →
      let a := { s.core.arch with status := s.core.arch.status &&& ~~~(0x1800 : Word) }
      let c := { s.core with arch := a, ckpt := a, pc := s.core.regpc, run := backIn s.core, nextIssue := s.now + 3, iseq := s.core.iseq + 1 }
      (s.core.arch.status.getLsbD 11 = true →
        exec .eret s = .next (State.trace (withC s { c with skip := true }) s.core.id 1 (0x100 + s.core.cause.toNat) s.core.tval)) ∧
      (s.core.arch.status.getLsbD 11 = false → s.core.regcnt < s.core.reglim →
        exec .eret s = .next (State.trace (withC s { c with regcnt := s.core.regcnt + 1 }) s.core.id 1 (0x100 + s.core.cause.toNat) s.core.tval)) ∧
      (s.core.arch.status.getLsbD 11 = false → s.core.reglim ≤ s.core.regcnt → s.core.resident = true → ∃ t, exec .eret s = .next t ∧
        t.core.run = .trapped ∧ t.core.cause = 13 ∧ t.core.epc = s.core.pc ∧ t.core.arch = a ∧ t.core.mem = s.core.mem ∧
        t.core.tval = wd (s.core.regpc.toNat % 2 ^ 32 + s.core.reglim % 256 * 2 ^ 32 + 2 * 2 ^ 40))))
/-! ### System registers, regions, groups and waits -/

namespace Sys2Proof.Claims

/-- R329 to R332: what a read of a system register returns. -/
def sysVal (c : Core) : SysReg → Word
  | .status => c.arch.status
  | .fflags => c.arch.fflags
  | .cause => c.cause
  | .tval => c.tval
  | .epc => c.epc
  | .trapvec => c.trapvec
  | .regpc => c.regpc
  | .regcnt => wd c.regcnt
  | .reglim => wd c.reglim
  | .livex => zx (c.arch.livex ||| 1)
  | .livev => c.livevWord
  | .gridmap => wd (Nat.min c.binds 0xFFFF * 2 ^ 48 + c.die * 2 ^ 40 + c.cluster * 2 ^ 32 + c.col * 2 ^ 24 + c.row * 2 ^ 16 + c.id.lc)
  | .lc i => c.arch.lc[i]
  | .ls i => c.arch.ls[i]
  | .le i => c.arch.le[i]
  | .eseq p => wd (match p with
      | .mma => c.eseq[0] | .copy => c.eseq[1] | .sheaf => c.eseq[2] | .scan => c.eseq[3] | .coll => c.eseq[4])
  | .seed i => zx c.arch.seed[i]
  | .ringhead i => if c.rings[i].conf then wd (c.rings[i].base + 64 * c.rings[i].head) else 0
  | .ringtail i =>
    if c.rings[i].conf then wd (c.rings[i].base + 64 * ((c.rings[i].head + c.rings[i].held) % c.rings[i].size)) else 0

/-- The fields of RINGSTAT's word, R147: CLAIM counts the held lines among those claimed. -/
def ringWord (r : Ring) : Word :=
  if r.conf then wd (2 ^ 63 + r.size % 2 ^ 15 * 2 ^ 48 + min r.claimed r.held % 2 ^ 16 * 2 ^ 32 +
    r.appended % 2 ^ 16 * 2 ^ 16 + r.held % 2 ^ 16)
  else 0

/-- R351: the word of RGN.QUERY. -/
def regionWord (c : Core) : Word :=
  wd (c.regpc.toNat % 2 ^ 32 * 2 ^ 32 + c.regcnt % 256 * 2 ^ 24 + c.reglim % 256 * 2 ^ 16 + linesOf c.sbuf % 256 * 2 ^ 8 +
    cmdsOf c.sbuf % 32)

/-- The members of group g of the core's launch, in order, R23. -/
def groupOf (s : State) (g : Nat) : List Nat := s.groupOf s.core.id.lh g
/-- A launch that declares a tick, R257, R277. -/
def timed (s : State) : Bool := (s.recOf s.core.id.lh).timed
/-- The logical cores of the core's launch. -/
def grid (s : State) : Nat := (s.recOf s.core.id.lh).grid

/-- R346, R349, R350: a region opened at an address, its checkpoint taken from the registers as every write in flight leaves
them, with REGCNT 0. -/
def opened (c : Core) (pc : Word) : Core :=
  { c with ckpt := c.settled, regpc := pc, regcnt := 0, skip := false, anchor := none, anchored := false, atom := none }

/-- A core without the arrival at generation n of group g's barrier, and without that of a vacate. -/
def dropArrived (c : Core) (g n : Nat) : Core :=
  { c with credits := c.credits.erase (g, n), arrivedAt := c.arrivedAt.erase (g, n) }
/-- A sleeping core. -/
def asleep (c : Core) (w : Wait) : Core := { c with run := .waiting w }

/-- A core whose wait returns: X[d] is visible at once (R44), and the next instruction issues in the next cycle. -/
def returned (c : Core) (now : Nat) (d : XReg) (v : Word) : Core :=
  { (done (c.setX d v) now 4 (c.setX d v).arch.livex []) with run := .ready }

/-- What a WAIT's slots at an address name that are enabled: slot, address and value, R203. -/
def armed (c : Core) (a : Nat) : List (Nat × Nat × Word) :=
  ((List.range 4).filter (fun i => c.numAt (a + 16 * i + 4) 4 == 1)).map
    (fun i => (i, c.numAt (a + 16 * i) 4, wd (c.numAt (a + 16 * i + 8) 8)))

end Sys2Proof.Claims

/-- R329 to R332, R144, R147, R152, R267, R274, R280 and R351, with the latency 2 of R44: what the reads of the machine's registers and
tables put in X[d]. -/
def Obligations.RegisterReads : Prop :=
  ∀ (s : State) (d : XReg),
    let put (live : BitVec 32) (v : Word) : Out := .next (withC s (done s.core s.now 4 live (xwrite s.core s.now 2 d v)))
    exec (.time d) s = put s.core.arch.livex (wd s.timeNs) ∧
    exec (.cycle d) s = put s.core.arch.livex (wd s.core.cycles) ∧
    (∀ n : SysReg, n ≠ .fflags → exec (.sysr d n) s = put s.core.arch.livex (sysVal s.core n)) ∧
    exec (.mmaq d) s = put s.core.arch.livex (wd (s.core.mmaFail % 2 ^ 32 * 2 ^ 32 + s.core.mmaLast % 256 * 2 ^ 16 +
      (s.core.issued[0] - s.core.eseq[0]) % 256 * 2 ^ 8 + nbit s.core.mmaErr)) ∧
    (∃ v, exec (.mmaq d) s = put s.core.arch.livex v ∧ exec (.mmaqC d) s = .next (withC s
      { (done s.core s.now 4 s.core.arch.livex (xwrite s.core s.now 2 d v)) with mmaErr := false, mmaFail := 0 })) ∧
    (∀ n : Fin 8, exec (.ringstat d n) s = put s.core.arch.livex (ringWord s.core.rings[n])) ∧
    (s.core.inh = false → exec (.rgnQuery d) s = put s.core.arch.livex (regionWord s.core)) ∧
    (s.core.inh = false → timed s = true → exec (.tslotq d) s = put s.core.arch.livex (match s.core.window with
      | some w => wd (2 ^ 63 + s.core.winCount % 4096 * 2 ^ 48 + s.core.winFirst % 2 ^ 16 * 2 ^ 32 + (s.now - w) % 2 ^ 32)
      | none => wd (s.core.slotCount % 4096 * 2 ^ 48 + s.core.slotFirst % 2 ^ 16 * 2 ^ 32))) ∧
    (∀ (a b : XReg) (la lb : Bool), readable s.core a = true → readable s.core b = true → (s.core.xval a).toNat < 4096 →
      (s.core.xval b).toNat < 4 → exec (.tidget ⟨d, a, b, la, lb⟩) s = put (killed s.core [(a, la), (b, lb)])
        ((s.tidView (s.core.xval a).toNat).extractLsb' (64 * (s.core.xval b).toNat) 64)) ∧
    (∀ (a : XReg) (la : Bool), readable s.core a = true → (s.core.xval a).toNat < 256 →
      exec (.grpid ⟨d, a, la⟩) s = put (killed s.core [(a, la)])
        (match indexOf? (· == s.core.id.lc) (groupOf s (s.core.xval a).toNat) with | some i => wd i | none => -1) ∧
      exec (.grpsz ⟨d, a, la⟩) s = put (killed s.core [(a, la)]) (wd (groupOf s (s.core.xval a).toNat).length)) ∧
    (∀ (a : XReg) (la : Bool), readable s.core a = true → (s.core.xval a).toNat < grid s →
      exec (.lcore ⟨d, a, la⟩) s = put (killed s.core [(a, la)])
        (match s.core? ⟨s.core.id.lh, (s.core.xval a).toNat, s.core.id.twin⟩ with
          | some e => if e.resident = true ∧ (s.slotRec e.slot).state = .run then wd (e.row * 256 + e.col) else 1 <<< 63
          | none => 1 <<< 63))

namespace Sys2Proof.Claims

/-- R330 to R332: the core after a write of `v` to a system register, with `st` as the new STATUS where the register is STATUS; read-only
registers and bits ignore it, and a seed written 0 becomes 1 (R91). -/
def sysTo (c : Core) (now : Nat) (n : SysReg) (v st : Word) : Core :=
  match n with
  | .status => { c with arch := { c.arch with status := st } }
  | .fflags => { c with arch := { c.arch with
      fflags := wd (v.toNat % 256) ||| (if c.raisedAt = now then zx c.raised else 0) } }
  | .cause => { c with cause := wd (v.toNat % 256) }
  | .tval => { c with tval := v }
  | .epc => { c with epc := wd (v.toNat / 2 * 2) }
  | .trapvec => { c with trapvec := wd (v.toNat / 2 * 2) }
  | .seed i => { c with arch := { c.arch with seed := c.arch.seed.set i (if v.toNat % 2 ^ 32 = 0 then 1 else BitVec.ofNat 32 v.toNat) } }
  | _ => c

/-- R331: which bits of STATUS a write reaches: 2 to 5 and 7 to 11; bit 6, TEST, rises only where the partition permits test. -/
def statusTo (old v st : Word) (testOk : Bool) : Prop :=
  ∀ i : Nat, i < 64 → st.getLsbD i =
    (if (2 ≤ i ∧ i ≤ 5) ∨ (7 ≤ i ∧ i ≤ 11) then v.getLsbD i
     else if i = 6 then (if v.getLsbD 6 = true ∧ testOk = false then old.getLsbD 6 else v.getLsbD 6)
     else old.getLsbD i)

end Sys2Proof.Claims

/-- R97: a SYSR of FFLAGS reads the register and takes the flags raised later in its issue cycle as well. R330, R331, R332, R91: SYSW
writes X[a], SYSSET the register OR X[a], SYSCLR the register AND NOT X[a], in the issue cycle. -/
def Obligations.SystemWrites : Prop :=
  (∀ (s : State) (d : XReg),
     exec (.sysr d .fflags) s = .next (withC s (done s.core s.now 4 s.core.arch.livex
       (if d = 0 then [] else [⟨s.core.iseq, s.now, s.now + 2, s.core.pc, .x d s.core.arch.fflags, 0, true⟩]))) ∧
     (∀ (c : Core) (now : Nat) (fl : Flags) (f : Flight) (w : Word), fl ≠ 0 → c.flights = [f] → f.ffTap = true → f.issued = now →
       f.dst = .x d w → (c.engineFlags now fl).flights = [{ f with dst := .x d (w ||| zx fl) }])) ∧
  (∀ (s : State) (n : SysReg) (r : S1), readable s.core r.a = true →
     ∀ p ∈ [(Instr.sysw n r, s.core.xval r.a), (.sysset n r, s.core.sysValue n ||| s.core.xval r.a),
         (.sysclr n r, s.core.sysValue n &&& ~~~s.core.xval r.a)],
       ∃ st : Word, statusTo s.core.arch.status p.2 st (s.partOf s.core.ctx).testOk ∧
         exec p.1 s = .next (withC s (sysTo (done s.core s.now 4 (killed s.core [(r.a, r.la)]) []) s.now n p.2 st)))

namespace Sys2Proof.Claims

/-- R206: a command that has no page of a tensor and no flag word of device memory translated at its commit. -/
def local_ : Cmd → Prop
  | .copyIn .. | .copyOut .. | .gather .. | .shfRead .. | .shfReread .. => False
  | .copyLoc .. | .mcast .. | .mma .. | .shfItin .. | .shfHold .. | .shfRel .. | .scnCfg .. | .scnRun .. | .scnRed .. | .scnApply .. => True
  | .cagrp .. | .cgraph .. | .cabort .. | .boset .. | .tidDef .. | .tidSwap .. | .tidInv .. | .trcEmit .. | .trcCfg .. => True
  | .reduce b => b.srcLocal = true ∧ b.dstLocal = true
  | .crun nodes _ => ∀ n ∈ nodes, n.2.srcLocal = true ∧ n.2.dstLocal = true
/-- R207: the flag word in the scratchpad that a command names itself. -/
def localFlag : Buf → FlagDst
  | .cmd _ _ (.mcast b ..) => match b.flag with | some a => .localAt a | none => .none
  | .cmd _ _ (.reduce b) => match b.flag with | some a => .localAt a | none => .none
  | _ => .none
/-- R28, R206: the tickets of a region's items in program order, 0 where an item takes none, and the last ticket of each class. -/
def ticketed (iss : Vector Nat 5) : List Buf → List (Buf × Nat) × Vector Nat 5
  | [] => ([], iss)
  | b :: t =>
    let p : Option (Fin 5) := match b with | .cmd _ _ cm => cm.cls.map clsIx | _ => none
    match p with
    | some k => ((b, iss[k] + 1) :: (ticketed (iss.set k (iss[k] + 1)) t).1, (ticketed (iss.set k (iss[k] + 1)) t).2)
    | none => ((b, 0) :: (ticketed iss t).1, (ticketed iss t).2)
/-- R44, R45: what a commit leaves in an integer register: the ticket, or 0, of the last of its commands that names the register and was issued
no earlier than the last write that has landed there; the value, the place of that write in issue order, and whether one was made. -/
def resultOf (r : XReg) (acc : Word × Nat × Bool) : List (Buf × Nat) → Word × Nat × Bool
  | [] => acc
  | (.cmd seq d _, n) :: t => resultOf r (if d = r ∧ acc.2.1 ≤ seq then (wd n, seq, true) else acc) t
  | _ :: t => resultOf r acc t

end Sys2Proof.Claims

/-- R346, R348: a region that holds only stores, messages, log appends and fences, in a core with no push in flight and no stop taken, commits:
its items join the work that drains, in program order and with this cycle, and the buffer is empty. A ring instruction of the region
changes the pointers that the engines see (R149).
R28, R44, R143, R206: a region of any such items and of commands of every class that translate nothing at their commit, within the limits on
commands in flight (16 matrix, 64 COPY, 16 COLL): each command of a sequenced class takes the next ticket of its class, the classes
independently, and the others none; X[d] of each has its ticket, or 0, for the next instruction, and the commands join the work that drains,
with their tickets, among the other items. -/
def Obligations.RegionCommit : Prop :=
  (∀ s : State, s.core.anchored = false → (s.core.flights.any s.core.isPush) = false →
     (∀ b ∈ s.core.sbuf, match b with | .line .. | .msg .. | .log .. | .fence .. => True | _ => False) →
     s.commit false = .ok (withC s { s.core with
       sbuf := []
       drainq := s.core.drainq ++ s.core.sbuf.map (fun b => ⟨b, 0, s.now, s.now, s.timeFine, .none⟩) })) ∧
  (∀ (s : State) (n : Nat) (op : RingOp), s.core.anchored = false → (s.core.flights.any s.core.isPush) = false →
     s.core.sbuf = [.ring n op] →
     ∃ t, s.commit false = .ok t ∧ t = withC s { s.core with
       sbuf := []
       tails := t.core.tails
       erings := ringUpd s.core.erings n (fun r => r.apply op) }) ∧
  (∀ s : State, s.core.anchored = false → (s.core.flights.any s.core.isPush) = false →
     (∀ b ∈ s.core.sbuf, match b with | .line .. | .msg .. | .log .. | .fence .. => True | .cmd _ _ cm => local_ cm | _ => False) →
     (∀ q ∈ [(EngClass.mma, 16), (.copy, 64), (.coll, 16)],
       let n := (s.core.sbuf.filter (fun b => match b with | .cmd _ _ cm => cm.cls == some q.1 | _ => false)).length
       n = 0 ∨ s.core.issued[clsIx q.1] - s.core.eseq[clsIx q.1] + n ≤ q.2) →
     let q := ticketed s.core.issued s.core.sbuf
     ∃ t, s.commit false = .ok t ∧ t.core.sbuf = [] ∧ t.core.mem = s.core.mem ∧ t.core.issued = q.2 ∧ t.core.eseq = s.core.eseq ∧
       t.core.drainq = s.core.drainq ++ q.1.map (fun b => ⟨b.1, b.2, s.now, s.now, s.timeFine, localFlag b.1⟩) ∧
       ∀ r : XReg, r ≠ 0 →
         let o := resultOf r (s.core.arch.x[r], s.core.landX[r], false) q.1
         t.core.arch.x[r] = o.1 ∧ t.core.arch.livex.getLsbD r = (o.2.2 || s.core.arch.livex.getLsbD r))

/-- R349, R350, R351, R353 (log entry 21): the region instructions outside the handler. RGN.OPEN, C.RGN and RGN.COMMIT, with no register
write in flight and a region that commits, open the next region behind themselves; RGN.COMMIT holds the next instruction until the
committed work has drained, in a region that starts again too. RGN.LIMIT sets REGLIM. RGN.ABORT discards the region and starts it again, in the
next cycle, which is the model's choice (log entry 106); it counts and has a trace record (R340; log entry 32). -/
def Obligations.RegionInstructions : Prop :=
  ∀ s : State, s.core.inh = false →
    (∀ n : BitVec 8, exec (.rgnLimit n) s = .next (withC s { (done s.core s.now 4 s.core.arch.livex []) with reglim := n.toNat })) ∧
    (s.core.flights = [] →
      (∀ s1, (withC s (done s.core s.now 4 s.core.arch.livex [])).commit false = .ok s1 →
        let c := opened s1.core (done s.core s.now 4 s.core.arch.livex []).pc
        exec .rgnOpen s = .next (withC s1 c) ∧
        exec .rgnCommit s = .next (withC s1 { c with
          run := if s1.core.drainq = [] then s1.core.run else .waiting .drain
          drainHold := if s1.core.drainq = [] then s1.core.drainHold else true })) ∧
      (∀ s1, (withC s (done s.core s.now 2 s.core.arch.livex [])).commit false = .ok s1 →
        exec .cRgn s = .next (withC s1 (opened s1.core (done s.core s.now 2 s.core.arch.livex []).pc))) ∧
      (s.core.anchored = false → s.core.slaved = false → s.core.regcnt < s.core.reglim →
        let c := { s.core.discard with
          forwards := [], regcnt := s.core.regcnt + 1, pc := s.core.regpc, run := backIn s.core, nextIssue := s.now + 1 }
        exec .rgnAbort s = .next (State.trace (withC s c) s.core.id 1 (0x100 + s.core.cause.toNat) s.core.tval) ∧
          c.arch = s.core.ckpt ∧ c.sbuf = [] ∧ c.rings = s.core.erings))

/-- R350, R357: SNAP, in a launch without Umbra, commits its region and sleeps until every core of the launch has arrived. ECALL (R336)
commits, and the core sleeps at the next instruction until its request is answered, with CAUSE 10 and TVAL 0. HALT (R339) commits and ends
the logical core, whose REGPC stays at the region that it committed, which is the model's choice (log entry 58). INJECT (R338) checks its operand, does nothing when REGCNT differs from AT, and otherwise raises a detected error. -/
def Obligations.SystemInstructions : Prop :=
  ∀ s : State, s.core.inh = false →
    (∀ (d : XReg) (s1 : State), s.core.flights = [] → s.core.anchored = false → s.umbra s.core.id.lh = false → s.beginWait = .ok s1 →
      ∃ (t : State) (o : Option XReg), exec (.snap d) s = .next t ∧ (o = s1.core.snapD ∨ o = some d) ∧
        t.core = { asleep s1.core (.snap d) with snapD := o }) ∧
    (∀ s1, s.commitBehind (done s.core s.now 4 s.core.arch.livex []) = .ok s1 →
      ∃ (t : State) (n : Nat), exec .ecall s = .next t ∧ t.core.run = .onFault n ∧ t.core.cause = 10 ∧ t.core.tval = 0 ∧
        t.core.epc = s.core.pc ∧ t.core.pc = s1.core.regpc ∧ t.core.arch = s1.core.ckpt ∧ t.core.mem = s1.core.mem) ∧
    (∀ s1, s.core.flights = [] → s.core.anchored = false → s.holdsTourLines s.core = false →
      s.commitBehind (done s.core s.now 4 s.core.arch.livex []) = .ok s1 →
      ∃ t, exec .halt s = .next t ∧ t.core = { s1.core with run := .halted, regpc := s.core.regpc, slaved := false, forwards := [] } ∧
        (∀ l, s1.launch? s1.core.id.lh = some l → ∃ l', t.launch? s1.core.id.lh = some l' ∧ l'.halted.contains s1.core.id.lc)) ∧
    (∀ r : S1, readable s.core r.a = true →
      let x := s.core.xval r.a
      let good := 1 ≤ x.toNat % 16 ∧ x.toNat % 16 ≤ 4 ∧ x &&& ~~~(0xFF0F : Word) = 0
      (¬ good → exec (.inject r) s = .next (s.takeTrap ⟨.access, 0xE2⟩ s.core.pc)) ∧
      (good → s.core.arch.status.getLsbD 6 = false → exec (.inject r) s = .next (s.takeTrap ⟨.access, 0xE1⟩ s.core.pc)) ∧
      (good → s.core.arch.status.getLsbD 6 = true → s.core.regcnt ≠ x.toNat / 256 % 256 →
        exec (.inject r) s = .next (withC s (done s.core s.now 4 (killed s.core [(r.a, r.la)]) []))) ∧
      (good → s.core.arch.status.getLsbD 6 = true → s.core.regcnt = x.toNat / 256 % 256 → s.core.slaved = false →
        s.core.regcnt < s.core.reglim → ∃ t, exec (.inject r) s = .next t ∧ t.core.cause = 17 ∧
          t.core.tval = wd (x.toNat % 16 + 0x100) ∧ t.core.epc = s.core.pc ∧ t.core.arch = s.core.ckpt ∧ t.core.sbuf = [] ∧
          t.core.run = .resetting ∧ t.core.regcnt = s.core.regcnt + 1 ∧ t.core.pc = s.core.regpc ∧ t.core.nextIssue = s.now + 64))

/-- R202, R256, R275, R276: the group instructions, outside the handler. UNFOLLOW, and FOLLOW in a gang of one or in a slaved gang, complete
at once; another FOLLOW sleeps until its gang has arrived. GARRIVE puts the generation it arrives for in X[d], commits and arrives, unless a
vacate has arrived for that generation. GBAR arrives and sleeps; where a vacate has arrived it returns at once. GWAITB returns the generation
at once when it has been reached, and sleeps when not. In a slaved gang no wait returns before every member's does. -/
def Obligations.GroupInstructions : Prop :=
  ∀ s : State, s.core.inh = false →
    exec .unfollow s = .next (withC s { (done s.core s.now 4 s.core.arch.livex []) with slaved := false }) ∧
    (s.gangOf s.core = 1 ∨ s.core.slaved = true → exec .follow s = .next (withC s (done s.core s.now 4 s.core.arch.livex []))) ∧
    (s.gangOf s.core ≠ 1 → s.core.slaved = false → ∀ s1, s.beginWait = .ok s1 →
      (withC s1 (asleep s1.core .follow)).allFollow (asleep s1.core .follow) = false →
      exec .follow s = .next (withC s1 (asleep s1.core .follow))) ∧
    (∀ (r : R2) (s1 : State), readable s.core r.a = true → (s.core.xval r.a).toNat < 256 →
      (groupOf s (s.core.xval r.a).toNat).contains s.core.id.lc = true →
      let g := (s.core.xval r.a).toNat
      let n := s.ownGen s.core g
      s.commitBehind (done (dropArrived s.core g n) s.now 4 (killed s.core [(r.a, r.la)])
        (xwrite s.core s.now 2 r.d (wd ((n + 1) % 2 ^ 16)))) = .ok s1 →
      (s.core.credits.contains (g, n) = true → exec (.garrive r) s = .next s1) ∧
      (s.core.credits.contains (g, n) = false → (s1.recOf s1.core.id.lh).mirror = false →
        exec (.garrive r) s = .next (s1.arrive s.core.id.lh g s.core.id.lc))) ∧
    (∀ (r : R2) (s1 : State), s.beginWait = .ok s1 → readable s1.core r.a = true → (s1.core.xval r.a).toNat < 256 →
      (groupOf s1 (s1.core.xval r.a).toNat).contains s1.core.id.lc = true →
      let g := (s1.core.xval r.a).toNat
      let n := s1.ownGen s1.core g
      (s1.core.credits.contains (g, n) = false → s1.core.arrivedAt.contains (g, n) = false →
        ∃ t, exec (.gbar r) s = .next t ∧ t.core.run = .waiting (.gbar g n r.d) ∧
          t.core.arrivedAt = s1.core.arrivedAt ++ [(g, n)]) ∧
      (s1.core.credits.contains (g, n) = true → s1.core.slaved = false →
        ∃ t, exec (.gbar r) s = .next t ∧ t.core.run = .ready ∧ t.core.nextIssue = s1.now + 1 ∧
          (r.d ≠ 0 → t.core.arch.x[r.d] = wd ((n + 1) % 2 ^ 16)))) ∧
    (∀ (r : R3) (s1 : State), s.beginWait = .ok s1 → readable s1.core r.a = true → readable s1.core r.b = true →
      (s1.core.xval r.a).toNat < 256 → (groupOf s1 (s1.core.xval r.a).toNat).contains s1.core.id.lc = true →
      let g := (s1.core.xval r.a).toNat
      let n := (s1.gbar s1.core.id.lh g).gen
      let c := { s1.core with arch := { s1.core.arch with livex := killed s1.core [(r.a, r.la), (r.b, r.lb)] } }
      let reached := (n + 2 ^ 16 - (s1.core.xval r.b).toNat % 2 ^ 16) % 2 ^ 16 < 2 ^ 15
      (reached → s1.core.slaved = false →
        exec (.gwaitb r) s = .next (State.acquire (withC s1 (returned c s1.now r.d (wd n))) (.group s1.core.id.lh g) s1.core.id)) ∧
      (¬ reached ∨ s1.core.slaved = true →
        exec (.gwaitb r) s = .next (withC s1 (asleep c (.gwaitb g ((s1.core.xval r.b).setWidth 16) r.d)))))

/-- R46, R268, R346: what every wait does first: with no register write in flight and an empty region the commit only opens the region
at the wait itself, and an open exchange window closes. R46, R202 to R205, R266 to R268: a wait, with no register write in flight and a
region that commits, returns at once when its condition holds already, and sleeps when not, and in a slaved gang, whose members' waits return
together. WAITSEQ waits for a ticket of an engine class, WAITA for a word that differs from its
value or for a deadline, WAITBO for an armed object, SLEEPU for a time, REALIGN for the next tick of a timed launch. -/
def Obligations.Waits : Prop :=
  (∀ s : State, s.core.inh = false → s.core.flights = [] → s.core.sbuf = [] → s.core.anchored = false →
     s.beginWait = .ok (withC s { s.core with
       ckpt := s.core.arch, atom := none, regpc := s.core.pc, regcnt := 0, skip := false, anchor := none
       anchored := false, window := none })) ∧
  (∀ s s1 : State, s.beginWait = .ok s1 →
     (∀ (p : EngClass) (r : S1) (i : Fin 5), clsIx p = i → readable s1.core r.a = true → (s1.core.xval r.a).toNat ≤ s1.core.issued[i] →
       let c := { s1.core with arch := { s1.core.arch with livex := killed s1.core [(r.a, r.la)] } }
       (s1.core.eseq[i] < (s1.core.xval r.a).toNat ∨ s1.core.slaved = true →
         exec (.waitseq p r) s = .next (withC s1 (asleep c (.seq p (s1.core.xval r.a).toNat)))) ∧
       ((s1.core.xval r.a).toNat ≤ s1.core.eseq[i] → s1.core.failed = [] → s1.core.slaved = false →
         exec (.waitseq p r) s = .next (withC s1 (returned c s1.now 0 0)))) ∧
     (∀ r : R3, readable s1.core r.a = true → readable s1.core r.b = true →
       let x := (s1.core.xval r.a).toNat
       let t := s1.core.xval r.b
       let c := { s1.core with arch := { s1.core.arch with livex := killed s1.core [(r.a, r.la), (r.b, r.lb)] } }
       x % 64 = 0 → x + 64 ≤ 0x100000 →
       (∀ i, i < 4 → s1.core.numAt (x + 16 * i + 4) 4 = 0 ∨ (s1.core.numAt (x + 16 * i + 4) 4 = 1 ∧
         s1.core.numAt (x + 16 * i) 4 % 8 = 0 ∧ s1.core.numAt (x + 16 * i) 4 + 8 ≤ 0x100000)) →
       let slots := armed s1.core x
       let fires := slots.find? (fun q => wd (s1.core.numAt q.2.1 8) != q.2.2)
       let past := (t ≠ 0 ∧ t.toNat ≤ s1.timeNs) ∨ (t = 0 ∧ slots = [])
       (∀ q, fires = some q → s1.core.slaved = false → exec (.waita r) s = .next (withC s1 (returned c s1.now r.d (wd q.1)))) ∧
       (fires = none → past → s1.core.slaved = false → exec (.waita r) s = .next (withC s1 (returned c s1.now r.d 4))) ∧
       ((fires = none ∧ ¬ past) ∨ s1.core.slaved = true →
         exec (.waita r) s = .next (withC s1 (asleep c (.arm r.d slots t))))) ∧
     (∀ r : R2, readable s1.core r.a = true → s1.core.armed.toList.contains (some (s1.core.xval r.a).toNat) = true →
       let x := (s1.core.xval r.a).toNat
       let c := { s1.core with arch := { s1.core.arch with livex := killed s1.core [(r.a, r.la)] } }
       let ready := s1.core.bosetDraining x = false ∧
         (s1.core.mem.num (x + 4) 4 ≥ s1.core.mem.num x 4 ∨ s1.core.mem.num (x + 10) 1 % 2 = 1)
       (ready → s1.core.slaved = false → exec (.waitbo r) s = .next (withC s1 (returned { c with
           armed := c.armed.map (fun o => if o == some x then none else o) } s1.now r.d
         (wd (s1.core.mem.num (x + 10) 2 * 2 ^ 16 + s1.core.mem.num (x + 8) 2))))) ∧
       (¬ ready ∨ s1.core.slaved = true → exec (.waitbo r) s = .next (withC s1 (asleep c (.bobj r.d x))))) ∧
     (∀ r : S1, readable s1.core r.a = true →
       let c := { s1.core with arch := { s1.core.arch with livex := killed s1.core [(r.a, r.la)] } }
       ((s1.core.xval r.a).toNat ≤ s1.timeNs → s1.core.slaved = false → exec (.sleepu r) s = .next (withC s1 (returned c s1.now 0 0))) ∧
       (s1.timeNs < (s1.core.xval r.a).toNat ∨ s1.core.slaved = true → exec (.sleepu r) s = .next (withC s1 (asleep c (.sleepu (s1.core.xval r.a)))))) ∧
     (∀ d : XReg, timed s = true → exec (.realign d) s = .next (withC s1 (asleep s1.core (.realign d none)))))

/-! ### Local memory -/

namespace Sys2Proof.Claims

/-- The integer with w-bit two's complement code a. -/
def sgn (w a : Nat) : Int := if a % 2 ^ w < 2 ^ (w - 1) then ((a % 2 ^ w : Nat) : Int) else ((a % 2 ^ w : Nat) : Int) - 2 ^ w
/-- The w-bit two's complement code of an integer. -/
def code (w : Nat) (z : Int) : Nat := (z % 2 ^ w).toNat
/-- An integer held to the signed range of w bits. -/
def clampTo (w : Nat) (z : Int) : Int := max (-2 ^ (w - 1)) (min (2 ^ (w - 1) - 1) z)

/-- R13: an aligned access of n bytes that lies in the scratchpad. -/
def inScratch (A : Word) (n : Nat) : Prop := A.toNat % n = 0 ∧ A.toNat + n ≤ 0x100000
/-- R352: no push in flight to the line of an address. -/
def noPush (c : Core) (A : Word) : Prop := ∀ n, n < 4 → A.toNat / 64 ∉ c.pendingPushes n
/-- R15: the bank of an address is claimed by nobody in a cycle. -/
def bankFree (c : Core) (now : Nat) (A : Word) : Prop := c.claimed now (A.toNat / 64 % 16) = none
/-- The core after a claim of an address's bank for one cycle by a requester. -/
def claims (c : Core) (now : Nat) (A : Word) (code : Nat) : Core :=
  { c with bankUse := c.bankUse.filter (fun v => decide (now ≤ v.hi)) ++ [⟨A.toNat / 64 % 16, now, now, code⟩] }
/-- R160: the number in the n bytes that the core's own loads read at an address, the first byte lowest. -/
def numIn (c : Core) (A : Word) (n : Nat) : Nat :=
  ((List.range n).map (fun i => (c.byteAt (A.toNat + i)).toNat * 256 ^ i)).sum
/-- R187: a number of n bytes, sign-extended or not. -/
def extended (n : Nat) (signed : Bool) (v : Nat) : Word := if signed then BitVec.ofInt 64 (sgn (8 * n) v) else wd v

/-- The local loads: size in bytes, whether the value is signed. -/
noncomputable def ldTable (r : IOp) : List (Instr × Nat × Bool) :=
  [(.ldB r, 1, true), (.ldBu r, 1, false), (.ldH r, 2, true), (.ldHu r, 2, false), (.ldW r, 4, true), (.ldWu r, 4, false), (.ldD r, 8, false)]
/-- The local stores with their sizes. -/
noncomputable def stTable (r : SOp) : List (Instr × Nat) := [(.stB r, 1), (.stH r, 2), (.stW r, 4), (.stD r, 8)]

/-- R41: the address of C.LDL and C.STL. -/
def clAddr (c : Core) (imm : BitVec 6) : Word := c.xval 2 + wd (8 * imm.toNat)

/-- R188, R160, R348: what a store of the low n bytes of v at A leaves: the core moved on with these kills, its store buffer with the bytes in
it, and its own loads reading them there and every other byte as before. -/
def Stored (s t : State) (size : Nat) (live : BitVec 32) (A v : Word) (n : Nat) : Prop :=
  t = withC s { (done s.core s.now size live []) with sbuf := t.core.sbuf } ∧
  ∀ a, t.core.byteAt a = if A.toNat ≤ a ∧ a < A.toNat + n then v.extractLsb' (8 * (a - A.toNat)) 8 else s.core.byteAt a
/-- R17: no byte of an access lies in the held span of a ring. -/
def notHeld (c : Core) (A : Word) (n : Nat) : Prop := ∀ (i : Nat) (k : Fin 8), i < n → (c.rings[k]).holds ((A.toNat + i) / 64) = false
/-- R335: what a store in the trap handler leaves: the bytes are in the scratchpad at once. -/
def StoredNow (s t : State) (size : Nat) (live : BitVec 32) (A v : Word) (n : Nat) : Prop :=
  t = withC s { (done (claims s.core s.now A 0) s.now size live []) with mem := t.core.mem } ∧
  ∀ a, t.core.mem.get a = if A.toNat ≤ a ∧ a < A.toNat + n then v.extractLsb' (8 * (a - A.toNat)) 8 else s.core.mem.get a

end Sys2Proof.Claims

/-- R13, R15, R41, R187: a load from the scratchpad, aligned and inside it, with no push in flight to its line and its bank free, reads its bytes
little-endian, and X[d] has the extended value four cycles later; while a fence or what it waits for is outstanding that orders loads (R168,
R169), a load is held at issue: that it is, and not performed early, is the model's reading (log entry 97).
R29: an LD.D of the engine window reads a ring's head, a ring's tail, or the completed sequence of an engine, without a bank. -/
def Obligations.Loads : Prop :=
  ((∀ (s : State) (r : IOp) (p : Instr × Nat × Bool), p ∈ ldTable r → readable s.core r.a = true →
     let A := s.core.xval r.a + sx r.imm
     (inScratch A p.2.1 → s.core.loadHeld = true → exec p.1 s = .next s.held) ∧
     (inScratch A p.2.1 → s.core.loadHeld = false → noPush s.core A → bankFree s.core s.now A →
     exec p.1 s = .next (withC s (done (claims s.core s.now A 0) s.now 4 (killed s.core [(r.a, r.la)])
       (xwrite s.core s.now 4 r.d (extended p.2.1 p.2.2 (numIn s.core A p.2.1))))))) ∧
   (∀ (s : State) (d : XReg) (imm : BitVec 6), readable s.core 2 = true →
     let A := clAddr s.core imm
     inScratch A 8 → s.core.loadHeld = false → noPush s.core A → bankFree s.core s.now A →
     exec (.cLdl d imm) s = .next (withC s (done (claims s.core s.now A 0) s.now 2 s.core.arch.livex
       (xwrite s.core s.now 4 d (wd (numIn s.core A 8))))))) ∧
  (∀ (s : State) (r : IOp), readable s.core r.a = true → s.core.loadHeld = false →
     let A := s.core.xval r.a + sx r.imm
     let put (v : Word) : Out := .next (withC s (done s.core s.now 4 (killed s.core [(r.a, r.la)]) (xwrite s.core s.now 4 r.d v)))
     (∀ k : Fin 8, A.toNat = 0x101000 + 8 * k.val → exec (.ldD r) s = put (sysVal s.core (.ringhead k))) ∧
     (∀ k : Fin 8, A.toNat = 0x101040 + 8 * k.val → exec (.ldD r) s = put (sysVal s.core (.ringtail k))) ∧
     (∀ k : Fin 5, A.toNat = 0x101088 + 8 * k.val → exec (.ldD r) s = put (wd s.core.eseq[k])))

/-- R13, R17, R41, R160, R188, R348, R335: a store to the scratchpad, aligned, inside it and outside every held span, goes into the region's
store buffer when there is room; in the trap handler it is performed at once when its bank is free and no committed store to its
line waits. -/
def Obligations.Stores : Prop :=
  (∀ (s : State) (r : SOp) (p : Instr × Nat), p ∈ stTable r → readable s.core r.a = true → readable s.core r.b = true →
    let A := s.core.xval r.a + sx r.imm
    let live := killed s.core [(r.a, r.la), (r.b, r.lb)]
    inScratch A p.2 → notHeld s.core A p.2 →
    (s.core.inh = false → s.core.room (s.core.newLines [A.toNat]) = .ok () →
      ∃ t, exec p.1 s = .next t ∧ Stored s t 4 live A (s.core.xval r.b) p.2) ∧
    (s.core.inh = true → s.umbra s.core.id.lh = false → bankFree s.core s.now A → s.core.draining (A.toNat / 64) = false →
      ∃ t, exec p.1 s = .next t ∧ StoredNow s t 4 live A (s.core.xval r.b) p.2)) ∧
  (∀ (s : State) (d : XReg) (imm : BitVec 6), readable s.core 2 = true → readable s.core d = true →
    let A := clAddr s.core imm
    inScratch A 8 → notHeld s.core A 8 →
    (s.core.inh = false → s.core.room (s.core.newLines [A.toNat]) = .ok () →
      ∃ t, exec (.cStl d imm) s = .next t ∧ Stored s t 2 s.core.arch.livex A (s.core.xval d) 8) ∧
    (s.core.inh = true → s.umbra s.core.id.lh = false → bankFree s.core s.now A → s.core.draining (A.toNat / 64) = false →
      ∃ t, exec (.cStl d imm) s = .next t ∧ StoredNow s t 2 s.core.arch.livex A (s.core.xval d) 8))

/-- R13, R15, R17, R334: where the local accesses trap. A misaligned address traps MISALIGN, before anything else; an aligned one outside the
windows LOCALRANGE, with the address in TVAL; a store to the engine window ACCESS; a store to a held span RINGHELD with the address
and the ring; a load of a claimed bank BANKCONF with the bank and both requesters. -/
def Obligations.LocalTraps : Prop :=
  (∀ (s : State) (r : IOp) (p : Instr × Nat × Bool), p ∈ ldTable r → readable s.core r.a = true →
    let A := s.core.xval r.a + sx r.imm
    (A.toNat % p.2.1 ≠ 0 → exec p.1 s = .next (s.takeTrap ⟨.misalign, A⟩ s.core.pc)) ∧
    (A.toNat % p.2.1 = 0 → 0x102000 ≤ A.toNat →
      exec p.1 s = .next (s.takeTrap ⟨.localrange, A⟩ s.core.pc)) ∧
    (inScratch A p.2.1 → s.core.loadHeld = false → noPush s.core A → ∀ q, s.core.claimed s.now (A.toNat / 64 % 16) = some q →
      exec p.1 s = .next (s.takeTrap ⟨.bankconf, wd (A.toNat / 64 % 16 + 256 * q)⟩ s.core.pc))) ∧
  (∀ (s : State) (r : SOp) (p : Instr × Nat), p ∈ stTable r → readable s.core r.a = true → readable s.core r.b = true →
    let A := s.core.xval r.a + sx r.imm
    (A.toNat % p.2 ≠ 0 → exec p.1 s = .next (s.takeTrap ⟨.misalign, A⟩ s.core.pc)) ∧
    (A.toNat % p.2 = 0 → 0x102000 ≤ A.toNat →
      exec p.1 s = .next (s.takeTrap ⟨.localrange, A⟩ s.core.pc)) ∧
    (A.toNat % p.2 = 0 → 0x101000 ≤ A.toNat → A.toNat < 0x101080 → exec p.1 s = .next (s.takeTrap ⟨.access, A⟩ s.core.pc)) ∧
    (inScratch A p.2 → ∀ k : Fin 8, (s.core.rings[k]).holds (A.toNat / 64) = true →
      (∀ j : Fin 8, j < k → (s.core.rings[j]).holds (A.toNat / 64) = false) →
      exec p.1 s = .next (s.takeTrap ⟨.ringheld, wd (A.toNat + k.val * 2 ^ 60)⟩ s.core.pc)))

namespace Sys2Proof.Claims

/-- An access of n bytes, aligned, within the block of b bytes of the event unit at an offset. -/
def inLine (A : Word) (n b off : Nat) : Prop := A.toNat % n = 0 ∧ 0x100000 + off ≤ A.toNat ∧ A.toNat + n ≤ 0x100000 + off + b
/-- A core after the last-use mark of a load. -/
def loadKill (c : Core) (r : IOp) : Core := { c with arch := { c.arch with livex := killed c [(r.a, r.la)] } }
/-- A load of the event unit finds its line: the region has committed (s1), no fence holds its loads and no store of its own to a line
waits, and the core is no mirror twin. -/
def mayWait (s1 : State) : Prop :=
  s1.core.loadHeld = false ∧ s1.core.acting = false ∧ s1.other s1.core = none ∧ s1.core.id.twin = false
/-- The core's set of lines. -/
def lines (s : State) : EvSet := s.evset s.core.cluster s.core.ctx
/-- The name of a line in the core's set. -/
def lineName (s : State) (off : Nat) : SyncAt := .line s.core.cluster s.core.ctx off
/-- A wait on a line of the event unit whose changes have left state e1 and core c: it returns a value, and has acquired what is released at
the line, unless its condition does not hold or its gang is slaved (R202): then it sleeps. -/
def lineWait (e1 : State) (c : Core) (ready : Bool) (w : Wait) (d : XReg) (v : Word) (off : Nat) : State :=
  if ready = true ∧ c.slaved = false then (withC e1 (returned c e1.now d v)).acquire (lineName e1 off) c.id else withC e1 (asleep c w)
/-- A store of the event unit to come: its region has committed (s1), what it releases is performed, and the core is no mirror twin. -/
def mayRelease (s s1 : State) : Prop :=
  s.core.inh = false ∧ s.commitAt s.core.pc = .ok s1 ∧ s1.released s1.core .cluster = true ∧ s1.core.acting = false ∧
  s1.core.id.twin = false ∧ (s1.recOf s1.core.id.lh).mirror = false
/-- The state behind a store of the event unit, which ends its region: the next one opens behind it, with a checkpoint taken from the registers as
the writes in flight leave them (log entry 21). -/
def stored (s1 : State) (r : SOp) : State :=
  let c := done s1.core s1.now 4 (killed s1.core [(r.a, r.la), (r.b, r.lb)]) []
  withC s1 (opened c c.pc)
/-- R187, R270: the low n bytes of a number, sign-extended or not. -/
def sized (n : Nat) (signed : Bool) (v : Nat) : Word := extended n signed (v % 256 ^ n)
/-- R256, R270, R273: the arrivals counted for the current generation of a barrier line: its own, or those of the group it is bound to, of which
a member whose save is complete counts as arrived. -/
def arrivals (s : State) (b : BarLine) : Nat :=
  if b.gbind then ((groupOf s b.group.toNat).filter (fun m => (s.gbar s.core.id.lh b.group.toNat).arrived.contains m ||
    (s.core? ⟨s.core.id.lh, m, false⟩).any (fun c => c.run == .vacated))).length
  else b.arrived.length
/-- R273: a barrier control word. -/
def bctl (gen arrived : Nat) (gbind : Bool) (group : BitVec 8) (count : Nat) : Nat :=
  gen % 2 ^ 16 * 2 ^ 48 + arrived % 2 ^ 8 * 2 ^ 32 + gbind.toNat * 2 ^ 24 + group.toNat * 2 ^ 16 + count

end Sys2Proof.Claims

/-- R189, R202, R269 to R273, R171: the event unit, used outside the trap handler by a core that is no mirror twin. A load of a line, of any
size, is a wait, held while a fence holds its loads. An event line with a positive count gives one and returns the rest; a store raises it, up to
65535. A mutex goes to the first that asks, 0 is returned, others queue; a store by its holder passes it to the next, one by another core
traps ACCESS 0xA2. A load of a barrier line arrives once a generation; the one that makes the arrivals reach COUNT fires it and all return the
next generation; COUNT 0 traps ACCESS 0xA1, a bound line works as GBAR. A store to a barrier line traps ACCESS. BCTL is read as it stands and
written by ST.D alone, while no arrival is pending (0xA3, 0xA4). The stores end their region; the checkpoint of the next is that of log
entry 21. -/
def Obligations.EventUnit : Prop :=
  (∀ (s s1 : State) (r : IOp) (p : Instr × Nat × Bool) (i : Nat), p ∈ ldTable r → readable s.core r.a = true → s.beginWait = .ok s1 →
    let A := s.core.xval r.a + sx r.imm
    let c := loadKill s1.core r
    let fmt : LoadFmt := ⟨p.2.1, p.2.2, 4⟩
    let key := (s1.core.id.lh, s1.core.id.lc)
    (A.toNat % p.2.1 = 0 → 0x100000 ≤ A.toNat → A.toNat < 0x100400 → s1.core.loadHeld = true → exec p.1 s = .next s1.held) ∧
    (∀ j : Fin 32, i = j.val → inLine A p.2.1 16 (0x200 + 16 * i) → mayWait s1 →
      let n := (lines s1).events[j]
      exec p.1 s = .next (if n > 0 ∧ c.slaved = false
        then (State.setCount (withC s1 (returned c s1.now r.d (sized p.2.1 p.2.2 (n - 1)))) c.id.lh c.cluster c.ctx i (fun k => k - 1)).acquire
          (lineName s1 (0x200 + 16 * i)) c.id
        else withC s1 (asleep c (.eventLine i r.d fmt)))) ∧
    (∀ j : Fin 16, i = j.val → inLine A p.2.1 16 (0x100 + 16 * i) → mayWait s1 →
      let m := (lines s1).mutexes[j]
      let m' : MutexLine := if m.holder = none then ⟨some key, m.queue⟩
        else if m.holder = some key ∨ key ∈ m.queue then m else ⟨m.holder, m.queue ++ [key]⟩
      exec p.1 s = .next (lineWait (s1.updEv c.cluster c.ctx (fun e => { e with mutexes := e.mutexes.set j m' })) c (m'.holder == some key)
        (.mutexLine i r.d fmt) r.d 0 (0x100 + 16 * i))) ∧
    (∀ j : Fin 16, i = j.val → inLine A p.2.1 16 (16 * i) → mayWait s1 →
      let b := (lines s1).bars[j]
      let g := b.group.toNat
      (b.gbind = false → b.count = 0 → exec p.1 s = .next (s1.takeTrap ⟨.access, 0xA1⟩ s1.core.pc)) ∧
      (b.gbind = false → b.count ≠ 0 → s1.released c .cluster = false → exec p.1 s = .next s1.held) ∧
      (b.gbind = false → b.count ≠ 0 → s1.released c .cluster = true →
        let arr := if key ∈ b.arrived then b.arrived else b.arrived ++ [key]
        let fires := decide (b.count ≤ arr.length)
        let b' : BarLine := if fires then { b with gen := b.gen + 1, arrived := [] } else { b with arrived := arr }
        exec p.1 s = .next (lineWait ((s1.updEv c.cluster c.ctx (fun e => { e with bars := e.bars.set j b' })).carry (lineName s1 (16 * i)) c) c fires
          (.barLine i b.gen.toNat r.d fmt) r.d (sized p.2.1 p.2.2 ((b.gen.toNat + 1) % 2 ^ 16)) (16 * i))) ∧
      (b.gbind = true → (groupOf s1 g).contains s1.core.id.lc = false → exec p.1 s = .next (s1.takeTrap ⟨.access, 0xB2⟩ s1.core.pc)) ∧
      (b.gbind = true → (groupOf s1 g).contains s1.core.id.lc = true →
        let n := s1.ownGen s1.core g
        (s1.core.credits.contains (g, n) = false → s1.core.arrivedAt.contains (g, n) = false →
          ∃ t, exec p.1 s = .next t ∧ t.core.run = .waiting (.barGroup g n r.d fmt) ∧ t.core.arrivedAt = s1.core.arrivedAt ++ [(g, n)]) ∧
        (s1.core.credits.contains (g, n) = true → s1.core.slaved = false → ∃ t, exec p.1 s = .next t ∧ t.core.run = .ready ∧
          (r.d ≠ 0 → t.core.arch.x[r.d] = sized p.2.1 p.2.2 ((n + 1) % 2 ^ 16)))))) ∧
  (∀ (s : State) (r : IOp) (p : Instr × Nat × Bool) (i : Fin 16), p ∈ ldTable r → readable s.core r.a = true → s.core.inh = false →
    s.core.id.twin = false →
    let A := s.core.xval r.a + sx r.imm
    let b := (lines s).bars[i]
    inLine A p.2.1 8 (0x800 + 8 * i.val) →
    (s.core.loadHeld = true → exec p.1 s = .next s.held) ∧
    (s.core.loadHeld = false →
      let w := bctl (if b.gbind then (s.gbar s.core.id.lh b.group.toNat).gen else b.gen.toNat) (arrivals s b) b.gbind b.group b.count
      exec p.1 s = .next (withC s (done s.core s.now 4 (killed s.core [(r.a, r.la)])
        (xwrite s.core s.now 4 r.d (sized p.2.1 p.2.2 (w / 256 ^ (A.toNat % 8)))))))) ∧
  (∀ (s : State) (r : SOp) (p : Instr × Nat), p ∈ stTable r → readable s.core r.a = true → readable s.core r.b = true →
    s.core.inh = false → s.core.id.twin = false →
    let A := s.core.xval r.a + sx r.imm
    let v := s.core.xval r.b
    let trap (n : Word) : Out := .next (s.takeTrap ⟨.access, n⟩ s.core.pc)
    (∀ i : Fin 16, inLine A p.2 16 (16 * i.val) → ∃ n, exec p.1 s = trap n) ∧
    (∀ i : Fin 16, inLine A p.2 16 (0x100 + 16 * i.val) → (lines s).mutexes[i].holder ≠ some (s.core.id.lh, s.core.id.lc) →
      exec p.1 s = trap 0xA2) ∧
    (∀ i : Fin 16, inLine A p.2 8 (0x800 + 8 * i.val) → p.2 ≠ 8 → exec p.1 s = trap 0xA3) ∧
    (∀ i : Fin 16, inLine A p.2 8 (0x800 + 8 * i.val) → p.2 = 8 → arrivals s (lines s).bars[i] ≠ 0 →
      exec p.1 s = trap 0xA4) ∧
    ∀ s1, mayRelease s s1 →
      (∀ i : Fin 32, inLine A p.2 16 (0x200 + 16 * i.val) → exec p.1 s = .next (State.setCount
        ((stored s1 r).carry (lineName s1 (0x200 + 16 * i.val)) (stored s1 r).core) s1.core.id.lh s1.core.cluster s1.core.ctx i.val
        (fun n => min 0xFFFF (n + 1)))) ∧
      (∀ i : Fin 16, inLine A p.2 16 (0x100 + 16 * i.val) → (lines s).mutexes[i].holder = some (s.core.id.lh, s.core.id.lc) →
        exec p.1 s = .next (((stored s1 r).carry (lineName s1 (0x100 + 16 * i.val)) (stored s1 r).core).updEv s1.core.cluster s1.core.ctx
          (fun e => { e with mutexes := e.mutexes.set i (match e.mutexes[i].queue with | [] => ⟨none, []⟩ | k :: q => ⟨some k, q⟩) }))) ∧
      (∀ i : Fin 16, inLine A p.2 8 (0x800 + 8 * i.val) → p.2 = 8 → arrivals s (lines s).bars[i] = 0 →
        exec p.1 s = .next ((stored s1 r).updEv s1.core.cluster s1.core.ctx (fun e => { e with bars := e.bars.set i { e.bars[i] with
          gbind := v.getLsbD 24, group := v.extractLsb' 16 8, count := min 16 (v.toNat % 32) } })))) ∧
  (∀ (s : State) (lh cluster ctx : Nat) (i : Fin 32) (f : Nat → Nat),
    let t := s.setCount lh cluster ctx i.val f
    let e := s.evset cluster ctx
    t.evset cluster ctx = { e with events := e.events.set i (f e.events[i]) } ∧
    (∀ a b, (a ≠ cluster ∨ b ≠ ctx) → t.evset a b = s.evset a b) ∧
    t = { s with evsets := t.evsets, launches := t.launches } ∧ (s.umbra lh = false → t.launches = s.launches))
/-! ### Lane instructions -/

namespace Sys2Proof.Claims

/-- R43, R129: the lane registers of a list read in order, each once: the core after the pops, and what each register gave. -/
def Reads (c : Core) (now : Nat) (l : List VReg) (c' : Core) (v : VReg → Lane) : Prop :=
  ∃ vals, c.readList now l [] = .ok (c', vals) ∧ v = valueOf vals
/-- R130: the destination is not bound as a read stream. -/
def writable (c : Core) (vd : VReg) : Prop := c.bound vd = true → (c.stream vd).write = true
/-- R102: the destination whose inactive elements a masked instruction keeps is a source too, unless it is bound. -/
def keptRead (c : Core) (km : KReg) (vd : VReg) : List VReg := if km ≠ 0 ∧ c.bound vd = false then [vd] else []
/-- R43: the live bits of the lane registers after the last-use marks of a list. -/
def killedV (c : Core) (l : List (VReg × Bool)) : BitVec 16 :=
  l.foldl (fun v p => if p.2 && !c.bound p.1 then v &&& ~~~(1#16 <<< p.1.val) else v) c.arch.livev
/-- R44, R96: the core after a lane instruction: its kills made and its write in flight with its flags. -/
def laneDone (c : Core) (now lat size : Nat) (live : BitVec 32) (kills : List (VReg × Bool)) (d : Dst) (fl : Flags) : Core :=
  done { c with arch := { c.arch with livev := killedV c kills } } now size live [⟨c.iseq, now, now + lat, c.pc, d, fl, false⟩]
/-- R96, R102: the flags of the active elements. -/
def flagsOf (c : Core) (km : KReg) (n : Nat) (f : Nat → Nat × Flags) : Flags :=
  (List.range n).foldr (fun j fl => (if c.active km j then (f j).2 else 0) ||| fl) 0

/-- R101, R102: the instruction `i`, with these sources read as `v`, writes element j of vd as `f v j`, where j is active; an inactive element keeps
its bits, or is 0 on a bound stream register, whose push writes the active bytes only. -/
def Elementwise (s : State) (i : Instr) (lat size : Nat) (srcs : List (VReg × Bool)) (readsD : Bool) (vd : VReg) (km : KReg) (w : Nat)
    (f : (VReg → Lane) → Nat → Nat × Flags) : Prop :=
  ∀ (c : Core) (v : VReg → Lane), writable s.core vd →
    Reads s.core s.now (srcs.map (·.1) ++ if readsD then [vd] else keptRead s.core km vd) c v →
    ∃ out : Lane, (∀ j, j < 512 / w → elemAt w out j =
        if s.core.active km j then (f v j).1 % 2 ^ w else if s.core.bound vd then 0 else elemAt w (v vd) j) ∧
      exec i s = .next (withC s (laneDone c s.now lat size s.core.arch.livex srcs
        (.v vd out (s.core.activeBytes km w)) (flagsOf s.core km (512 / w) (f v))))
/-- The instruction `i`, with these sources read as `v`, writes all of vd as `f v`. -/
def Whole (s : State) (i : Instr) (lat : Nat) (srcs : List (VReg × Bool)) (readsD : Bool) (vd : VReg)
    (f : (VReg → Lane) → Lane × Flags) : Prop :=
  ∀ (c : Core) (v : VReg → Lane), writable s.core vd → Reads s.core s.now (srcs.map (·.1) ++ if readsD then [vd] else []) c v →
    exec i s = .next (withC s (laneDone c s.now lat 4 s.core.arch.livex srcs
      (.v vd (f v).1 (BitVec.allOnes 64)) (f v).2))
/-- R110, R114: the compare `i`, with these sources read as `v`, writes bit j of kd as `f v j`, 0 where j is inactive; k0 discards it. -/
def Compares (s : State) (i : Instr) (lat : Nat) (srcs : List (VReg × Bool)) (kd km : KReg) (w : Nat)
    (f : (VReg → Lane) → Nat → Bool × Flags) : Prop :=
  ∀ (c : Core) (v : VReg → Lane), Reads s.core s.now (srcs.map (·.1)) c v →
    ∃ m : Word, (∀ j, j < 64 → m.getLsbD j = (decide (j < 512 / w) && s.core.active km j && (f v j).1)) ∧
      let fl := flagsOf s.core km (512 / w) (fun j => (0, (f v j).2))
      exec i s = .next (withC s (if kd = 0 ∧ fl = 0
        then done { c with arch := { c.arch with livev := killedV c srcs } } s.now 4 s.core.arch.livex []
        else laneDone c s.now lat 4 s.core.arch.livex srcs (if kd = 0 then .none else .k kd m) fl))

/-- The element width of an integer lane instruction, R49. -/
def wInt (es : Fin 4) : Nat := 8 * 2 ^ es.val
/-- The width of sz in a compact form, R40. -/
def wCl (sz : Bool) : Nat := if sz then 16 else 32

/-- R109: the integer instructions of two sources on elements of width w. -/
noncomputable def laluTable : List ((L3 → Instr) × (Nat → Nat → Nat → Int)) :=
  [(.vadd, fun _ a b => a + b), (.vsub, fun _ a b => (a : Int) - b),
   (.vaddsat, fun w a b => clampTo w (sgn w a + sgn w b)), (.vsubsat, fun w a b => clampTo w (sgn w a - sgn w b)),
   (.vmin, fun w a b => min (sgn w a) (sgn w b)), (.vmax, fun w a b => max (sgn w a) (sgn w b)),
   (.vminu, fun _ a b => (min a b : Nat)), (.vmaxu, fun _ a b => (max a b : Nat)),
   (.vand, fun _ a b => (a &&& b : Nat)), (.vor, fun _ a b => (a ||| b : Nat)), (.vxor, fun _ a b => (a ^^^ b : Nat)),
   (.vsll, fun w a b => a * 2 ^ (b % w)), (.vsrl, fun w a b => (a / 2 ^ (b % w) : Nat)), (.vsra, fun w a b => sgn w a / 2 ^ (b % w)),
   (.vmul, fun _ a b => a * b), (.vmulh, fun w a b => sgn w a * sgn w b / 2 ^ w)]
/-- R40, R109: the compact integer instructions of two sources, vd and vs. -/
noncomputable def clTable : List ((ClOp → Instr) × (Nat → Nat → Nat → Int)) :=
  [(.clVadd, fun _ a b => a + b), (.clVsub, fun _ a b => (a : Int) - b), (.clVmax, fun w a b => max (sgn w a) (sgn w b)),
   (.clVmin, fun w a b => min (sgn w a) (sgn w b)), (.clVand, fun _ a b => (a &&& b : Nat)), (.clVor, fun _ a b => (a ||| b : Nat)),
   (.clVxor, fun _ a b => (a ^^^ b : Nat))]
/-- R113, R114: the floating-point instructions of two sources, by the format's arithmetic under STATUS.RM. -/
noncomputable def lfpTable : List ((L3 → Instr) × (FloatFmt → Rnd → Nat → Nat → Nat × Flags)) :=
  [(.vfadd, fadd), (.vfsub, fsub), (.vfmul, fmul), (.vfmin, fun F _ a b => fminmax F false a b), (.vfmax, fun F _ a b => fminmax F true a b)]
/-- R40: the compact ones. -/
noncomputable def clfpTable : List ((ClOp → Instr) × (FloatFmt → Rnd → Nat → Nat → Nat × Flags)) :=
  [(.clVfadd, fadd), (.clVfsub, fsub), (.clVfmul, fmul), (.clVfmin, fun F _ a b => fminmax F false a b),
   (.clVfmax, fun F _ a b => fminmax F true a b)]
/-- R113: the fused instructions, of the destination and two sources. -/
noncomputable def fmaTable : List ((L3 → Instr) × (FloatFmt → Rnd → Nat → Nat → Nat → Nat × Flags)) :=
  [(.vfma, ffma), (.vfms, ffms), (.vfnma, ffnma)]
/-- R113, R116, R120: the floating-point instructions of one source. -/
noncomputable def lfp1Table : List ((L2 → Instr) × (FloatFmt → Rnd → Nat → Nat × Flags)) :=
  [(.vfabs, fun F _ a => fsign F false a), (.vfneg, fun F _ a => fsign F true a), (.vfclass, fun F _ a => (fclass F a, 0)),
   (.vcvti, fun F rm a => cvtFI F rm F.width a), (.vcvtf, fun F rm a => cvtIF F rm F.width a)]
/-- R125: the special functions. -/
noncomputable def lsfuTable : List ((LSfu → Instr) × (FloatFmt → Rnd → Fv → Nat × Flags)) :=
  [(.vexp2, fexp2), (.vlog2, flog2), (.vrcp, frcp), (.vrsqrt, frsqrt), (.vsigm, fsigm), (.vtanh, ftanh), (.verf, ferf)]

end Sys2Proof.Claims

/-- R43, R129, R130: what a read of one lane register gives. A live register gives its value; a dead one traps DEADREAD with 32 + its number
when DCHK is set, and goes on with some value when not; a bound read stream with a transfer left pops the line its generator names, and is
held while a fence that orders loads is outstanding (R168, R169), which is the model's reading (log entry 97). -/
def Obligations.LaneReads : Prop :=
  ∀ (c : Core) (now : Nat) (r : VReg),
    (c.bound r = false → c.arch.livev.getLsbD r = true → Reads c now [r] c (fun q => if q = r then c.arch.v[r] else 0)) ∧
    (c.bound r = false → c.arch.livev.getLsbD r = false → c.dchk = true → c.readV now r = .error (.trap ⟨.deadread, wd (32 + r.val)⟩)) ∧
    (c.bound r = false → c.arch.livev.getLsbD r = false → c.dchk = false → ∃ x, Reads c now [r] c (fun q => if q = r then x else 0)) ∧
    (c.bound r = true → c.loadHeld = true → c.readV now r = .error .hold) ∧
    (c.bound r = true → c.loadHeld = false → (c.stream r).write = true → c.readV now r = .error (.trap ⟨.access, wd (16 * r.val + 9)⟩)) ∧
    (c.bound r = true → c.loadHeld = false → (c.stream r).write = false → (c.stream r).total ≤ (c.stream r).pos →
      c.readV now r = .error (.trap ⟨.access, wd (16 * r.val + 8)⟩)) ∧
    (c.bound r = true → c.loadHeld = false → (c.stream r).write = false → (c.stream r).pos < (c.stream r).total →
      let A := (c.stream r).addr (c.stream r).pos
      A.toNat + 64 ≤ 0x100000 → noPush c A → bankFree c now A →
      ∃ c' v, Reads c now [r] c' v ∧ (∀ i, i < 64 → (v r).extractLsb' (8 * i) 8 = c.byteAt (A.toNat + i)) ∧
        c' = { claims c now A 2 with arch := { c.arch with streams := c'.arch.streams } } ∧
        c'.stream r = { c.stream r with pos := (c.stream r).pos + 1 } ∧ ∀ n, n < 4 → n ≠ r.val → c'.stream n = c.stream n)

/-- R40, R100, R109: the lane integer instructions of two sources, which set no flag and wrap modulo 2^w unless they saturate. -/
def Obligations.LaneInteger : Prop :=
  (∀ (s : State) (r : L3) (p : (L3 → Instr) × (Nat → Nat → Nat → Int)), p ∈ laluTable →
    Elementwise s (p.1 r) 2 4 [(r.va, r.la), (r.vb, r.lb)] false r.vd r.km (wInt r.es)
      (fun v j => (code (wInt r.es) (p.2 (wInt r.es) (elemAt (wInt r.es) (v r.va) j) (elemAt (wInt r.es) (v r.vb) j)), 0))) ∧
  (∀ (s : State) (r : ClOp) (p : (ClOp → Instr) × (Nat → Nat → Nat → Int)), p ∈ clTable →
    Elementwise s (p.1 r) 2 2 [(r.vd, false), (r.vs, r.ls)] false r.vd 0 (wCl r.sz)
      (fun v j => (code (wCl r.sz) (p.2 (wCl r.sz) (elemAt (wCl r.sz) (v r.vd) j) (elemAt (wCl r.sz) (v r.vs) j)), 0)))

/-- R40, R112, R124: the moves, the absolute value and the permutations; VSEL (R111) picks the element of va where the mask is set and that of vb
where not, and writes all of vd; VEXTR writes the chosen element to element 0 and clears the rest; VINS puts element 0 in place. What of a masked VSEL or
VEXTR reaches a bound write stream is the model's choice (log entry 104). -/
def Obligations.LaneMoves : Prop :=
  (∀ (s : State) (r : L2), let w := wInt r.es
    Elementwise s (.vmov r) 2 4 [(r.va, r.la)] false r.vd r.km w (fun v j => (elemAt w (v r.va) j, 0)) ∧
    Elementwise s (.vbcast r) 2 4 [(r.va, r.la)] false r.vd r.km w (fun v _ => (elemAt w (v r.va) 0, 0))) ∧
  (∀ (s : State) (r : ClOp), let w := wCl r.sz
    Elementwise s (.clVmov r) 2 2 [(r.vs, r.ls)] false r.vd 0 w (fun v j => (elemAt w (v r.vs) j, 0)) ∧
    Elementwise s (.vabs r) 2 2 [(r.vs, r.ls)] false r.vd 0 w (fun v j => (code w (sgn w (elemAt w (v r.vs) j)).natAbs, 0))) ∧
  (∀ (s : State) (r : L3), let w := wInt r.es; let srcs := [(r.va, r.la), (r.vb, r.lb)]; let n := 512 / w
    Elementwise s (.vperm r) 6 4 srcs false r.vd r.km w (fun v j => (elemAt w (v r.va) (elemAt w (v r.vb) j % n), 0)) ∧
    Elementwise s (.vrot r) 6 4 srcs false r.vd r.km w (fun v j => (elemAt w (v r.va) ((j + elemAt w (v r.vb) 0) % n), 0)) ∧
    Elementwise s (.vslide r) 6 4 srcs false r.vd r.km w (fun v j =>
      let i := (j : Int) + sgn w (elemAt w (v r.vb) 0)
      (if 0 ≤ i ∧ i < n then elemAt w (v r.va) i.toNat else 0, 0)) ∧
    (∀ (c : Core) (v : VReg → Lane), writable s.core r.vd → Reads s.core s.now (srcs.map (·.1)) c v →
      ∃ out : Lane, (∀ j, j < n → elemAt w out j = if s.core.active r.km j then elemAt w (v r.va) j else elemAt w (v r.vb) j) ∧
        exec (.vsel r) s = .next (withC s (laneDone c s.now 2 4 s.core.arch.livex srcs (.v r.vd out (BitVec.allOnes 64)) 0))) ∧
    (∀ (c : Core) (v : VReg → Lane), writable s.core r.vd → Reads s.core s.now ([r.va, r.vb] ++ keptRead s.core r.km r.vd) c v →
      ∃ (out : Lane) (bytes : BitVec 64), (∀ j, j < n → elemAt w out j =
          if j ≠ 0 then 0 else if s.core.active r.km 0 then elemAt w (v r.va) (elemAt w (v r.vb) 0 % n)
          else if s.core.bound r.vd then elemAt w (v r.va) (elemAt w (v r.vb) 0 % n) else elemAt w (v r.vd) 0) ∧
        (∀ i, i < 64 → bytes.getLsbD i = (s.core.active r.km 0 || decide (w / 8 ≤ i))) ∧
        exec (.vextr r) s = .next (withC s (laneDone c s.now 2 4 s.core.arch.livex srcs (.v r.vd out bytes) 0))) ∧
    (∀ (c : Core) (v : VReg → Lane), writable s.core r.vd → Reads s.core s.now [r.va, r.vb, r.vd] c v →
      ∃ out : Lane, (∀ j, j < n → elemAt w out j =
          if j = elemAt w (v r.vb) 0 % n ∧ s.core.active r.km j = true then elemAt w (v r.va) 0 else elemAt w (v r.vd) j) ∧
        exec (.vins r) s = .next (withC s (laneDone c s.now 2 4 s.core.arch.livex srcs (.v r.vd out (BitVec.allOnes 64)) 0))))

/-- R110, R114: the compares write one bit an element to a mask register. -/
def Obligations.LaneCompares : Prop :=
  ∀ (s : State) (r : LCmp),
    let srcs := [(r.va, r.la), (r.vb, r.lb)]
    let w := wInt r.es
    let F := esFmt r.es
    Compares s (.vcmpeq r) 2 srcs r.kd r.km w (fun v j => (elemAt w (v r.va) j == elemAt w (v r.vb) j, 0)) ∧
    Compares s (.vcmplt r) 2 srcs r.kd r.km w (fun v j => (decide (sgn w (elemAt w (v r.va) j) < sgn w (elemAt w (v r.vb) j)), 0)) ∧
    Compares s (.vcmpltu r) 2 srcs r.kd r.km w (fun v j => (decide (elemAt w (v r.va) j < elemAt w (v r.vb) j), 0)) ∧
    Compares s (.vfcmpeq r) 4 srcs r.kd r.km F.width (fun v j => fcmp F .eq (elemAt F.width (v r.va) j) (elemAt F.width (v r.vb) j)) ∧
    Compares s (.vfcmplt r) 4 srcs r.kd r.km F.width (fun v j => fcmp F .lt (elemAt F.width (v r.va) j) (elemAt F.width (v r.vb) j)) ∧
    Compares s (.vfcmple r) 4 srcs r.kd r.km F.width (fun v j => fcmp F .le (elemAt F.width (v r.va) j) (elemAt F.width (v r.vb) j))

/-- R40, R113 to R116, R120, R125: the lane floating-point instructions, element by element in the format of es or sz under STATUS.RM, and the
special functions in FP32; the destination of a fused instruction is its third source. -/
def Obligations.LaneFloat : Prop :=
  (∀ (s : State) (r : L3), let F := esFmt r.es
    (∀ p ∈ lfpTable, Elementwise s (p.1 r) 4 4 [(r.va, r.la), (r.vb, r.lb)] false r.vd r.km F.width
      (fun v j => p.2 F s.core.rm (elemAt F.width (v r.va) j) (elemAt F.width (v r.vb) j))) ∧
    (∀ p ∈ fmaTable, Elementwise s (p.1 r) 4 4 [(r.va, r.la), (r.vb, r.lb)] true r.vd r.km F.width
      (fun v j => p.2 F s.core.rm (elemAt F.width (v r.vd) j) (elemAt F.width (v r.va) j) (elemAt F.width (v r.vb) j)))) ∧
  (∀ (s : State) (r : L2), let F := esFmt r.es
    ∀ p ∈ lfp1Table, Elementwise s (p.1 r) 4 4 [(r.va, r.la)] false r.vd r.km F.width
      (fun v j => p.2 F s.core.rm (elemAt F.width (v r.va) j))) ∧
  (∀ (s : State) (r : LSfu), ∀ p ∈ lsfuTable, Elementwise s (p.1 r) 8 4 [(r.va, r.la)] false r.vd r.km 32
    (fun v j => p.2 fmtFp32 s.core.rm (decodeF fmtFp32 (elemAt 32 (v r.va) j)))) ∧
  (∀ (s : State) (r : ClOp), let F := if r.sz then fmtFp16 else fmtFp32
    (∀ p ∈ clfpTable, Elementwise s (p.1 r) 4 2 [(r.vd, false), (r.vs, r.ls)] false r.vd 0 F.width
      (fun v j => p.2 F s.core.rm (elemAt F.width (v r.vd) j) (elemAt F.width (v r.vs) j))) ∧
    Elementwise s (.clVfabs r) 4 2 [(r.vs, r.ls)] false r.vd 0 F.width (fun v j => fsign F false (elemAt F.width (v r.vs) j)) ∧
    Elementwise s (.clVfmacv r) 4 2 [(r.vs, r.ls), (15, false)] true r.vd 0 F.width
      (fun v j => ffma F s.core.rm (elemAt F.width (v r.vd) j) (elemAt F.width (v r.vs) j) (elemAt F.width (v 15) j)))

namespace Sys2Proof.Claims

/-- The width of a lane-format code, R50. -/
def fmtWidth : LaneFmt → Nat
  | .fp4 | .int4 | .uint4 | .bfp4 => 4
  | .fp6a | .fp6b => 6
  | .fp8a | .fp8b | .int8 | .uint8 | .sc8 | .bfp8 => 8
  | .int16 | .fp16 | .bf16 => 16
/-- R118, R121: codes packed at a format's width, element 0 lowest, an inactive element 0, with the flags of the active ones. -/
def packed (c : Core) (km : KReg) (wn n : Nat) (f : Nat → Nat × Flags) : Lane × Flags :=
  (packLane wn ((List.range n).map (fun j => if c.active km j then (f j).1 else 0)), flagsOf c km n f)
/-- R122: the active elements of a lane value, element 0 first. -/
def activeElems (c : Core) (km : KReg) (w : Nat) (v : Lane) : List Nat :=
  ((List.range (512 / w)).filter (c.active km)).map (elemAt w v)
/-- R122: the greatest of a list of integers by a measure, and 0 of an empty list. -/
def isBest (le : Nat → Nat → Prop) (l : List Nat) (x : Nat) : Prop := (l = [] ∧ x = 0) ∨ (x ∈ l ∧ ∀ y ∈ l, le y x)

/-- R126: the mask instructions of two masks and of one. -/
noncomputable def maskTable : List ((KReg → KReg → KReg → Instr) × (Word → Word → Word)) :=
  [(.kand, (· &&& ·)), (.kor, (· ||| ·)), (.kxor, (· ^^^ ·)), (.kmovx, fun a b => wd (a.toNat / 2 ^ (b.toNat % 64)))]
/-- The mask instructions of one mask. -/
noncomputable def mask1Table : List ((KReg → KReg → Instr) × (Word → Word)) :=
  [(.knot, (~~~ ·)), (.kmovk, id), (.kpopc, fun a => wd (((List.range 64).map (fun i => (a.getLsbD i).toNat)).sum)),
   (.kfirst, fun a => (match (List.range 64).find? a.getLsbD with | some i => 1 <<< i | none => 0))]

/-- R127: element i of a stream descriptor breaks its rule. -/
def badAt (e : Nat → Nat) (i : Nat) : Bool :=
  if i = 0 ∨ i = 2 ∨ i = 4 then decide (e i % 64 ≠ 0)
  else if i = 1 ∨ i = 3 then decide (e i = 0 ∨ 65535 < e i)
  else if i = 5 then decide (2 ≤ e i) else decide (e i ≠ 0)

end Sys2Proof.Claims

/-- R91 to R95, R118 to R121: the conversions between formats. A narrowing conversion packs its codes from element 0 and clears the rest of vd; the
stochastic one also steps all sixteen seeds; a widening one reads packed codes; the block instructions take or give a scale byte. -/
def Obligations.LaneConversions : Prop :=
  ∀ (s : State) (r : LCvt),
    let F := esFmt r.es
    let n := 512 / F.width
    let k := narrowOf r.fmt
    let e (v : VReg → Lane) (j : Nat) : Fv := decodeF F (elemAt F.width (v r.va) j)
    k.width = fmtWidth r.fmt ∧
    Whole s (.vcvtn r) 4 [(r.va, r.la)] false r.vd (fun v => packed s.core r.km k.width n (fun j => k.round .rne s.core.nsat (e v j))) ∧
    (∀ (c : Core) (v : VReg → Lane), writable s.core r.vd → Reads s.core s.now [r.va] c v →
      let q := packed s.core r.km k.width n (fun j =>
        k.round (.stoch (seedFor s.core.arch.seed.toList F.width j) (if F.width = 16 then 16 else 24)) s.core.nsat (e v j))
      let d := laneDone c s.now 4 4 s.core.arch.livex [(r.va, r.la)] (.v r.vd q.1 (BitVec.allOnes 64)) q.2
      exec (.vcvtsr r) s = .next (withC s { d with arch := { d.arch with seed := d.arch.seed.map lfsrStep } })) ∧
    Elementwise s (.vcvtw r) 4 4 [(r.va, r.la)] false r.vd r.km F.width
      (fun v j => widen F (k.value (elemAt k.width (v r.va) j))) ∧
    Whole s (.vqscale r) 4 [(r.va, r.la)] false r.vd (fun v =>
      let q := packed s.core r.km 8 n (fun j => blockScale (blockOf k) (e v j).mag)
      (q.1 ||| BitVec.ofNat 512 (elemAt 8 q.1 0) <<< 504, q.2)) ∧
    Whole s (.vquant r) 4 [(r.va, r.la)] true r.vd (fun v =>
      let sc := elemAt 8 (v r.vd) 63
      let q := packed s.core r.km k.width n (fun j => quantElem (blockOf k) sc (e v j))
      (q.1 ||| BitVec.ofNat 512 sc <<< 504, q.2 ||| (if sc = 255 then fNV else 0))) ∧
    Elementwise s (.vdeq r) 4 4 [(r.va, r.la)] false r.vd r.km F.width
      (fun v j => deqElem F (blockOf k) (elemAt 8 (v r.va) 63) (k.value (elemAt k.width (v r.va) j)))

/-- R122, R123: the reductions put their result in element 0 and 0 in every other; the integer ones set no flag, the sum wraps, and the
greatest or least of no active element is 0; the float sum is the fixed tree of R123.
R11, R44, R126: the mask instructions, whose latency is 2; k0 reads all ones and discards its writes. -/
def Obligations.ReductionsAndMasks : Prop :=
  (∀ (s : State) (r : L2) (c : Core) (v : VReg → Lane), writable s.core r.vd → Reads s.core s.now [r.va] c v →
     let w := wInt r.es
     let F := esFmt r.es
     let l := activeElems s.core r.km w (v r.va)
     let put (out : Nat) (fl : Flags) : Out := .next (withC s (laneDone c s.now 6 4 s.core.arch.livex [(r.va, r.la)]
       (.v r.vd (BitVec.ofNat 512 out) (BitVec.allOnes 64)) fl))
     exec (.vredadd r) s = put (l.sum % 2 ^ w) 0 ∧
     (∃ x, isBest (fun a b => sgn w a ≤ sgn w b) l x ∧ exec (.vredmax r) s = put x 0) ∧
     (∃ x, isBest (fun a b => sgn w b ≤ sgn w a) l x ∧ exec (.vredmin r) s = put x 0) ∧
     (let o := (List.range (512 / F.width)).map (fun j => if s.core.active r.km j then some (elemAt F.width (v r.va) j) else none)
      let t := redTree F s.core.rm 5 o
      let q := redResult F o (nth t.1 0 none) t.2
      exec (.vfredadd r) s = put (q.1 % 2 ^ F.width) q.2) ∧
     (let o := (List.range (512 / F.width)).map (fun j => if s.core.active r.km j then some (elemAt F.width (v r.va) j) else none)
      let q := match activeElems s.core r.km F.width (v r.va) with
        | [] => (0, 0)
        | a :: t =>
          let m := t.foldl (fun (acc : Nat × Flags) x => ((fminmax F true acc.1 x).1, acc.2 ||| (fminmax F true acc.1 x).2)) (a, 0)
          redResult F o (some m.1) m.2
      exec (.vfredmax r) s = put (q.1 % 2 ^ F.width) q.2)) ∧
  (∀ (s : State) (kd : KReg),
     let put (m : Word) : Out := .next (withC s (done s.core s.now 4 s.core.arch.livex
       (if kd = 0 then [] else [⟨s.core.iseq, s.now, s.now + 2, s.core.pc, .k kd m, 0, false⟩])))
     let kval (k : KReg) : Word := if k = 0 then -1 else s.core.arch.k[k]
     (∀ ka kb, ∀ p ∈ maskTable, exec (p.1 kd ka kb) s = put (p.2 (kval ka) (kval kb))) ∧
     (∀ ka, ∀ p ∈ mask1Table, exec (p.1 kd ka) s = put (p.2 (kval ka))))

/-- R127, R128, R130: the stream controls, outside the handler. STRM.CFG of a good descriptor starts its generator, bound or not as before; of another it traps
ACCESS with 16n and the index of the first bad element. STRM.BIND, with no write to vN in flight, binds a configured stream and traps
for one that is not; STRM.FREE leaves vN live and 0; STRM.STAT gives the transfers left, the next address and the state bits; its address
when no transfer is left is the model's choice (log entry 105). -/
def Obligations.Streams : Prop :=
  ∀ (s : State) (n : Fin 4), s.core.inh = false →
    let r : VReg := ⟨n.val, Nat.lt_of_lt_of_le n.isLt (by decide)⟩
    let st := s.core.arch.streams[n]
    let toS (c : Core) (t : Stream) : Core := { c with arch := { c.arch with streams := c.arch.streams.set n t } }
    (∀ (va : VReg) (la : Bool) (c : Core) (x : Lane), s.core.readV s.now va = .ok (c, x) →
      let e (i : Nat) : Nat := elemAt 64 x i
      let live := killedV c [(va, la)]
      ((∀ i, i < 8 → badAt e i = false) → exec (.strmCfg n va la) s = .next (withC s (done { toS c ⟨true, c.arch.streams[n].bound, wd (e 0), wd (e 1), wd (e 2),
          wd (e 3), wd (e 4), e 5 == 1, 0⟩ with arch := { (toS c ⟨true, c.arch.streams[n].bound, wd (e 0), wd (e 1), wd (e 2),
          wd (e 3), wd (e 4), e 5 == 1, 0⟩).arch with livev := live } } s.now 4 c.arch.livex []))) ∧
      (∀ i, i < 8 → badAt e i = true → (∀ j, j < i → badAt e j = false) →
        exec (.strmCfg n va la) s = .next (s.takeTrap ⟨.access, wd (16 * n.val + i)⟩ s.core.pc))) ∧
    ((∀ f ∈ s.core.flights, ∀ x b, f.dst ≠ .v r x b) →
      (st.conf = true → exec (.strmBind n) s = .next (withC s (done (toS s.core { st with bound := true, pos := 0 }) s.now 4
        s.core.arch.livex []))) ∧
      (st.conf = false → exec (.strmBind n) s = .next (s.takeTrap ⟨.access, wd (16 * n.val + 10)⟩ s.core.pc)) ∧
      (∃ t, exec (.strmFree n) s = .next t ∧ t.core.arch.v = s.core.arch.v.set r 0 ∧ t.core.arch.livev = s.core.arch.livev ||| 1#16 <<< n.val ∧
        t.core.arch.streams = s.core.arch.streams.set n { st with bound := false } ∧
        t = withC s { (done s.core s.now 4 s.core.arch.livex []) with arch := { (done s.core s.now 4 s.core.arch.livex []).arch with
          v := t.core.arch.v, livev := t.core.arch.livev, streams := t.core.arch.streams } })) ∧
    (∀ vd : VReg, writable s.core vd → exec (.strmStat vd n) s = .next (withC s (laneDone s.core s.now 2 4 s.core.arch.livex []
      (.v vd (BitVec.ofNat 512 (((st.total - st.pos) % 2 ^ 64) + 2 ^ 64 * (st.addr st.pos).toNat +
        2 ^ 128 * (st.conf.toNat + 2 * st.bound.toNat + 4 * st.write.toNat))) (BitVec.allOnes 64)) 0)))

namespace Sys2Proof.Claims

/-- The bytes that a lane store writes, element by element: the low bytes of element j at its address. -/
def laneCells (c : Core) (km : KReg) (w : Nat) (addr : Nat → Word) (v : Lane) : List Host.Cell :=
  ((List.range (512 / w)).filter (c.active km)).flatMap
    (fun j => (List.range (w / 8)).map (fun i => ((addr j).toNat + i, BitVec.ofNat 8 (elemAt w v j / 256 ^ i))))
/-- R190: every active element's address is aligned to b bytes and its bytes lie in the scratchpad. -/
def lanesInside (c : Core) (km : KReg) (n b : Nat) (addr : Nat → Word) : Prop :=
  ∀ j, j < n → c.active km j = true → (addr j).toNat % b = 0 ∧ (addr j).toNat + b ≤ 0x100000
/-- The lines that the active elements touch, in order. -/
def laneLines (c : Core) (km : KReg) (n : Nat) (addr : Nat → Word) : List Nat :=
  linesTouched (((List.range n).filter (c.active km)).map (fun j => (addr j).toNat))
/-- A register x0 to x15 of a lane load or store. -/
def xLow (i : Fin 16) : XReg := ⟨i.val, Nat.lt_of_lt_of_le i.isLt (by decide)⟩

/-- R190, R15, R44: the lane load `i`, whose sources left core c1 and whose addresses are `addr`, reads b bytes an element and writes `f` of
them; while a fence that orders loads is outstanding it is held (R168, R169; log entry 97). -/
def LaneLoad (s : State) (c1 : Core) (i : Instr) (kx : List (XReg × Bool)) (kv : List (VReg × Bool)) (vd : VReg) (km : KReg) (w b : Nat)
    (addr : Nat → Word) (f : Nat → Nat × Flags) : Prop :=
  (c1.loadHeld = true → exec i s = .next s.held) ∧
  ∀ (c2 c3 : Core) (v : VReg → Lane), c1.loadHeld = false → writable s.core vd → Reads c1 s.now (keptRead c1 km vd) c2 v → lanesInside s.core km (512 / w) b addr →
    (∀ l ∈ laneLines s.core km (512 / w) addr, ∀ k, k < 4 → l ∉ c1.pendingPushes k) →
    c2.laneReads s.now (laneLines s.core km (512 / w) addr) = .ok c3 →
    ∃ out : Lane, (∀ j, j < 512 / w → elemAt w out j = if s.core.active km j then (f (numIn c1 (addr j) b)).1 % 2 ^ w
        else if s.core.bound vd then 0 else elemAt w (v vd) j) ∧
      exec i s = .next (withC s (laneDone c3 s.now (4 + maxPerBank (laneLines s.core km (512 / w) addr)) 4 (killed s.core kx) kv
        (.v vd out (s.core.activeBytes km w)) (flagsOf s.core km (512 / w) (fun j => f (numIn c1 (addr j) b)))))

/-- R190, R335: the lane store `i` of the value v, whose sources left core c1, stores its cells when the store succeeds. -/
def LaneStore (s : State) (c1 : Core) (i : Instr) (kx : List (XReg × Bool)) (kv : List (VReg × Bool)) (km : KReg) (w : Nat)
    (addr : Nat → Word) (v : Lane) : Prop :=
  ∀ c2 : Core, lanesInside s.core km (512 / w) (w / 8) addr → (∀ x ∈ laneCells c1 km w addr v, ∀ k : Fin 8, (c1.rings[k]).holds (x.1 / 64) = false) →
    ({ c1 with arch := { c1.arch with livex := killed s.core kx, livev := killedV c1 kv } } : Core).store s.now 1 (s.umbra s.core.id.lh)
      (laneCells c1 km w addr v) = .ok c2 →
    exec i s = .next (withC s (done c2 s.now 4 (killed s.core kx) []))

end Sys2Proof.Claims

/-- R190, R192: the lane loads. VLD takes X[a] + X[b] + j·b, VLDS X[a] + j·X[b], VLDB one address for all, VLDG an index an element; VLDACC reads
8-byte accumulator elements, whole or narrowed. That a lane load is held while a fence that orders loads is outstanding is the model's reading
of R168 and R169 (log entry 97). -/
def Obligations.LaneLoads : Prop :=
  (∀ (s : State) (r : LMem), readable s.core (xLow r.a) = true → readable s.core (xLow r.b) = true →
    let x := s.core.xval (xLow r.a)
    let y := s.core.xval (xLow r.b)
    let w := wInt r.es
    let kx := [(xLow r.a, r.la), (xLow r.b, r.lb)]
    LaneLoad s s.core (.vld r) kx [] r.vd r.km w (w / 8) (fun j => x + y + wd (j * (w / 8))) (fun n => (n, 0)) ∧
    LaneLoad s s.core (.vlds r) kx [] r.vd r.km w (w / 8) (fun j => x + wd j * y) (fun n => (n, 0)) ∧
    LaneLoad s s.core (.vldb r) kx [] r.vd r.km w (w / 8) (fun _ => x + y) (fun n => (n, 0))) ∧
  (∀ (s : State) (r : LMemG) (c1 : Core) (ix : Lane), readable s.core (xLow r.a) = true → s.core.readV s.now r.vb = .ok (c1, ix) →
    let w := wInt r.es
    LaneLoad s c1 (.vldg r) [(xLow r.a, r.la)] [(r.vb, r.lb)] r.vd r.km w (w / 8)
      (fun j => s.core.xval (xLow r.a) + wd (elemAt w ix j * (w / 8))) (fun n => (n, 0))) ∧
  (∀ (s : State) (r : LAcc), readable s.core (xLow r.a) = true →
    LaneLoad s s.core (.vldacc r) [(xLow r.a, r.la)] [] r.vd r.km (if r.wide then 64 else 32) 8
      (fun j => s.core.xval (xLow r.a) + wd (8 * j)) (accElem r.wide r.int))

/-- R160, R188, R190, R335, R348: the lane stores, and what a store of cells does. Outside the handler the core's own loads read the last byte
stored at each address and every other byte as before, and nothing but the buffer changes; in the handler the scratchpad itself has them. -/
def Obligations.LaneStores : Prop :=
  (∀ (s : State) (r : LMem) (c1 : Core) (v : Lane), readable s.core (xLow r.a) = true → readable s.core (xLow r.b) = true →
    s.core.readV s.now r.vd = .ok (c1, v) →
    let x := s.core.xval (xLow r.a)
    let y := s.core.xval (xLow r.b)
    let w := wInt r.es
    let kx := [(xLow r.a, r.la), (xLow r.b, r.lb)]
    LaneStore s c1 (.vst r) kx [] r.km w (fun j => x + y + wd (j * (w / 8))) v ∧
    LaneStore s c1 (.vsts r) kx [] r.km w (fun j => x + wd j * y) v) ∧
  (∀ (s : State) (r : LMemG) (c1 : Core) (v : VReg → Lane), readable s.core (xLow r.a) = true → Reads s.core s.now [r.vb, r.vd] c1 v →
    let w := wInt r.es
    LaneStore s c1 (.vstsc r) [(xLow r.a, r.la)] [(r.vb, r.lb)] r.km w
      (fun j => s.core.xval (xLow r.a) + wd (elemAt w (v r.vb) j * (w / 8))) (v r.vd)) ∧
  (∀ (c d : Core) (now code : Nat) (umbra : Bool) (cs : List Host.Cell), c.store now code umbra cs = .ok d →
    (c.inh = false → d = { c with sbuf := d.sbuf } ∧ ∀ a, d.byteAt a = (lastCell cs a).getD (c.byteAt a)) ∧
    (c.inh = true → d = { c with mem := d.mem, undo := d.undo, bankUse := d.bankUse } ∧
      ∀ a, d.mem.get a = (lastCell cs a).getD (c.mem.get a)))

namespace Sys2Proof.Claims

/-- R77, R80: the value of a finite code as a multiple of the format's smallest subnormal. -/
def units (F : FloatFmt) (c : Nat) : Int :=
  let mag := c % 2 ^ (F.e + F.m)
  let ex := mag / 2 ^ F.m
  let v : Nat := if ex = 0 then mag % 2 ^ F.m else (mag % 2 ^ F.m + 2 ^ F.m) * 2 ^ (ex - 1)
  if c / 2 ^ (F.e + F.m) % 2 = 1 then -(v : Int) else v
/-- The smallest subnormal is 2 to the power of minus this, R80. -/
def fineness (F : FloatFmt) : Nat := F.bias + F.m - 1
/-- The sign of a code. -/
def negCode (F : FloatFmt) (c : Nat) : Bool := c / 2 ^ (F.e + F.m) % 2 == 1
/-- The magnitude of a code. -/
def magCode (F : FloatFmt) (c : Nat) : Nat := c % 2 ^ (F.e + F.m)
/-- The code of a sign and a magnitude. -/
def signed (F : FloatFmt) (neg : Bool) (mag : Nat) : Nat := (if neg then 2 ^ (F.e + F.m) else 0) + mag
/-- R80: the kinds of codes. -/
def isFin (F : FloatFmt) (c : Nat) : Bool := decide (magCode F c ≤ F.maxMag)
/-- An infinity. -/
def isInf (F : FloatFmt) (c : Nat) : Bool := F.ieee && magCode F c == (2 ^ F.e - 1) * 2 ^ F.m
/-- A NaN. -/
def isNaN (F : FloatFmt) (c : Nat) : Bool := !isFin F c && !isInf F c
/-- A signalling NaN: its top fraction bit is 0; a format without infinities has none. -/
def isSig (F : FloatFmt) (c : Nat) : Bool := F.ieee && isNaN F c && decide (magCode F c % 2 ^ F.m < 2 ^ (F.m - 1))
/-- The infinity of a sign. -/
def infinity (F : FloatFmt) (neg : Bool) : Nat := signed F neg ((2 ^ F.e - 1) * 2 ^ F.m)

/-- R85, R86, R88: whether N / D smallest subnormals, rounded as though the exponent had no bound, pass the largest finite magnitude. -/
def passes (F : FloatFmt) (rm : Rnd) (N : Int) (D : Nat) : Prop :=
  let top := units F F.maxMag
  let step := top - units F (F.maxMag - 1)
  let away := (top : Int) * D < N.natAbs
  let toward := (top + step) * D ≤ N.natAbs
  match rm with
  | .rtz => toward
  | .rup => if 0 < N then away else toward
  | .rdn => if N < 0 then away else toward
  | .rne | .stoch .. => (2 * top + step) * D < 2 * (N.natAbs : Int) ∨ ((2 * top + step) * D = 2 * (N.natAbs : Int) ∧ F.maxMag % 2 = 1)
/-- R85: whether N / D smallest subnormals, rounded to the format's precision with no lower bound of the exponent, stay below its smallest
normal number. -/
def tinyAfter (F : FloatFmt) (rm : Rnd) (N : Int) (D : Nat) : Prop :=
  let low := (N.natAbs : Int) < 2 ^ F.m * D
  let away := 2 * (N.natAbs : Int) ≤ (2 * 2 ^ F.m - 1) * D
  match rm with
  | .rtz => low
  | .rup => if 0 < N then away else low
  | .rdn => if N < 0 then away else low
  | .rne | .stoch .. => 4 * (N.natAbs : Int) < (4 * 2 ^ F.m - 1) * D
/-- R86, R89: the code c is the value N / D, which is not zero, rounded to the format: among the finite values the nearest, and of two the one whose
code is even; the next toward zero, up or down in the other modes. Its sign is that of the value, but that a zero is +0 where the format has
no other. -/
def nearest (F : FloatFmt) (rm : Rnd) (N : Int) (D c : Nat) : Prop :=
  c < 2 ^ F.width ∧ isFin F c = true ∧ negCode F c = (decide (N < 0) && (F.negZero || magCode F c != 0)) ∧
  let dist (d : Nat) : Nat := (units F d * D - N).natAbs
  ∀ d, isFin F d = true →
    match rm with
    | .rtz => (units F c).natAbs * D ≤ N.natAbs ∧ ((units F d).natAbs * D ≤ N.natAbs → (units F d).natAbs ≤ (units F c).natAbs)
    | .rup => N ≤ units F c * D ∧ (N ≤ units F d * D → units F c ≤ units F d)
    | .rdn => units F c * D ≤ N ∧ (units F d * D ≤ N → units F d ≤ units F c)
    | .rne | .stoch .. => dist c ≤ dist d ∧ (dist c = dist d → units F d = units F c ∨ c % 2 = 0)
/-- R85: the result of lane arithmetic whose exact value is N / D smallest subnormals, which is not zero: its code and its flags. -/
def Rounds (F : FloatFmt) (rm : Rnd) (N : Int) (D : Nat) (q : Nat × Flags) : Prop :=
  (passes F rm N D → q.2 = fOF ||| fNX ∧
    q.1 = (match rm with
      | .rtz => signed F (decide (N < 0)) F.maxMag
      | .rup => if 0 < N then infinity F false else signed F true F.maxMag
      | .rdn => if N < 0 then infinity F true else signed F false F.maxMag
      | .rne | .stoch .. => infinity F (decide (N < 0)))) ∧
  (¬ passes F rm N D → nearest F rm N D q.1 ∧
    (units F q.1 * D = N → q.2 = 0) ∧
    (units F q.1 * D ≠ N → (tinyAfter F rm N D → q.2 = fNX ||| fUF) ∧ (¬ tinyAfter F rm N D → q.2 = fNX)))
/-- R87: the canonical NaN, with NV or not. -/
def isNanOut (F : FloatFmt) (nv : Bool) (q : Nat × Flags) : Prop := q.1 = F.nan.getD 0 ∧ q.2 = if nv then fNV else 0

/-- The lane formats, R49. -/
def laneFormats : List FloatFmt := [fmtBf16, fmtFp16, fmtFp32, fmtFp64]
/-- The float formats that a narrowing conversion writes. -/
def narrowFormats : List FloatFmt := [fmtFp4, fmtFp6a, fmtFp6b, fmtFp8a, fmtFp8b, fmtFp16, fmtBf16]
/-- R88: what an overflow gives. -/
def overflowed (F : FloatFmt) (sat neg : Bool) : Nat :=
  if sat then signed F neg F.maxMag else if F.ieee then infinity F neg else match F.nan with | some n => n | none => signed F neg F.maxMag

/-- R177: the sum of a list of codes formed exactly and rounded once, RNE. -/
def ExactSum (F : FloatFmt) (vs : List Nat) (q : Nat × Flags) : Prop :=
  let pos := vs.any (fun v => isInf F v && !negCode F v)
  let neg := vs.any (fun v => isInf F v && negCode F v)
  let N := (vs.map (units F)).sum
  if vs.any (isNaN F) = true ∨ (pos = true ∧ neg = true) then isNanOut F (vs.any (isSig F) || (pos && neg)) q
  else if pos = true ∨ neg = true then q = (infinity F neg, 0)
  else if N = 0 then q = (signed F (vs.all (negCode F)) 0, 0)
  else Rounds F .rne N 1 q

end Sys2Proof.Claims

/-- R80, R85 to R89, R113: what the float arithmetic of the lanes gives. Of two codes of a lane format, under each mode of STATUS.RM: a NaN, or an
invalid operation (the sum of two unlike infinities, the product of zero and an infinity), gives the canonical NaN, with NV when an
operand signals or the operation is invalid; an infinity gives an infinity; a sum that is zero is +0, or −0 when both are −0, and −0 of
unlike signs under RDN; a product that is zero has the sign of the product; any other result is the exact one rounded once, with OF and NX
past the largest finite value, NX when inexact, and UF when tiny too. A difference is the sum with the other sign. The fused product and sum
round once. A narrowing conversion rounds to nearest, with the overflows of R88, a NaN that is canonical or 0 with NV, and +0 where the target
has no −0; one to an integer rounds to nearest and is held to the range. -/
def Obligations.FloatRounding : Prop :=
  (∀ F ∈ laneFormats, ∀ rm ∈ [Rnd.rne, .rtz, .rup, .rdn], ∀ a b c : Nat, a < 2 ^ F.width → b < 2 ^ F.width → c < 2 ^ F.width →
    let sg := isSig F a || isSig F b
    let D := 2 ^ fineness F
    (if isNaN F a = true ∨ isNaN F b = true ∨ (isInf F a = true ∧ isInf F b = true ∧ negCode F a ≠ negCode F b)
      then isNanOut F (sg || (isInf F a && isInf F b && negCode F a != negCode F b)) (fadd F rm a b)
      else if isInf F a = true then fadd F rm a b = (infinity F (negCode F a), 0)
      else if isInf F b = true then fadd F rm a b = (infinity F (negCode F b), 0)
      else if units F a + units F b = 0
        then fadd F rm a b = (signed F (if negCode F a = negCode F b then negCode F a else rm == .rdn) 0, 0)
      else Rounds F rm (units F a + units F b) 1 (fadd F rm a b)) ∧
    fsub F rm a b = fadd F rm a (signed F (!negCode F b) (magCode F b)) ∧
    (let s := negCode F a != negCode F b
     let bad := (isInf F a && isFin F b && units F b == 0) || (isInf F b && isFin F a && units F a == 0)
     if isNaN F a = true ∨ isNaN F b = true ∨ bad = true then isNanOut F (sg || bad) (fmul F rm a b)
      else if isInf F a = true ∨ isInf F b = true then fmul F rm a b = (infinity F s, 0)
      else if units F a * units F b = 0 then fmul F rm a b = (signed F s 0, 0)
      else Rounds F rm (units F a * units F b) D (fmul F rm a b)) ∧
    (isFin F a = true → isFin F b = true → isFin F c = true →
      let N := units F c * D + units F a * units F b
      N ≠ 0 → Rounds F rm N D (ffma F rm c a b)) ∧
    (isNaN F a = true ∨ isNaN F b = true ∨ isNaN F c = true → isFin F a = true ∨ isNaN F a = true → isFin F b = true ∨ isNaN F b = true →
      isNanOut F (sg || isSig F c) (ffma F rm c a b))) ∧
  (∀ G ∈ laneFormats, ∀ a : Nat, a < 2 ^ G.width →
    let N : Int := units G a
    let D := 2 ^ fineness G
    (∀ F ∈ narrowFormats, ∀ sat : Bool,
      let q := narrowF F .rne sat (decodeF G a)
      let M := N * 2 ^ fineness F
      if isNaN G a = true then (F.nan.isSome = true → isNanOut F (isSig G a) q) ∧ (F.nan = none → q = (0, fNV))
      else if isInf G a = true then q = (overflowed F sat (negCode G a), fOF)
      else if N = 0 then q = (signed F (negCode G a && F.negZero) 0, 0)
      else (passes F .rne M D → q = (overflowed F sat (decide (N < 0)), fOF ||| fNX)) ∧
        (¬ passes F .rne M D → Rounds F .rne M D q)) ∧
    (∀ p ∈ [(4, true), (4, false), (8, true), (8, false), (16, true)],
      let q := narrowI p.1 p.2 .rne (decodeF G a)
      let lo : Int := if p.2 then -2 ^ (p.1 - 1) else 0
      let hi : Int := if p.2 then 2 ^ (p.1 - 1) - 1 else 2 ^ p.1 - 1
      if isNaN G a = true then q = (0, fNV)
      else if isInf G a = true then q = (((if negCode G a then lo else hi) % 2 ^ p.1).toNat, fOF)
      else ∃ n : Int, 2 * (n * D - N).natAbs ≤ D ∧ (2 * (n * D - N).natAbs = D → n % 2 = 0) ∧
        (hi < n → q = ((hi % 2 ^ p.1).toNat, fOF ||| fNX)) ∧ (n < lo → q = ((lo % 2 ^ p.1).toNat, fOF ||| fNX)) ∧
        (lo ≤ n → n ≤ hi → q = ((n % 2 ^ p.1).toNat, if n * D = N then 0 else fNX))))

/-! ### Messages, atomics, logs and fences -/

namespace Sys2Proof.Claims

/-- R10, R13, R193: a peer address of a core of the launch, with a local part in the scratchpad, aligned. -/
def peerAddr (s : State) (x : Word) (align : Nat) : Prop :=
  x.toNat / 2 ^ 44 = 0 ∧ x.toNat / 2 ^ 32 < grid s ∧ x.toNat % 2 ^ 32 < 0x100000 ∧ x.toNat % 2 ^ 32 % align = 0
/-- The logical core of a peer address. -/
def peerOf (x : Word) : Nat := x.toNat / 2 ^ 32 % 4096
/-- The low n bytes of a word, the lowest first. -/
def lowBytes (n : Nat) (y : Word) : List Byte := (List.range n).map (fun i => y.extractLsb' (8 * i) 8)

/-- R193: the messages of two sources, the alignment of each, and what is sent. -/
noncomputable def msgTable (r : S2) : List (Instr × Nat × (Word → MsgKind)) :=
  [(.msgD r, 8, fun y => .bytes (lowBytes 8 y)), (.msgW r, 4, fun y => .bytes (lowBytes 4 y)), (.msgB r, 1, fun y => .bytes (lowBytes 1 y))]
/-- R193: the widths of MSG.N in bits. -/
def bitsOfWidth : SubWidth → Nat
  | .four => 4
  | .two => 2
  | .one => 1
/-- R197: the log appends. -/
noncomputable def logTable (narrow : Bool) (r : S2) : List (Instr × LogOp) :=
  [(.logAdd narrow r, .add), (.logMin narrow r, .min), (.logMax narrow r, .max), (.logOr narrow r, .or), (.logFadd narrow r, .fadd)]

/-- R348: the core after an instruction that put an item into the region's buffer. -/
def buffered (c : Core) (now : Nat) (live : BitVec 32) (b : Buf) : Core := { done c now 4 live [] with sbuf := c.sbuf ++ [b] }

/-- R195: the returning atomics: what each makes of w bits from the old value, the operand and the value X[d] held. -/
noncomputable def amoTable (wide : Bool) (r : R3) : List (Instr × Bool × (Nat → Nat → Nat → Nat)) :=
  let w := if wide then 64 else 32
  [(.amoadd wide r, false, fun old op _ => (old + op) % 2 ^ w),
   (.amomin wide r, false, fun old op _ => code w (min (sgn w old) (sgn w op))),
   (.amomax wide r, false, fun old op _ => code w (max (sgn w old) (sgn w op))),
   (.amominu wide r, false, fun old op _ => min old op), (.amomaxu wide r, false, fun old op _ => max old op),
   (.amoand wide r, false, fun old op _ => old &&& op), (.amoor wide r, false, fun old op _ => old ||| op),
   (.amoxor wide r, false, fun old op _ => old ^^^ op), (.amoswap wide r, false, fun _ op _ => op),
   (.amocas wide r, true, fun old op cmp => if old = cmp then op else old)]

/-- R15, R196: no claim of a bank overlaps the three cycles behind this one. -/
def slotFree (c : Core) (now bank : Nat) : Prop := ∀ u ∈ c.bankUse, ¬ (u.bank = bank ∧ u.lo ≤ now + 3 ∧ now + 1 ≤ u.hi)
/-- R196, R350: the core behind an atomic at an address whose bytes it leaves as `t`'s, with this write in flight. -/
def amoDone (c : Core) (now : Nat) (r : R3) (x : Nat) (mem : Mem) (undo : List (Nat × List Byte)) (fl : List Flight) : Core :=
  let d := done { c with
    bankUse := c.bankUse.filter (fun v => decide (now ≤ v.hi)) ++ [⟨x / 64 % 16, now + 1, now + 3, 3⟩]
    mem := mem
    undo := undo } now 4 (killed c [(r.a, r.la), (r.b, r.lb)]) fl
  opened d d.pc
/-- R176, R195, R196: the state behind an atomic that finds its region drained: with the address, the operand and the value to compare with
that its checks have read, it reads its bytes, writes what `f` makes of them, and leaves every other byte; X[d] has the old value four
cycles later, and the next region opens behind it. -/
def amoTo (s t : State) (wide : Bool) (r : R3) (f : Nat → Nat → Nat → Nat × Flags) (x y z : Word) : Prop :=
  let n := if wide then 8 else 4
  let old := s.core.mem.num x.toNat n
  let q := f old (y.toNat % 2 ^ (8 * n)) (z.toNat % 2 ^ (8 * n))
  (∀ a, t.core.mem.get a = if x.toNat ≤ a ∧ a < x.toNat + n then BitVec.ofNat 8 (q.1 / 256 ^ (a - x.toNat)) else s.core.mem.get a) ∧
  t = withC s (amoDone s.core s.now r x.toNat t.core.mem t.core.undo
    (if r.d = 0 ∧ q.2 = 0 then [] else [⟨s.core.iseq, s.now, s.now + 4, s.core.pc,
      (if r.d = 0 then .none else .x r.d (if wide then wd old else sx (BitVec.ofNat 32 old))), q.2, false⟩]))

end Sys2Proof.Claims

/-- R193, R197: outside the handler, with a peer address that R10 and R13 allow and room in the region, a message or log append joins the
region's buffer; it is sent when the region has committed. A peer address of no core of the launch traps ENGINE with the address. -/
def Obligations.MessagesAndAppends : Prop :=
  ∀ (s : State), s.core.inh = false →
    (∀ r : S2, readable s.core r.a = true → readable s.core r.b = true →
      let x := s.core.xval r.a
      let y := s.core.xval r.b
      let live := killed s.core [(r.a, r.la), (r.b, r.lb)]
      (s.core.room [0] = .ok () →
        (∀ p ∈ msgTable r, peerAddr s x p.2.1 →
          exec p.1 s = .next (withC s (buffered s.core s.now live (.msg (peerOf x) (x.toNat % 2 ^ 32) (p.2.2 y))))) ∧
        (∀ (w : SubWidth) (pos : Fin 8), peerAddr s x 1 →
          exec (.msgN r w pos) s = .next (withC s (buffered s.core s.now live (.msg (peerOf x) (x.toNat % 2 ^ 32)
            (.bits pos.val (bitsOfWidth w) (BitVec.ofNat 8 (y.toNat % 2 ^ bitsOfWidth w))))))) ∧
        (∀ narrow : Bool, ∀ p ∈ logTable narrow r, peerAddr s x (if narrow then 4 else 8) →
          exec p.1 s = .next (withC s (buffered s.core s.now live (.log (peerOf x) ⟨x.toNat % 2 ^ 32, p.2, !narrow, y⟩))))) ∧
      (grid s ≤ x.toNat / 2 ^ 32 → ∀ p ∈ msgTable r, exec p.1 s = .next (s.takeTrap ⟨.engine, x⟩ s.core.pc))) ∧
    (∀ r : S1, readable s.core r.a = true → s.core.room [0] = .ok () →
      let x := s.core.xval r.a
      x.toNat / 2 ^ 44 = 0 → x.toNat / 2 ^ 32 < grid s → 0x100200 ≤ x.toNat % 2 ^ 32 → x.toNat % 2 ^ 32 < 0x100400 → x.toNat % 16 = 0 →
      exec (.msgEv r) s = .next (withC s (buffered s.core s.now (killed s.core [(r.a, r.la)])
        (.msg (peerOf x) (x.toNat % 2 ^ 32) (.event ((x.toNat % 2 ^ 32 - 0x100200) / 16))))))

namespace Sys2Proof.Claims

/-- Whether a core's committed work on its own scratchpad is performed: nothing drains, and no BOSET of a mirror launch waits to be compared,
R196, R217. -/
def quiet (c : Core) : Prop := c.drainq = [] ∧ ∀ m ∈ c.mirror, ∀ n d a e, m.item.item ≠ .cmd n d (.boset a e)

end Sys2Proof.Claims

/-- R176, R195, R196, R335: a returning atomic at an aligned address of the scratchpad that no ring holds, outside the handler: once its
checks have passed it commits the region, and when the committed work has drained and its bank's slot is free it has its effect; until then
it is held at issue. That it keeps the operands of its checks, and is not checked again, is the model's choice (log entry 29), and the
checkpoint of the region that it opens takes its own result as settled (log entry 21). (In an Umbra launch an atomic that is the first write of
its 256-byte line in the epoch is first held while the line is copied, R358.) AMOFADD adds with RNE and raises its flags. -/
def Obligations.Atomics : Prop :=
  ∀ (s : State) (wide : Bool) (r : R3) (i : Instr) (f : Nat → Nat → Nat → Nat × Flags),
    ((∃ p ∈ amoTable wide r, p.1 = i ∧ f = (fun old op cmp => (p.2.2 old op cmp, 0)) ∧ (p.2.1 = true → readable s.core r.d = true)) ∨
      i = .amofadd wide r ∧ f = (fun old op _ => fadd (if wide then fmtFp64 else fmtFp32) .rne old op)) →
    (s.core.inh = false → s.core.atom = none → readable s.core r.a = true → readable s.core r.b = true →
      (s.core.xval r.a).toNat % (if wide then 8 else 4) = 0 → (s.core.xval r.a).toNat + (if wide then 8 else 4) ≤ 0x100000 →
      (∀ k : Fin 8, (s.core.rings[k]).holds ((s.core.xval r.a).toNat / 64) = false) →
      ∀ s1, s.commitAt s.core.pc = .ok s1 →
        let x := s.core.xval r.a
        (quiet s1.core → s1.core.copyFirst (s1.umbra s1.core.id.lh) [x.toNat] = .ok () →
          slotFree s1.core s1.now (x.toNat / 64 % 16) →
          ∃ t, exec i s = .next t ∧ amoTo s1 t wide r f x (s.core.xval r.b) (s.core.xval r.d)) ∧
        (¬ quiet s1.core → ∃ z, exec i s =
          .next (State.held (withC s1 { s1.core with atom := some (x, s.core.xval r.b, z) })))) ∧
    (∀ x y z, s.core.atom = some (x, y, z) →
      (quiet s.core → s.core.copyFirst (s.umbra s.core.id.lh) [x.toNat] = .ok () →
        slotFree s.core s.now (x.toNat / 64 % 16) → ∃ t, exec i s = .next t ∧ amoTo s t wide r f x y z) ∧
      (¬ quiet s.core → exec i s = .next s.held))

/-- R201: FENCE.I, outside the handler, has no effect but that the next instruction issues three cycles after it. -/
def Obligations.FenceIDelay : Prop :=
  ∀ s : State, s.core.inh = false →
    exec .fenceI s = .next (withC s { (done s.core s.now 4 s.core.arch.livex []) with nextIssue := s.now + 3 })

namespace Sys2Proof.Claims

/-- R177: a log entry of another operation than the floating-point sum applied to a number of its width. -/
def logOne (old : Nat) (e : LogEntry) : Nat :=
  let w := if e.wide then 64 else 32
  let x := e.val.toNat % 2 ^ w
  match e.op with
  | .add => (old + x) % 2 ^ w
  | .min => code w (min (sgn w old) (sgn w x))
  | .max => code w (max (sgn w old) (sgn w x))
  | .or => old ||| x
  | .fadd => old
/-- R177: what the entries of one word, in arrival order, make of its old value: the floating-point sum of them all is formed exactly and rounded
once, where the first of its entries stands (log entry 109), and every other entry is applied in its place. -/
def Merged (wide : Bool) (es : List LogEntry) (old out : Nat) (fl : Flags) : Prop :=
  let F := if wide then fmtFp64 else fmtFp32
  let sums := es.filter (fun e => e.op == .fadd)
  let first := (es.takeWhile (fun e => e.op != .fadd)).foldl logOne old
  let rest := (es.dropWhile (fun e => e.op != .fadd)).filter (fun e => e.op != .fadd)
  (sums = [] → out = first ∧ fl = 0) ∧
  (sums ≠ [] → ∃ v, ExactSum F (first :: sums.map (fun e => e.val.toNat % 2 ^ F.width)) (v, fl) ∧ out = rest.foldl logOne v)
/-- Whether a ring holds a byte of a log entry's word, R17. -/
def heldWord (c : Core) (e : LogEntry) : Bool :=
  (List.finRange 8).any (fun k => (c.erings[k]).holds (e.addr / 64) || (c.erings[k]).holds ((e.addr + (if e.wide then 8 else 4) - 1) / 64))

end Sys2Proof.Claims

/-- R168, R169, R199, R200: FENCE and FENCE.X outside the handler. FENCE never holds issue: what it orders joins the region's work, stores before
stores, messages before stores and messages, and stores and messages before loads (the model's reading of R168 beside R199, log entry
97). FENCE.X takes effect at the commit, but that of CORE before CORE or HOST holds the loads of its own region too, while what the core has
committed or has on its way within the scope is not performed (log entry 97). Of the consumer CORE it holds the next instruction: two cycles
at the near scopes, until an acknowledgement at the far ones; a path of the context traps. R177, R197, R198: LOG.MERGE applies every entry
of the log, each word's entries in arrival order, drops and counts those whose word a ring holds, empties the log, holds the core 16
cycles and 2 for each entry, and leaves every byte outside the words of its entries. -/
def Obligations.FencesAndMerge : Prop :=
  ∀ s : State, s.core.inh = false →
    let d := done s.core s.now 4 s.core.arch.livex []
    (∀ (sc : Scope) (p u : BitVec 3),
      let drains := (p.getLsbD 2 && (u.getLsbD 1 || u.getLsbD 2)) || (p.getLsbD 1 && u.getLsbD 1)
      let loads := (p.getLsbD 1 || p.getLsbD 2) && u.getLsbD 0
      exec (.fence sc p u) s = .next (withC s { d with
        sbuf := if drains = true ∨ loads = true then s.core.sbuf ++ [.fence ⟨sc, p.getLsbD 2, false, drains, loads, false⟩] else s.core.sbuf })) ∧
    (∀ (sc : Scope) (p k : Path),
      (p = .ctx ∨ k = .ctx → exec (.fenceX sc p k) s = .next (s.takeTrap ⟨.access, 0xF9⟩ s.core.pc)) ∧
      (p ≠ .ctx → k ≠ .ctx → ∃ (q : List Drain) (l : List Nat),
        let loads := decide (k = .core ∨ k = .host)
        (p ≠ .core ∨ loads = false → q = s.core.drainq ∧ l = s.core.loadAfter) ∧
        (p = .core → loads = true →
          q = (if s.core.drainq = [] then [] else
            s.core.drainq ++ [⟨.fence ⟨sc, true, true, false, true, false⟩, 0, s.now, s.now, s.timeFine, .none⟩]) ∧
          ∀ n, n ∈ l ↔ n ∈ s.core.loadAfter ∨ (∃ x ∈ s.packets, x.id = n ∧ s.underWay s.core sc x = true) ∨
            (∃ x ∈ s.tlines, x.id = n ∧ s.lineUnderWay s.core sc x = true)) ∧
        let e := { d with
          sbuf := if p = .core then s.core.sbuf ++ [.fence ⟨sc, true, true, true, loads, decide (k = .sheaf ∨ k = .host)⟩] else s.core.sbuf
          drainq := q
          loadAfter := l }
        (k ≠ .core → exec (.fenceX sc p k) s = .next { withC s e with fresh := s.fresh + 1 }) ∧
        (k = .core → sc ∈ [Scope.core, .gang, .cluster] →
          exec (.fenceX sc p k) s = .next { withC s { e with nextIssue := s.now + 2 } with fresh := s.fresh + 1 }) ∧
        (k = .core → sc ∈ [Scope.package, .peer, .domain, .host, .io, .system] →
          ∃ t, exec (.fenceX sc p k) s = .next t ∧ t.core = { e with run := .waiting .ack, nextIssue := t.core.nextIssue } ∧
            s.now < t.core.nextIssue ∧ ∃ a ∈ t.agenda, a.ev = .scopeAcknowledgement s.core.id ∧ a.at_ = t.core.nextIssue) ∧
        (k = .core → sc ∈ [Scope.group, .die, .device] →
          ∃ n, s.now + 2 ≤ n ∧ exec (.fenceX sc p k) s = .next { withC s { e with nextIssue := n } with fresh := s.fresh + 1 }))) ∧
    (∀ s1 : State, s.commitAt s.core.pc = .ok s1 → (∀ e ∈ s1.core.log, s1.core.draining (e.addr / 64) = false) →
      s1.core.copyFirst (s1.umbra s1.core.id.lh) s1.core.mergeAddrs = .ok () →
      ∃ t, exec .logMerge s = .next t ∧ t.core.log = [] ∧ t.core.nextIssue = s1.now + (16 + 2 * s1.core.log.length) ∧
        t.core.regpc = t.core.pc ∧ t.core.regcnt = 0 ∧
        (let k := (s1.core.log.filter (heldWord s1.core)).length
         t.core.logDrop = if k = 0 then s1.core.logDrop else min 0xFFFF (s1.core.logDrop + k)) ∧
        (∀ a, (∀ e ∈ s1.core.log, ¬ (e.addr ≤ a ∧ a < e.addr + (if e.wide then 8 else 4))) → t.core.mem.get a = s1.core.mem.get a) ∧
        ∀ (x : Nat) (wide : Bool),
          let n := if wide then 8 else 4
          (∀ e ∈ s1.core.log, heldWord s1.core e = false ∧
            ((e.addr = x ∧ e.wide = wide) ∨ e.addr + (if e.wide then 8 else 4) ≤ x ∨ x + n ≤ e.addr)) →
          ∃ fl, Merged wide (s1.core.log.filter (fun e => e.addr == x)) (s1.core.mem.num x n) (t.core.mem.num x n) fl ∧
            t.core.arch.fflags &&& zx fl = zx fl)
/-! ### Engine commands, rings and tables -/

namespace Sys2Proof.Claims

/-- R206, R348: the instruction `i` puts a command into the region's buffer, to give its ticket to X[d] at the commit. -/
def Buffers (s : State) (i : Instr) (kx : List (XReg × Bool)) (d : XReg) (cmd : Cmd) : Prop :=
  exec i s = .next (withC s (buffered s.core s.now (killed s.core kx) (.cmd s.core.iseq d cmd)))
/-- What every command of two sources needs: kernel code, live sources, and one of the 16 slots (R352). -/
def canIssue (s : State) (l : List XReg) : Prop :=
  s.core.inh = false ∧ (∀ r ∈ l, readable s.core r = true) ∧ cmdsOf s.core.sbuf < 16
/-- The bytes that the core's own loads read from an address on. -/
def bytesIn (c : Core) (a n : Nat) : List Byte := (List.range n).map (fun i => c.byteAt (a + i))
/-- An aligned block of n bytes in the scratchpad. -/
def inBlock (x : Word) (align n : Nat) : Prop := x.toNat % align = 0 ∧ x.toNat + n ≤ 0x100000
/-- R149: the core with one ring of its own view changed, and the ring instruction among its region's work. -/
def withRing (c : Core) (n : Fin 8) (op : RingOp) (r : Ring) : Core :=
  { c with rings := c.rings.set n r, sbuf := c.sbuf ++ [.ring n.val op] }

end Sys2Proof.Claims

/-- R206, R209 to R213, R216, R217, R341: the commands of the copy engine, BOSET and the trace commands, where their checks accept: each joins
the region's buffer with what its blocks and descriptors held at issue. With 16 commands buffered the next one traps REGION_OVF (R352). -/
def Obligations.CopyCommands : Prop :=
  ∀ (s : State) (r : R3),
    let x := s.core.xval r.a
    let y := s.core.xval r.b
    let kx := [(r.a, r.la), (r.b, r.lb)]
    (canIssue s [r.a, r.b] →
      (∀ d fd, s.checkCopy s.core x y false false = .ok (d, fd) → Buffers s (.copyin r) kx r.d (.copyIn x y d fd)) ∧
      (∀ d fd, s.checkCopy s.core x y true false = .ok (d, fd) → Buffers s (.copyout r) kx r.d (.copyOut x y d fd)) ∧
      (∀ d fd, s.checkCopy s.core x y false true = .ok (d, fd) → twRow x % 4 = 0 → twRow x + 4 * twRows x ≤ 0x100000 →
        let rows := (List.range (twRows x)).map (fun i => numIn s.core (wd (twRow x + 4 * i)) 4)
        (∀ k ∈ rows, k < dRows d) → Buffers s (.gather r) kx r.d (.gather x y d fd rows)) ∧
      (x.toNat % 64 = 0 → y.toNat < 2 ^ 39 → 1 ≤ clLines y → clLines y ≤ 16384 → x.toNat + 64 * clLines y ≤ 0x100000 →
        (lwToring y = true → (ringAt s.core.rings (lwRing y)).conf = true ∧ clLines y ≤ (ringAt s.core.rings (lwRing y)).size) →
        (lwToring y = false → lwLaddr y % 64 = 0 ∧ lwLaddr y + 64 * clLines y ≤ 0x100000) →
        Buffers s (.copyloc r) kx r.d (.copyLoc x.toNat y)) ∧
      (inBlock x 64 64 → mcastOk (bytesIn s.core x.toNat 64) = true →
        let b := mcastBlk (bytesIn s.core x.toNat 64)
        let g := groupOf s b.group
        (∀ i ∈ maskBits y, b.wbase + i < g.length) →
        Buffers s (.mcast r) kx r.d (.mcast b y ((maskBits y).map (fun i => nth g (b.wbase + i) 0)))) ∧
      (inBlock x 16 16 → y = 0 ∨ s.core.armedView.length < 16 →
        Buffers s (.boset r) kx r.d (.boset x.toNat (if y = 0 then none else some (y.setWidth 32)))) ∧
      Buffers s (.trcEmit r) kx r.d (.trcEmit (x.setWidth 15) y) ∧
      (x.toNat % 4096 = 0 → x.toNat < 2 ^ 52 → y.toNat < 2 ^ 14 → y.toNat / 32 % 8 = 0 → 7 ≤ y.toNat % 32 → y.toNat % 32 ≤ 20 →
        Buffers s (.trcCfg r) kx r.d (.trcCfg x y))) ∧
    (s.core.inh = false → readable s.core r.a = true → readable s.core r.b = true → 16 ≤ cmdsOf s.core.sbuf →
      exec (.trcEmit r) s = .next (s.takeTrap ⟨.regionOvf, 0x8000000000000000⟩ s.core.pc))

/-- R216, R218, R350: BOQ, outside the handler, with aligned addresses in the scratchpad and a destination that no ring holds: it commits the
region (s1), and is held while a committed store or BOSET still has to reach a line of its object or its destination. Then, its line copied in an
Umbra launch (R358), it writes the 16 bytes of the object, or the receive status for 0 and 1, to its destination; 1 also clears the drop
counts. X[d] is 0, every other byte is as before, and the next instruction issues six cycles later. -/
def Obligations.ObjectQuery : Prop :=
  ∀ (s s1 : State) (r : R3), s.core.inh = false → s.commitAt s.core.pc = .ok s1 →
    (∀ c ∈ [s.core, s1.core], readable c r.a = true ∧ readable c r.b = true ∧ inBlock (c.xval r.b) 16 16 ∧
      (c.xval r.a = 1 ∨ inBlock (c.xval r.a) 16 16) ∧ ∀ k : Fin 8, (c.rings[k]).holds ((c.xval r.b).toNat / 64) = false) →
    let x := s1.core.xval r.a
    let y := (s1.core.xval r.b).toNat
    ((s1.core.draining (x.toNat / 64) = true ∨ s1.core.draining (y / 64) = true) → exec (.boq r) s = .next s1.held) ∧
    (s1.core.draining (x.toNat / 64) = false → s1.core.draining (y / 64) = false →
    s1.core.copyFirst (s1.umbra s1.core.id.lh) [y] = .ok () →
    let v := if x.toNat ≤ 1 then min s1.core.log.length 0xFFFF * 2 ^ 48 + s1.core.logDrop % 2 ^ 16 * 2 ^ 32 + s1.core.msgDrop % 2 ^ 32
      else s1.core.mem.num x.toNat 16
    ∃ t, exec (.boq r) s = .next t ∧
      (∀ a, t.core.mem.get a = if y ≤ a ∧ a < y + 16 then BitVec.ofNat 8 (v / 256 ^ (a - y)) else s1.core.mem.get a) ∧
      (x = 1 → t.core.msgDrop = 0 ∧ t.core.logDrop = 0) ∧ (x ≠ 1 → t.core.msgDrop = s1.core.msgDrop ∧ t.core.logDrop = s1.core.logDrop) ∧
      (r.d ≠ 0 → t.core.arch.x = s1.core.arch.x.set r.d 0) ∧ (r.d = 0 → t.core.arch.x = s1.core.arch.x) ∧
      t.core.nextIssue = s1.now + 6 ∧ t.core.regpc = t.core.pc ∧ t.core.regcnt = 0)

namespace Sys2Proof.Claims

/-- R287: the word of SHF.STAT: ENDED, PARKED, PARKRD up to 15, READS, a LATE bit and two STATE bits for each stop. -/
def tourWord (t : Tour) : Nat :=
  let state : TourStop → Nat | .pending => 0 | .served => 1 | .deferred => 2 | .missed => 3
  t.ended.toNat * 2 ^ 63 + t.parked.toNat * 2 ^ 62 + min t.parkrd 15 * 2 ^ 52 + t.read.toNat * 2 ^ 48 +
  ((List.range t.late.length).map (fun i => (nth t.late i false).toNat * 2 ^ i)).sum * 2 ^ 32 +
  ((List.range t.stops.length).map (fun i => state (nth t.stops i .pending) * 4 ^ i)).sum

end Sys2Proof.Claims

/-- R281 to R293: the SHEAF and SCAN commands, where their checks accept. SHF.TAKE, once the region has committed (s1), returns the oldest
untaken record of its ring when that is ready, and sleeps when not, and in a slaved gang (R202); SHF.REL commits with its release last, which
acts at the commit, but in a mirror launch (R362) and behind a FENCE.X for the SHEAF path (R169) later. SHF.STAT and SCN.STAT give the fields of
the tour's and the scan's status word; SCN.CLOSE needs a command of its generation and returns once the chain is done. -/
def Obligations.SheafAndScan : Prop :=
  (∀ (s : State) (r : R3), canIssue s [r.a, r.b] →
    let x := s.core.xval r.a
    let y := s.core.xval r.b
    let kx := [(r.a, r.la), (r.b, r.lb)]
    (inBlock x 8 72 → y.toNat < 256 → itinOk (bytesIn s.core x.toNat 72) (grid s) = true → s.itinBusy s.core.id.lh y.toNat = false →
      Buffers s (.shfItin r) kx r.d (.shfItin y.toNat (itinOf (bytesIn s.core x.toNat 72)))) ∧
    (x.toNat < 256 → (s.itinView x.toNat).isSome = true → 1 ≤ y.toNat → y.toNat ≤ 65535 → s.itinBusy s.core.id.lh x.toNat = false →
      Buffers s (.shfHold r) kx r.d (.shfHold x.toNat y.toNat)) ∧
    (∀ d it, s.checkTensor x false = .ok d → y.toNat < 256 → s.itinView y.toNat = some it →
      Buffers s (.shfRead r) kx r.d (.shfRead x d y.toNat it))) ∧
  (∀ (s : State) (r : R2), canIssue s [r.a] →
    let x := s.core.xval r.a
    let kx := [(r.a, r.la)]
    (x.toNat < 8 → (s.core.missedRec x.toNat).isSome = true → Buffers s (.shfReread r) kx r.d (.shfReread x.toNat)) ∧
    (inBlock x 8 32 →
      let b := bytesIn s.core x.toNat 32
      let g := scanCfgOf b
      ∀ k, scanPair g.op g.type = true → indexOf? (· == s.core.id.lc) (groupOf s g.group) = some k → 1 ≤ g.steps → g.steps ≤ 4096 → 1 ≤ g.chans →
        g.chans ≤ 1024 → blkZero b 8 24 = true → s.core.scanView.2 = false → Buffers s (.scnCfg r) kx r.d (.scnCfg g k)) ∧
    (∀ g k, s.core.scanView.1 = some (g, k) →
      let a := x.toNat % 2 ^ 20
      let b := x.toNat / 2 ^ 20 % 2 ^ 20
      (x.toNat < 2 ^ 40 → scanPlace g a = true → scanPlace g b = true → scanApart g a b = true → Buffers s (.scnRun r) kx r.d (.scnRun a b)) ∧
      (x.toNat < 2 ^ 20 → scanPlace g a = true → Buffers s (.scnRed r) kx r.d (.scnRed a)) ∧
      (x.toNat < 2 ^ 40 → scanPlace g b = true → a = 0 → Buffers s (.scnApply r) kx r.d (.scnApply a b false)) ∧
      (2 ^ 40 ≤ x.toNat → x.toNat < 2 ^ 41 → scanPlace g a = true → scanPlace g b = true → scanApart g a b = true →
        Buffers s (.scnApply r) kx r.d (.scnApply a b true)))) ∧
  (∀ (s s1 : State) (r : R2), s.beginWait = .ok s1 → readable s1.core r.a = true → (s1.core.xval r.a).toNat < 8 →
    let n := (s1.core.xval r.a).toNat
    let c := { s1.core with arch := { s1.core.arch with livex := killed s1.core [(r.a, r.la)] } }
    (∀ q o, s1.core.untaken n = some q → q.st = .ready o → s1.core.slaved = false →
      exec (.shfTake r) s = .next (withC s1 (returned { c with
          stops := s1.core.stops.map (fun p => if p.tour == q.tour && p.stop == q.stop then { p with st := .taken o } else p)
          anchor := some (q.tour, q.stop)
          anchored := o != 3 } s1.now r.d
        (wd (o * 2 ^ 56 + q.stop * 2 ^ 52 + q.lines * 2 ^ 36 + (if o = 3 then 0 else q.addr)))))) ∧
    ((∀ q, s1.core.untaken n = some q → ∀ o, q.st ≠ .ready o) ∨ s1.core.slaved = true → exec (.shfTake r) s = .next (withC s1 (asleep c (.take n r.d))))) ∧
  (∀ (s : State) (r : R2), canIssue s [r.a] → s.core.flights = [] → (s.core.xval r.a).toNat < 8 →
    let n := (s.core.xval r.a).toNat
    let c := buffered s.core s.now (killed s.core [(r.a, r.la)]) (.cmd s.core.iseq r.d (.shfRel n))
    s.relsPending s.core n < (s.core.takenRecs n).length →
    (∀ s1, (withC s c).commit true = .ok s1 →
      let fenced := s1.core.drainq.any (fun d => match d.item with | .fence f => f.sheaf | _ => false)
      let s2 := if (s1.recOf s.core.id.lh).mirror = true ∨ fenced = true then s1 else s1.release s.core.id s1.core.issued[2] n
      exec (.shfRel r) s = .next (withC s2 (opened s2.core s2.core.pc)))) ∧
  (∀ (s : State) (r : R2), s.core.inh = false → readable s.core r.a = true →
    ∀ p t, s.core.tours.find? (fun p => p.1 == (s.core.xval r.a).toNat) = some p → s.tour? p.2 = some t →
      exec (.shfStat r) s = .next (withC s (done s.core s.now 4 (killed s.core [(r.a, r.la)]) (xwrite s.core s.now 2 r.d (wd (tourWord t)))))) ∧
  (∀ (s : State) (d : XReg), s.core.inh = false →
    exec (.scnStat d) s = .next (withC s (done s.core s.now 4 s.core.arch.livex (xwrite s.core s.now 2 d
      (let g := s.core.scan
       wd (min g.dups 0xFF * 2 ^ 56 + g.clen % 2 ^ 16 * 2 ^ 32 + g.k % 2 ^ 12 * 2 ^ 20 + nbit g.cfg.isSome * 2 ^ 19 +
        nbit g.carry?.isSome * 2 ^ 18 + nbit g.aggSent * 2 ^ 17 + g.gen % 2 ^ 16)))))) ∧
  (∀ (s s1 : State) (d : XReg), s.beginWait = .ok s1 → s1.core.scan.ran = true → s1.core.scan.aggSent = false →
    exec (.scnClose d) s = .next (withC s1 (asleep s1.core (.close d)))) ∧
  (∀ (s s1 : State) (d : XReg) (g : ScanCfg), s.beginWait = .ok s1 → s1.core.scan.ran = true → s1.core.scan.aggSent = true →
    s1.core.scan.cfg = some g → s1.core.slaved = false → (withC s1 (asleep s1.core (.close d))).chainDone (asleep s1.core (.close d)) g = true →
    ∃ t, exec (.scnClose d) s = .next t ∧ t.core.run = .ready ∧ t.core.nextIssue = s1.now + 1 ∧
      t.core.scan = { s1.core.scan with gen := (s1.core.scan.gen + 1) % 2 ^ 16, serial := s1.core.scan.serial + 1, aggSent := false
                                        ran := false, prevAt := (s1.core.scan.carry?.map (·.at_)).getD s1.now } ∧
      (d ≠ 0 → t.core.arch.x = s1.core.arch.x.set d (wd s1.core.scan.gen)))

/-- R219 to R225, R231, R359: the collective commands, where their checks accept: blocks of the scratchpad read at issue; a reduction names a
bound address group, and in an Umbra launch its result stays on the core. -/
def Obligations.CollectiveCommands : Prop :=
  (∀ (s : State) (r : R2), canIssue s [r.a] →
    let x := s.core.xval r.a
    let b := bytesIn s.core x.toNat 64
    let kx := [(r.a, r.la)]
    (inBlock x 64 64 → cagrpOk b = true → Buffers s (.cagrp r) kx r.d (.cagrp (cagrpBlk s.core b))) ∧
    (inBlock x 64 64 → redOk false b = true → s.agBound s.core (blkField b 0 2) = true →
      s.umbra s.core.id.lh = false ∨ (redBlk false b).dstLocal = true → Buffers s (.cldred r) kx r.d (.reduce (redBlk false b))) ∧
    (inBlock x 64 64 → redOk true b = true → s.agBound s.core (blkField b 0 2) = true → s.umbra s.core.id.lh = false →
      Buffers s (.cstred r) kx r.d (.reduce (redBlk true b))) ∧
    Buffers s (.cabort r) kx r.d (.cabort x.toNat)) ∧
  (∀ (s : State) (r : R3), canIssue s [r.a, r.b] →
    let x := s.core.xval r.a
    let y := s.core.xval r.b
    let kx := [(r.a, r.la), (r.b, r.lb)]
    (let h := bytesIn s.core x.toNat 16
     let n := blkField h 0 4
     let node (i : Nat) : List Byte := bytesIn s.core (x.toNat + 16 + 128 * i) 128
     y.toNat < 16 → inBlock x 64 (16 + 128 * n) → 1 ≤ n → n ≤ 64 → blkZero h 4 12 = true →
     (∀ i, i < n → nodeOk i (node i) = true ∧ s.agBound s.core (graphNode (node i)).2.agid = true ∧
       (s.umbra s.core.id.lh = false ∨ (graphNode (node i)).2.dstLocal = true)) →
     Buffers s (.cgraph r) kx r.d (.cgraph y.toNat ((List.range n).map (fun i => graphNode (node i))))) ∧
    (∀ nodes, s.core.graphView x.toNat = some nodes → inBlock y 8 8 → Buffers s (.crun r) kx r.d (.crun nodes y.toNat)))

/-- R53, R141 to R149: the matrix commands, where the checks of R142 accept, and the rings of the core's own view. RINGSET needs a free, aligned
place for 1 to 16384 lines apart from every other ring; RINGPUSH appends lines while there is room and no delivery is in progress, and RINGPOP
drops lines that are held, not claimed and before the lines of every stop, both RINGOVF when lines are missing; RINGCLR empties a ring that no
engine uses. That RINGSET and RINGCLR complete behind a matrix command of their own region, whose claims come with the commit, is the model's
choice (log entry 35). RINGPUSH, RINGPOP and RINGCLR of an unconfigured ring are illegal, in the trap handler too. The engines see each change when
the region commits. -/
def Obligations.MatrixAndRings : Prop :=
  (∀ (s : State) (r : R3), canIssue s [r.a, r.b] →
    let x := s.core.xval r.a
    let y := s.core.xval r.b
    let dA := s.tidView (y.toNat % 2 ^ 12)
    let dB := s.tidView (y.toNat / 2 ^ 12 % 2 ^ 12)
    let dC := s.tidView (y.toNat / 2 ^ 24 % 2 ^ 12)
    s.checkMma x y dA dB dC = .ok () →
      Buffers s (.mma r) [(r.a, r.la), (r.b, r.lb)] r.d (.mma false x y dA dB dC) ∧
      Buffers s (.mmaz r) [(r.a, r.la), (r.b, r.lb)] r.d (.mma true x y dA dB dC)) ∧
  (∀ (s : State) (n : Fin 8), s.core.inh = false →
    let o := s.core.rings[n]
    (∀ r : S2, readable s.core r.a = true → readable s.core r.b = true →
      let base := (s.core.xval r.a).toNat
      let size := (s.core.xval r.b).toNat
      base % 64 = 0 → 1 ≤ size → size ≤ 16384 → base + 64 * size ≤ 0x100000 →
      (∀ j : Fin 8, j ≠ n → (s.core.rings[j]).conf = true →
        (s.core.rings[j]).base + 64 * (s.core.rings[j]).size ≤ base ∨ base + 64 * size ≤ (s.core.rings[j]).base) →
      o.held = 0 → o.appended = 0 → o.claimed = 0 → o.deliv = 0 → o.stops = 0 →
      exec (.ringset n r) s = .next (withC s (withRing (done s.core s.now 4 (killed s.core [(r.a, r.la), (r.b, r.lb)]) []) n
        (.set base size) ⟨true, base, size, 0, 0, 0, 0, 0, 0, 0, 0⟩))) ∧
    (o.conf = true → ∀ r : S1, readable s.core r.a = true →
      let k := (s.core.xval r.a).toNat
      let d := done s.core s.now 4 (killed s.core [(r.a, r.la)]) []
      (o.deliv = 0 → k ≤ o.size - o.held - o.appended →
        exec (.ringpush n r) s = .next (withC s (withRing d n (.push k) { o with held := o.held + k }))) ∧
      (o.deliv ≠ 0 → exec (.ringpush n r) s = .next (s.takeTrap ⟨.access, 0x35⟩ s.core.pc)) ∧
      (o.deliv = 0 → o.size - o.held - o.appended < k →
        exec (.ringpush n r) s = .next (s.takeTrap ⟨.ringovf, wd (n.val + k % 2 ^ 16 * 2 ^ 16)⟩ s.core.pc)) ∧
      (k ≤ o.held → k = 0 ∨ (o.claimed = 0 ∧ k ≤ s.core.beforeStops n.val ∧ s.core.claimsInRegion n.val = false) →
        exec (.ringpop n r) s = .next (withC s (withRing d n (.pop k) { o with head := (o.head + k) % o.size, held := o.held - k }))) ∧
      (o.held < k → exec (.ringpop n r) s = .next (s.takeTrap ⟨.ringovf, wd (n.val + k % 2 ^ 16 * 2 ^ 16)⟩ s.core.pc))) ∧
    (o.conf = true → o.claimed = 0 → o.deliv = 0 → o.stops = 0 →
      exec (.ringclr n) s = .next (withC s (withRing (done s.core s.now 4 s.core.arch.livex []) n .clear
        { o with head := 0, held := 0, appended := 0 })))) ∧
  (∀ (s : State) (n : Fin 8), (s.core.rings[n]).conf = false →
    let illegal : Out := .next (s.takeTrap ⟨.illegal, s.core.instrWord⟩ s.core.pc)
    exec (.ringclr n) s = illegal ∧ ∀ r : S1, exec (.ringpush n r) s = illegal ∧ exec (.ringpop n r) s = illegal)

/-- R150 to R153, R277, R278, R280: the tensor identifiers and the timed exchange. TIDDEF, TIDSWAP and TIDINV buffer a change of the table,
which the core's own instructions see at once; TSLOTCFG buffers a selection of slots; TSEND, in a timed launch, at a cycle of an entry that
names its receiver, with the region committed and drained, reads the 64 bytes and sends them. -/
def Obligations.TablesAndExchange : Prop :=
  (∀ (s : State) (r : S2), canIssue s [r.a, r.b] →
    let x := s.core.xval r.a
    let y := s.core.xval r.b
    let kx := [(r.a, r.la), (r.b, r.lb)]
    (y.toNat < 4096 → inBlock x 32 32 → tidFault (BitVec.ofNat 256 (numIn s.core x 32)) = none →
      let cmd := Cmd.tidDef y.toNat (BitVec.ofNat 256 (numIn s.core x 32))
      Buffers s (.tiddef r) kx 0 cmd ∧
      (∀ k, k < 4096 → (withC s (buffered s.core s.now (killed s.core kx) (.cmd s.core.iseq 0 cmd))).tidView k =
        if k = y.toNat then BitVec.ofNat 256 (numIn s.core x 32) ||| 0x800000 else s.tidView k)) ∧
    (x.toNat < 4096 → y.toNat < 4096 → Buffers s (.tidswap r) kx 0 (.tidSwap x.toNat y.toNat))) ∧
  (∀ (s : State) (r : S2), s.core.inh = false → readable s.core r.a = true → readable s.core r.b = true →
    let x := s.core.xval r.a
    let y := s.core.xval r.b
    let kx := [(r.a, r.la), (r.b, r.lb)]
    (timed s = true → y ≠ 0 → x.toNat + y.toNat ≤ (s.kernOf s.core.id.lh).slots.length →
      exec (.tslotcfg r) s = .next (withC s (buffered s.core s.now (killed s.core kx) (.slotSel x.toNat y.toNat))))) ∧
  (∀ (s : State) (r : S1), canIssue s [r.a] → (s.core.xval r.a).toNat < 4096 →
    Buffers s (.tidinv r) [(r.a, r.la)] 0 (.tidInv (s.core.xval r.a).toNat)) ∧
  (∀ (s s1 : State) (r : S2) (w : Nat) (e : SlotEnt), s.core.inh = false → timed s = true → s.commitAt s.core.pc = .ok s1 → s1.core.drainq = [] →
    readable s1.core r.a = true → readable s1.core r.b = true → s1.core.window = some w →
    let x := s1.core.xval r.a
    let y := s1.core.xval r.b
    peerAddr s1 y 1 → y.toNat % 2 ^ 32 + 64 ≤ 0x100000 → inBlock x 64 64 → e ∈ s1.slotsOf s1.core → e.cyc ≤ s1.now - w →
    s1.now - w < e.cyc + e.lines → e.receiver = peerOf y → bankFree s1.core s1.now x →
    ∃ (t : State) (l : TLine), exec (.tsend r) s = .next t ∧ t.tlines = s1.tlines ++ [l] ∧ l.core = ⟨s1.core.id.lh, peerOf y, s1.core.id.twin⟩ ∧
      l.addr = y.toNat % 2 ^ 32 ∧ l.bytes = s1.core.mem.getN x.toNat 64 ∧ (∃ g ∈ t.agenda, g.ev = .tsendLanding l.id ∧ s1.now < g.at_) ∧
      t.core.mem = s1.core.mem ∧ t.core.arch.x = s1.core.arch.x)

/-! ### Events -/

namespace Sys2Proof.Claims

/-- An event goes on, to a state of which P holds. -/
def Goes (ev : Instr) (s : State) (P : State → Prop) : Prop := ∃ t, exec ev s = .next t ∧ P t
/-- The core of an identity has become this, and the cores of every other logical core are as before. -/
def Became (s t : State) (id : CoreId) (c : Core) : Prop :=
  t.core? id = some c ∧ ∀ j : CoreId, (j.lh ≠ id.lh ∨ j.lc ≠ id.lc) → t.core? j = s.core? j
/-- What the cores of a logical core become: its one core, or both twins of a mirror launch. -/
def Each (s t : State) (id : CoreId) (P : Core → Core → Prop) : Prop :=
  ∀ (tw : Bool) (c : Core), s.core? { id with twin := tw } = some c → ∃ e, t.core? { id with twin := tw } = some e ∧ P c e
/-- R358: a write to these addresses of a logical core is the first of an epoch to no line: it is made outside an Umbra launch, or the old
contents of each line have been logged. -/
def logged (s : State) (id : CoreId) (l : List Nat) : Prop :=
  s.umbra id.lh = true → ∀ c ∈ s.cores, c.id.lh = id.lh → c.id.lc = id.lc → ∀ a ∈ l, ∃ u ∈ c.undo, u.1 = a / 256
/-- No requester has the bank of an address in this cycle, for a core or its twin, R14, R15. -/
def bankIdle (s : State) (id : CoreId) (a : Nat) : Prop :=
  ∀ c ∈ s.cores, c.id.lh = id.lh → c.id.lc = id.lc →
    (∀ u ∈ c.bankUse, u.bank = a / 64 % 16 → ¬(u.lo ≤ s.now ∧ s.now ≤ u.hi)) ∧ (c.id, a / 64 % 16) ∉ s.dynUse
/-- R207, R359: the address in the scratchpad that a completion flag is written to as the command completes; the flag of a COPYOUT of an Umbra
launch is written when the epoch closes. -/
def flagAddr (x : Inflight) : List Nat :=
  match x.flag, x.cmd with
  | .localAt _, .copyOut .. => []
  | .localAt a, _ => [a]
  | _, _ => []
/-- R14, R15: an access of an engine to a logical core's scratchpad is under way from a cycle on: the lines that some cells lie in, one after
another, each when its bank is free. -/
def UnderWay (t : State) (id : CoreId) (at_ : Nat) (cells : List Host.Cell) (act : AccAct) : Prop :=
  ∃ k, Access.mk k (primOf id) (byLine cells) act ∈ t.accs ∧ ⟨at_, true, .dynamicLineLanding k, []⟩ ∈ t.agenda
/-- R207, R359: the flag word of a command that completes under a ticket is on its way: staged to the end of the epoch, written to the scratchpad
through its bank, or in device memory. -/
def Flagged (s t : State) (id : CoreId) (x : Inflight) (n : Nat) : Prop :=
  let w := leBytes 8 (n % 2 ^ 56 + x.status * 2 ^ 56)
  match x.flag with
  | .none => True
  | .localAt a =>
    if s.umbra id.lh = true ∧ (∃ p q d f, x.cmd = .copyOut p q d f) then
      Each s t id (fun _ e => e.staged.getLast? = some ⟨none, a, w, true⟩)
    else UnderWay t id s.now (cellsAt a w) .none
  | .device pa => s.umbra id.lh = false → t.hbm.getN pa 8 = w
  | .peer pkg pa => s.umbra id.lh = false → Config.peerRefuses pkg pa s.fresh = false → t.peerWrites.getLast? = some (pkg, pa, w)
/-- R28, R207: a command has completed: it is gone, its class's sequence register holds its ticket, and its flag follows; the scratchpad is as
it was. -/
def Completed (s t : State) (id : CoreId) (p : EngClass) (x : Inflight) : Prop :=
  Each s t id (fun c e => e.cmdOf p x.ticket = none ∧ e.eseq = c.eseq.set (clsIx p) x.ticket ∧ e.mem = c.mem) ∧ Flagged s t id x x.ticket
/-- R14, R207, R358: what a command writes into the scratchpad before it completes: held for 4 cycles while the old contents are copied, or under
way from now on; nothing where it has no such bytes. -/
def Recording (s t : State) (id : CoreId) (p : EngClass) (x : Inflight) (cells : List Host.Cell) : Prop :=
  let held := ¬ logged s id (cells.map (·.1) ++ flagAddr x)
  (held → t.cmdOf id p x.ticket = some { x with due := s.now + 4, legs := [] }) ∧
  (¬ held → t.cmdOf id p x.ticket = some { x with busy := true } ∧ UnderWay t id s.now cells (.record p x.ticket)) ∧
  Each s t id (fun c e => e.mem = c.mem)
/-- The record of a command is still to be written. -/
def unrecorded (s : State) (id : CoreId) (x : Inflight) (cells : List Host.Cell) : Prop :=
  ¬ logged s id (cells.map (·.1) ++ flagAddr x) ∨ (x.done = false ∧ cells ≠ [])
/-- The scratchpad bytes that a copy command's completion writes beside its flag: the factor bytes that COPYOUT keeps there (R210), and the
status record of a multicast (R213). -/
def factorCells (x : Inflight) : List Host.Cell :=
  match x.cmd with
  | .copyOut xa _ d _ => if x.status = 0 then (tileLocal d (twCblk xa) (twList xa)).map (fun p => (p.1, nth x.data p.2 0)) else []
  | _ => []
def recordCells (x : Inflight) : List Host.Cell :=
  match x.staddr with | some a => cellsAt a (leBytes 8 (x.ticket % 2 ^ 56 + x.status * 2 ^ 56) ++ leBytes 8 x.mask) | none => []
/-- R14, R15: the next line of an engine's access finds its bank free: its cells are written, and the next line follows, or what the access was
for. -/
def accessed (s : State) (x : Access) : Prop :=
  ∀ a cells rest, x.lines = (a, cells) :: rest →
    (bankIdle s x.core a → rest ≠ [] → Goes (.dynamicLineLanding x.id) s (fun t => Each s t x.core (fun c e => e.mem = c.mem.setCells cells) ∧
      t.accs.find? (fun y => y.id == x.id) = some { x with lines := rest } ∧ ⟨s.now + 1, true, .dynamicLineLanding x.id, []⟩ ∈ t.agenda)) ∧
    (bankIdle s x.core a → rest = [] → Goes (.dynamicLineLanding x.id) s (fun t =>
      (∀ k, x.act ≠ .read k) → Each s t x.core (fun c e => e.mem = c.mem.setCells cells) ∧ t.accs.find? (fun y => y.id == x.id) = none ∧
      (∀ p n z, x.act = .record p n → s.cmdOf x.core p n = some z →
        t.cmdOf x.core p n = some { z with busy := false, done := true, due := s.now, legs := [] }))) ∧
    (¬ bankIdle s x.core a → Goes (.dynamicLineLanding x.id) s (fun t => t.cores = s.cores ∧ t.accs = s.accs ∧
      ⟨s.now + 1, true, .dynamicLineLanding x.id, []⟩ ∈ t.agenda))
/-- R143: every member of a gang has issued its n-th matrix command, and the lines that it claims are committed; no member has started it, and
each has started those before it. -/
def canStart (s : State) (lh g n : Nat) (tw : Bool) : Prop :=
  ∀ m, m < max 1 (s.recOf lh).gang → ∃ c x, s.core? ⟨lh, g * max 1 (s.recOf lh).gang + m, tw⟩ = some c ∧ c.mmaOf n = some x ∧
    x.started = none ∧ c.gone = false ∧ (c.claimAt x).1 + x.linesA ≤ (ringAt c.erings (opRingA x.opw)).held ∧
    (c.claimAt x).2 + x.linesB ≤ (ringAt c.erings (opRingB x.opw)).held ∧ ∀ y ∈ c.mma, y.n < n → y.started ≠ none
/-- R155, R255: the aggregate that a scan command sends, if any. -/
def aggregate (c : Core) (x : ScanCmd) : Option (List Byte) :=
  match x.cmd with
  | .scnRun .. | .scnRed .. => some (c.scan.res.getD (c.scanResult x)).agg
  | _ => none
/-- R255: no aggregate of the generation was sent with another configuration, nor one of the same member with other bits. -/
def agreeing (s : State) (id : CoreId) (x : ScanCmd) (bytes : List Byte) : Prop :=
  ∀ l, s.launch? id.lh = some l → ∀ a ∈ l.aggsOf x.cfg.group x.epoch x.gen, a.cfg = x.cfg ∧ (a.member = x.k → a.bytes = bytes)
/-- R223, R224: what a chunk of a reduction marks in its status area. -/
def markCells (x : Inflight) (k : Nat) : List Host.Cell :=
  match x.staddr with
  | some a => cellsAt (a + 0x14) (leBytes 4 (k + 1)) ++ cellsAt (a + 0x60 + k / 8) (leBytes 1 (2 ^ (k % 8 + 1) - 1))
  | none => []
/-- R224, R226: a chunk of a reduction is written: the next one follows later, or the reduction has nothing left to do. -/
def written (s t : State) (id : CoreId) (n k : Nat) (b : RedBlk) (y : Inflight) : Prop :=
  (b.chunks ≤ k + 1 → y.left = 0) ∧ (k + 1 < b.chunks → y.left ≠ 0 ∧ ∃ T, s.timeFine < T ∧ (T, .chunkWrite id n (k + 1)) ∈ t.timers)
/-- A reduction that has ended with a status and a mask. -/
def Over (s t : State) (id : CoreId) (n status mask : Nat) : Prop :=
  ∃ y, t.cmdOf id .coll n = some y ∧ y.left = 0 ∧ y.status = status ∧ y.mask = mask ∧ y.due = s.now ∧ y.started = true ∧ y.stalled = none
/-- A launch that neither uses Umbra nor is mirrored. -/
def plain (s : State) (lh : Nat) : Prop := (s.recOf lh).umbra = false ∧ (s.recOf lh).mirror = false
/-- R358: the merges of the logs of some members are the first writes of an epoch to no line. -/
def merges (s : State) (lh : Nat) (mem : List Nat) : Prop :=
  s.umbra lh = true → ∀ c ∈ s.cores, ∀ d ∈ s.cores, c.id.lh = lh → c.id.lc ∈ mem → c.gone = false → d.id = c.id →
    ∀ a ∈ c.mergeAddrs, ∃ u ∈ d.undo, u.1 = a / 256
/-- No ring of a core holds a line of these bytes, R17. -/
def unheld (c : Core) (a n : Nat) : Prop := firstHeld c.erings (span a n) = none
/-- R321: a physical core is scrubbed: 1,024 cycles have passed since it left its last work, and since the bring-up of its die. -/
def clean (s : State) (ix : Nat) : Prop :=
  (s.physOf ix).scrubbed ≤ s.now ∧ ∀ d : Fin 4, d.val = physDie ix → s.mgmt.dieScrub[d] ≤ s.now
/-- Nothing of a context is translated: no cached entry and no table. -/
def unmapped (s : State) (ctx : Nat) : Prop := s.tlb = [] ∧ ∀ i : Fin 16, (s.ctx ctx).roots[i] = 0
/-- SPDM's answer to an event, R327. -/
def answers (s : State) (ev : Instr) (r : Spdm) : Prop := Goes ev s (fun t => t.mgmt.spdm = s.mgmt.spdm ++ [r])

end Sys2Proof.Claims

/-- R177, R200, R203, R256, R258, R267, R268, R275, R353, R357: what ends waits and holds. A SLEEPU whose time has come returns, and a
WAITA whose deadline has come returns 4; an acknowledged FENCE.X lets its core go on; at a tick a core that sleeps in REALIGN goes on in
that cycle with X[d] = TIME divided by the tick and the window open, and a member of a slaved gang keeps that value and returns with the
others (R202); a detected error stops the region, which starts again at REGPC with
the registers of its checkpoint when the unit is reset, and stays held where an RGN.COMMIT had held it (R350); a group barrier that fires
raises its generation, and SNAP the epoch, once the old contents of the lines that their merges write are copied (R358; log entry 84). -/
def Obligations.WaitsExpire : Prop :=
  ∀ (s : State) (id : CoreId) (c : Core), s.core? id = some c →
    (∀ T : Word, c.run = .waiting (.sleepu T) → T.toNat ≤ s.timeNs →
      Goes (.sleepuExpiry id) s (fun t => t.core = returned c s.now 0 0 ∧ t.now = s.now)) ∧
    (∀ (d : XReg) (slots : List (Nat × Nat × Word)) (T : Word), c.run = .waiting (.arm d slots T) → c.firing slots = none →
      (T ≠ 0 ∧ T.toNat ≤ s.timeNs) ∨ (T = 0 ∧ slots = []) → Goes (.waitaDeadline id) s (fun t => t.core = returned c s.now d 4 ∧ t.now = s.now)) ∧
    (c.run = .waiting .ack → c.nextIssue ≤ s.now →
      Goes (.scopeAcknowledgement id) s (fun t => Became s t id { c with run := .ready })) ∧
    (∀ d : XReg, c.run = .waiting (.realign d none) →
      (c.slaved = false → s.withheld c.die = false →
        Goes (.tick id.lh) s (fun t => t.core? id = some { returned c s.now d (wd (s.timeNs / (s.recOf id.lh).tick)) with
          nextIssue := s.now, window := some s.now, winFirst := c.slotFirst, winCount := c.slotCount })) ∧
      (c.slaved = true → Goes (.tick id.lh) s (fun t => t.core? id = some { c with
        run := .waiting (.realign d (some (wd (s.timeNs / (s.recOf id.lh).tick)))) }))) ∧
    (c.run = .resetting →
      (c.nextIssue ≤ s.now → Goes (.regionReentry id) s (fun t => t.core? id = some { c with
        pc := c.regpc, run := backIn c, nextIssue := s.now })) ∧
      (s.now < c.nextIssue → Goes (.regionReentry id) s (fun t => t.core? id = some c))) ∧
    (∀ u : ErrUnit, (c.run = .ready ∨ ∃ w, c.run = .waiting w) → c.inh = false → c.slaved = false → c.traceBase = 0 → c.regcnt < c.reglim →
      Goes (.detectedError id u) s (fun t =>
        let e := t.core
        e.id = id ∧ e.run = .resetting ∧ e.arch = c.ckpt ∧ e.mem = c.mem ∧ e.flights = [] ∧ e.sbuf = [] ∧ e.pc = c.regpc ∧
        e.regcnt = c.regcnt + 1 ∧ e.cause = 17 ∧ e.epc = c.pc ∧
        e.tval = (match u with | .regFile => 1 | .pipeline => 2 | .lane => 3 | .netIf => 4) ∧
        ∃ at_, s.now < at_ ∧ at_ ≤ s.now + 64 ∧ ⟨at_, false, .regionReentry id, []⟩ ∈ t.agenda)) ∧
    (∀ g : Nat, (s.launch? id.lh).isSome → (s.gbar id.lh g).firing.isSome → s.packets = [] → s.tlines = [] →
      (∀ e ∈ s.cores, e.drainq = [] ∧ e.mirror = []) →
      (merges s id.lh (s.groupOf id.lh g) →
        Goes (.groupBarrierFire id.lh g) s (fun t => (t.gbar id.lh g).gen = ((s.gbar id.lh g).gen + 1) % 2 ^ 16 ∧
          (t.gbar id.lh g).arrived = (s.gbar id.lh g).next ∧ ((s.gbar id.lh g).next = [] → (t.gbar id.lh g).firing = none))) ∧
      (¬ merges s id.lh (s.groupOf id.lh g) → Goes (.groupBarrierFire id.lh g) s (fun t => t.gbar id.lh g = s.gbar id.lh g ∧
        ⟨s.now + 4, true, .groupBarrierFire id.lh g, []⟩ ∈ t.agenda))) ∧
    (∀ (l : Launch) (d : XReg), s.launch? id.lh = some l → l.snapFiring = true → s.packets = [] → s.tlines = [] →
      c.run = .waiting (.snap d) → c.snapD = some d → merges s id.lh (List.range l.lrec.grid) →
      Goes (.snapFire id.lh) s (fun t => (∃ m, t.launch? id.lh = some m ∧ m.epoch = l.epoch + 1 ∧ m.snapFiring = false) ∧
        ∃ e, t.core? id = some e ∧ e.run = .ready ∧ e.regpc = e.pc ∧ (d ≠ 0 → e.arch.x[d] = wd (l.epoch + 1)) ∧
          (l.lrec.umbra = true → e.image.isSome = true ∧ e.undo = [] ∧ e.staged = [])))

/-- R15, R44, R148, R172, R186, R193, R194, R197, R198, R217, R348: what drains and what lands. In a launch that is neither mirrored nor
an Umbra launch: the oldest committed line writes its bytes; a message, a log append and a BOSET at the head leave the core; a write due
lands; a delivery lands one line in a free cycle of its bank; a message that reaches a core writes its bytes, or is dropped and counted
when a ring holds one of them; a log entry joins the log, or is dropped and counted at 2,048 entries; a timed line lands whole. -/
def Obligations.DrainsAndArrivals : Prop :=
  ∀ (s : State) (id : CoreId) (c : Core), s.core? id = some c → id.twin = false → c.run = .ready → plain s id.lh →
    (∀ (d : Drain) (rest : List Drain), c.drainq = d :: rest →
      let c1 := { c with drainq := rest, nextDrain := s.now + 1 }
      (∀ ln bs, d.item = .line ln bs → Goes (.storeLineDrain id) s (fun t => Became s t id { c1 with
        mem := c.mem.setCells (bs.filter (fun p => p.1 / 64 == ln)) })) ∧
      (∀ dst a m, d.item = .msg dst a m → Goes (.storeLineDrain id) s (fun t => Became s t id c1 ∧
        ∃ p : Packet, t.packets = s.packets ++ [p] ∧ p.src = id.lc ∧ p.lh = id.lh ∧ p.dst = dst ∧ p.addr = a ∧ p.body = .inl m ∧
          s.now < p.due ∧ ∃ g, ⟨p.due, true, .messageArrival p.id, g⟩ ∈ t.agenda)) ∧
      (∀ dst e, d.item = .log dst e → Goes (.storeLineDrain id) s (fun t => Became s t id c1 ∧
        ∃ p : Packet, t.packets = s.packets ++ [p] ∧ p.src = id.lc ∧ p.lh = id.lh ∧ p.dst = dst ∧ p.body = .inr e ∧
          ∃ g, ⟨p.due, true, .logEntryArrival p.id, g⟩ ∈ t.agenda)) ∧
      (∀ n r a (e : BitVec 32), d.item = .cmd n r (.boset a (some e)) → Goes (.commandDrain id) s (fun t =>
        ∃ e1, t.core? id = some e1 ∧ e1.drainq = rest ∧ e1.mem = c.mem.setCells (cellsAt a (leBytes 4 e.toNat ++ leBytes 4 0 ++
          leBytes 2 ((c.mem.num (a + 8) 2 + 1) % 2 ^ 16) ++ leBytes 2 0))))) ∧
    (∀ (f : Flight) (r : XReg) (w : Word), c.flights = [f] → f.due ≤ s.now → f.dst = .x r w → f.flags = 0 → c.landX[r] ≤ f.seq →
      Goes (.registerWriteLanding id) s (fun t => ∃ e, Became s t id e ∧ e.flights = [] ∧ e.arch.x[r] = w ∧
        e.arch.livex.getLsbD r = true)) ∧
    (∀ (d : Delivery) (l l2 : List Byte) (rest : List (List Byte)), s.delivs.find? (fun e => e.id == d.id) = some d → d.core = id →
      d.begun = true → d.ring = none → d.lines = l :: l2 :: rest →
      let a := d.addr + 64 * (d.total - d.lines.length)
      (bankIdle s id a → Goes (.dynamicLineLanding d.id) s (fun t =>
        (∃ e, t.core? id = some e ∧ e.mem = c.mem.setCells (cellsAt a (padTo 64 l))) ∧
        t.delivs.find? (fun e => e.id == d.id) = some { d with lines := l2 :: rest } ∧
        ⟨s.now + 1, true, .dynamicLineLanding d.id, []⟩ ∈ t.agenda)) ∧
      (¬ bankIdle s id a → Goes (.dynamicLineLanding d.id) s (fun t => t.core? id = some c ∧ t.delivs = s.delivs ∧
        ⟨s.now + 1, true, .dynamicLineLanding d.id, []⟩ ∈ t.agenda))) ∧
    (∀ p : Packet, s.packets = [p] → p.lh = id.lh → p.dst = id.lc →
      (∀ b : List Byte, p.body = .inl (.bytes b) → b ≠ [] → p.addr + b.length ≤ 0x100000 → bankIdle s id p.addr →
        Goes (.messageArrival p.id) s (fun t => t.packets = [] ∧ ∃ e, t.core? id = some e ∧
          (unheld c p.addr b.length → e.mem = c.mem.setCells (cellsAt p.addr b) ∧ e.msgDrop = c.msgDrop) ∧
          (¬ unheld c p.addr b.length → e.mem = c.mem ∧ e.msgDrop = min (2 ^ 32 - 1) (c.msgDrop + 1)))) ∧
      (∀ e : LogEntry, p.body = .inr e → Goes (.logEntryArrival p.id) s (fun t => t.packets = [] ∧ ∃ e1, t.core? id = some e1 ∧
        (c.log.length < 2048 → e1.log = c.log ++ [e] ∧ e1.logDrop = c.logDrop) ∧
        (2048 ≤ c.log.length → e1.log = c.log ∧ e1.logDrop = min 0xFFFF (c.logDrop + 1))))) ∧
    (∀ x : TLine, s.tlines = [x] → x.core = id → c.bankUse = [] →
      Goes (.tsendLanding x.id) s (fun t => t.tlines = [] ∧ ∃ e, t.core? id = some e ∧
        (unheld c x.addr 64 → e.mem = c.mem.setCells (cellsAt x.addr x.bytes)) ∧
        (¬ unheld c x.addr 64 → e.mem = c.mem ∧ e.msgDrop = min (2 ^ 32 - 1) (c.msgDrop + 1))))

/-- R14, R15, R138, R140, R143, R144, R206, R207, R214, R216, R255, R290, R303, in every launch, mirrored or not: the engines. A gang starts a matrix command
once every member has issued it and its lines are committed; its adders write a group of elements in a cycle in which their banks are free;
when that is done, and every command before it, the claims are popped and ESEQ[1] advances in every member. A copy that has nothing left to do
writes its record line by line, each line in a free cycle of its bank; then it performs its writes, ESEQ[2] advances, its flag follows, and the
next one starts; a multicast's receiver counts its bytes in the barrier object; the sheaf engine's and the scan engine's commands that are done
advance ESEQ[3] and ESEQ[4], and a carry reaches a member at its generation, or shows a CARRYMISMATCH (R290), or is held for it. What R358 has
copied first waits for it. That the adders write the accumulator's groups of 16 elements in row-major order is the model's choice (log entry
94). -/
def Obligations.EngineEvents : Prop :=
  ∀ s : State,
    (∀ (lh g n : Nat) (tw : Bool), canStart s lh g n tw → Goes (.mmaGangStart lh g n) s (fun t => ∃ due, s.now < due ∧
      ⟨due, false, .mmaCompletion lh g n, []⟩ ∈ t.agenda ∧ ∀ p ∈ s.gangCmds lh g n tw, ∃ e y, t.core? p.1.id = some e ∧ e.mem = p.1.mem ∧
        e.mmaOf n = some y ∧ y = { p.2 with started := some due, next := y.next })) ∧
    (∀ (id : CoreId) (c : Core) (x : MmaCmd) (gang : Nat) (rest : List (Core × MmaCmd)), s.core? id = some c → c.mma.head? = some x →
      s.gangCmds id.lh (id.lc / gang) x.n id.twin = (c, x) :: rest → x.started.isSome = true → x.next ≤ s.now →
      x.part < partsOf ((c, x) :: rest) → s.umbra id.lh = false →
      let w := gangPart c x ((c, x) :: rest) x.part
      (∀ p ∈ w.1, s.bankBusy c p.1 = false) → ∃ e y, (s.addPart id gang).core? id = some e ∧ e.mem = c.mem.setCells w.1 ∧
        e.mmaOf x.n = some y ∧ y.part = x.part + 1 ∧ y.flags = x.flags ||| w.2) ∧
    (∀ (lh g n due : Nat) (tw : Bool) (p : Core × MmaCmd) (rest : List (Core × MmaCmd)), s.gangCmds lh g n tw = p :: rest →
      p.2.started = some due → due ≤ s.now → partsOf (p :: rest) ≤ p.2.part → (∀ q ∈ p :: rest, q.1.mma.head?.map (·.n) = some n) →
      Goes (.mmaCompletion lh g n) s (fun t => ∀ q ∈ p :: rest, ∃ e, t.core? q.1.id = some e ∧ e.mem = q.1.mem ∧
        e.mma = q.1.mma.filter (fun z => z.n != n) ∧ e.eseq = q.1.eseq.set 0 n ∧
        e.mmaErr = (q.1.mmaErr || !agree ((p :: rest).map (fun r => r.2))) ∧
        e.erings = ((q.1.engRing (opRingA q.2.opw) (fun r => r.popClaim q.2.linesA)).engRing (opRingB q.2.opw)
          (fun r => r.popClaim q.2.linesB)).erings)) ∧
    (∀ (id : CoreId) (n : Nat) (x : Inflight), s.cmdOf id .copy n = some x →
      let cells := recordCells x ++ factorCells x
      (unrecorded s id x cells → Goes (.copyCompletion id n) s (fun t => Recording s t id .copy x cells)) ∧
      (¬ unrecorded s id x cells → ∃ u, exec (.copyCompletion id n) s = .next (u.nextCopy id) ∧ Completed s u id .copy x ∧
        (s.umbra id.lh = false → (∀ c, s.core? (primOf id) = some c → c.traceBase = 0) → (∀ pa, x.flag ≠ .device pa) →
          u.hbm = x.out.foldl (fun (m : Mem) w => if w.peer.isNone then m.setN w.pa w.bytes else m) s.hbm))) ∧
    (∀ x : Access, s.delivs.find? (fun d => d.id == x.id) = none → s.accs.find? (fun y => y.id == x.id) = some x → accessed s x) ∧
    (∀ (n : Nat) (d : Delivery) (sender : CoreId) (ticket bit : Nat) (o : Option Nat), s.delivs.find? (fun e => e.id == n) = some d →
      d.act = .mcast sender ticket bit o →
      ((∃ a ∈ o, ¬ bankIdle s d.core a) → Goes (.mcastDelivery n) s (fun t => t.cores = s.cores ∧ t.delivs = s.delivs ∧
        ⟨s.now + 1, true, .mcastDelivery n, []⟩ ∈ t.agenda)) ∧
      ((∀ a ∈ o, bankIdle s d.core a) → logged s d.core o.toList → Goes (.mcastDelivery n) s (fun t => t.delivs = s.delivs.filter (fun e => e.id != n) ∧
        Each s t d.core (fun c e => e.mem = match o with
          | none => c.mem
          | some a =>
            let v := (c.mem.num (a + 4) 4 + 64 * d.total) % 2 ^ 32
            if d.failed then c.mem.setCells (cellsAt (a + 10) (leBytes 2 (c.mem.num (a + 10) 2 ||| 3)))
            else c.mem.setCells (cellsAt (a + 4) (leBytes 4 v) ++ cellsAt (a + 10) (leBytes 2
              (if c.mem.num a 4 < v then c.mem.num (a + 10) 2 ||| 4 else c.mem.num (a + 10) 2)))) ∧
        ∀ x, s.cmdOf sender .copy ticket = some x → t.cmdOf sender .copy ticket = some { x with
          left := x.left - 1, due := max x.due s.now, status := if d.failed then 1 else x.status
          mask := if d.failed then x.mask ||| 2 ^ bit else x.mask })) ∧
      ((∀ a ∈ o, bankIdle s d.core a) → ¬ logged s d.core o.toList → Goes (.mcastDelivery n) s (fun t => t.delivs = s.delivs ∧
        ⟨s.now + 4, true, .mcastDelivery n, []⟩ ∈ t.agenda))) ∧
    (∀ (id : CoreId) (c : Core) (n : Nat) (x : Inflight), s.core? (primOf id) = some c → s.cmdOf id .sheaf n = some x →
      n = c.eseq[2] + 1 → s.ended x = true → (x.flag = .none ∨ logged s id (flagAddr x)) →
      Goes (.sheafCommandCompletion id n) s (fun t => Completed s t id .sheaf x)) ∧
    (∀ (id : CoreId) (c : Core) (x : ScanCmd) (rest : List ScanCmd) (due : Nat), s.core? id = some c → c.scan.queue = x :: rest →
      c.scan.running = some due → due ≤ s.now → (c.scan.res.getD (c.scanResult x)).lines = [] →
      (∀ b, aggregate c x = some b → agreeing s id x b) →
      Goes (.scanCommandCompletion id) s (fun t => (∃ e, t.core? id = some e ∧ e.eseq = c.eseq.set 3 x.ticket ∧ e.scan.queue = rest ∧
        e.scan.free = s.now ∧ e.mem = c.mem) ∧
        ∀ b l, aggregate c x = some b → s.launch? id.lh = some l → ∃ m, t.launch? id.lh = some m ∧ ∃ a ∈ m.aggs, a.group = x.cfg.group ∧
          a.epoch = x.epoch ∧ a.gen = x.gen ∧ a.member = x.k ∧ a.cfg = x.cfg ∧ a.bytes = b)) ∧
    (∀ (id : CoreId) (c : Core) (l : Launch) (m : CarryMsg) (a : Aggregate) (as : List Aggregate), s.core? id = some c → s.launch? id.lh = some l →
      l.carries.filter (fun y => y.core == id && decide (y.due ≤ s.now)) = [m] → needed (l.folded m.group m.epoch m.gen) m.k = some (a :: as) →
      (∀ g : ScanCfg, c.scan.cfg = some g → g.group = m.group → c.scan.epoch = m.epoch → c.scan.gen = m.gen →
        ((g.op, g.type, g.steps, g.chans) = (a.cfg.op, a.cfg.type, a.cfg.steps, a.cfg.chans) → c.scan.carry? = none →
          Goes (.carryDelivery id) s (fun t => ∃ e k, t.core? id = some e ∧ e.mem = c.mem ∧ t.launch? id.lh = some k ∧ m ∉ k.carries ∧
            let f := foldAggs a.cfg ((a :: as).map (fun a => a.bytes))
            e.scan.carry? = some ⟨c.scan.serial, rowBytesOf a.cfg f.1, f.2, m.due⟩)) ∧
        ((g.op, g.type, g.steps, g.chans) ≠ (a.cfg.op, a.cfg.type, a.cfg.steps, a.cfg.chans) →
          Goes (.carryDelivery id) s (fun t => ∃ k, t.launch? id.lh = some k ∧ (some id.lc, .detected, 5) ∈ k.recorded))) ∧
      (c.scan.cfg = none → Goes (.carryDelivery id) s (fun t => t.core? id = some c ∧ t.launch? id.lh = some l ∧
        ∃ d ∈ t.agenda, d.ev = .carryDelivery id)))

/-- R252, R254, R283, R286, R295, in every launch: a tour. A tour that obtains a parking slot reads its tile, which goes to its first stop, or
stalls where a page is not mapped, or is refused; a read behind others of its core, and one of a mirror pair whose factor bytes differ, may wait
(R162, R362); a tile that has arrived makes its stop READY and counts its hold, or begins gleaning at the
last stop; at the hold limit it goes to the next stop, unless it has gone; a tile that has come back by gleaning makes its stop READY with that
outcome; at the bound, with a stop DEFERRED, the tile is written to the parking area, which waits where its page is not mapped; the end of the
tour ends the read. -/
def Obligations.TourEvents : Prop :=
  ∀ (s : State) (u : Tour), s.tour? u.id = some u →
    (∀ (c : Core) (x : Inflight) (o : Nat), s.core? u.core = some c → u.core.twin = false → s.cmdOf u.core .sheaf u.ticket = some x →
      u.slot = none → s.parkSlot u.core.lh (64 * u.lines) = some o →
      Goes (.tourReadStart u.id) s (fun t => ∃ v y, t.tour? u.id = some v ∧ t.cmdOf u.core .sheaf u.ticket = some y ∧
        ((v = { u with slot := some o } ∧ (y.stalled.isSome = true ∨ y.started = false)) ∨
         (v = { u with slot := some o, tile := v.tile, read := true } ∧ ∃ d ∈ t.delivs, d.core = u.coreAt 0 ∧ d.ring = some (u.ringOf 0) ∧
            d.lines = v.tile ∧ d.act = .tour u.id 0 0 ∧ s.now < d.ready) ∨
         (y.status = 3 ∧ v.status = 3 ∧ ∀ z ∈ v.stops, z = .served ∨ z = .missed)) ∧
        ((s.recOf u.core.lh).mirror = false → (∀ z ∈ c.shfs, u.ticket ≤ z.ticket) →
          (y.started = false → y.stalled.isSome = true) ∧
          (x.page = 0 → tilePlan u.desc (twCblk u.tw) (twList u.tw) ≠ [] → unmapped s c.ctx → y.stalled.isSome = true)))) ∧
    (∀ i : Nat, (∀ c, s.core? (u.coreAt i) = some c → c.gone = false) →
      (i < u.last → Goes (.tileArrival u.id i) s (fun t => t.tour? u.id = some { u with arrived := u.arrived.set i (some s.now) } ∧
        Each s t (u.coreAt i) (fun c e => e = c.updStop u.id i (fun r => { r with st := .ready 0 })) ∧
        ⟨s.now + u.itin.hold, true, .holdLimitExpiry u.id i, []⟩ ∈ t.agenda)) ∧
      (i = u.last → i < u.arrived.length → u.sentOn i = false → Goes (.tileArrival u.id i) s (fun t => ∃ v, t.tour? u.id = some v ∧
        v.arrived = u.arrived.set i (some s.now) ∧ v.gleaning = true ∧ ∃ T, s.timeFine < T ∧ (T, .gleaningBoundExpiry u.id) ∈ t.timers)) ∧
      Goes (.gleaningDelivery u.id i) s (fun t => t.tours = s.tours ∧ Each s t (u.coreAt i) (fun c e =>
        e = c.updStop u.id i (fun r => { r with st := .ready (nth u.glean i 1) })))) ∧
    (∀ i : Nat, (u.sentOn i = true → exec (.holdLimitExpiry u.id i) s = .next s) ∧
      (∀ c, s.core? (u.coreAt i) = some c → c.run = .stopping → exec (.holdLimitExpiry u.id i) s = .next s) ∧
      ((∀ c, s.core? (u.coreAt i) = some c → c.run ≠ .stopping) → i < u.last → u.sentOn i = false →
        (u.arrivedAt i = none ∨ s.stopAgrees u i = true → Goes (.holdLimitExpiry u.id i) s (fun t =>
          t.tour? u.id = some { u with forwarded := u.forwarded.set i true } ∧ ∃ d : Delivery, t.delivs = s.delivs ++ [d] ∧
            d.core = u.coreAt (i + 1) ∧ d.ring = some (u.ringOf (i + 1)) ∧ d.lines = u.tile ∧ d.act = .tour u.id (i + 1) 0 ∧ s.now < d.ready)) ∧
        (u.arrivedAt i ≠ none → s.stopAgrees u i = false → Goes (.holdLimitExpiry u.id i) s (fun t => t.tours = s.tours ∧
          ⟨s.now, true, .mirrorHashMismatch u.core.lh (u.coreAt i).lc, []⟩ ∈ t.agenda ∧
          ⟨s.now + 1, true, .holdLimitExpiry u.id i, []⟩ ∈ t.agenda)))) ∧
    (u.ended = true ∨ u.parking = true ∨ u.parked = true ∨ TourStop.deferred ∉ u.stops → exec (.gleaningBoundExpiry u.id) s = .next s) ∧
    (∀ c : Core, s.core? u.core = some c → u.ended = false → u.parking = false → u.parked = false → TourStop.deferred ∈ u.stops →
      s.stopAgrees u u.last = true →
      Goes (.gleaningBoundExpiry u.id) s (fun t => ∃ v, t.tour? u.id = some v ∧
        ((v.parking = true ∧ v.parkFault.isSome = true) ∨ v.parked = true ∨ (v.status = 3 ∧ TourStop.deferred ∉ v.stops)) ∧
        (u.parkPage = 0 → 0 < u.lines → unmapped s c.ctx → v.parking = true ∧ v.parkFault.isSome = true))) ∧
    (∀ x : Inflight, s.cmdOf u.core .sheaf u.ticket = some x → Goes (.tourEnd u.id) s (fun t =>
      t.cmdOf u.core .sheaf u.ticket = some { x with left := 0, due := s.now, status := u.status }))

/-- R14, R15, R220 to R226, R231, R232, in every launch: the collectives. A reduction whose members have all issued commands that agree reads its source
and begins, its time counted from the last commit; one that differs completes with ACCV, and one that misses a member waits; one of a mirror
pair is 12 cycles later (R362). A chunk is written at its place, with its mark, line by line in free cycles of their banks, and the next
follows; one that members are absent from ends with status 4 and their mask; a packet of an older generation is dropped and counted; a CAGRP
raises the generation at its completion; its bound ends its wait; every command that is done writes its record, advances ESEQ[5], and its flag
follows, and a node of a graph counts for its CRUN. Which member of a group that does not agree is wrong, that one which agrees with some
waits, and that ACCV comes at once, are the model's choice (log entry 81), and that HELD is found at the start (log entry 85). -/
def Obligations.CollectiveEvents : Prop :=
  ∀ s : State, (∀ (id : CoreId) (n : Nat) (x : Inflight) (d : Core), s.cmdOf id .coll n = some x → s.core? (primOf id) = some d →
    (∀ b : RedBlk, x.cmd = .reduce b →
      (∀ peers : List RedPeer, x.started = false → x.left ≠ 0 → x.stalled = none → s.mayReduce d x b = true →
        (b.meet x.members.length x.me peers = .missing ∨ b.meet x.members.length x.me peers = .waits →
          exec (.reductionStart id n peers) s = .next s) ∧
        (b.meet x.members.length x.me peers = .differs → Goes (.reductionStart id n peers) s (fun t => Over s t id n 3 0)) ∧
        (b.meet x.members.length x.me peers = .agree → b.srcLocal = true → s.readsAgree id b.src b.srcBytes = true → x.since = 0 →
          (s.recOf id.lh).mirror = true → Goes (.reductionStart id n peers) s (fun t => t.cmdOf id .coll n = some { x with since := s.timeFine + 1 } ∧
            ⟨s.now + 12, true, .reductionStart id n peers, []⟩ ∈ t.agenda)) ∧
        (b.meet x.members.length x.me peers = .agree → (b.srcLocal = false ∨ (s.readsAgree id b.src b.srcBytes = true ∧
          ((s.recOf id.lh).mirror = false ∨ x.since ≠ 0))) →
          Goes (.reductionStart id n peers) s (fun t => ∃ y, t.cmdOf id .coll n = some y ∧
            let held := b.dstLocal && d.touchesHeld (b.dst / 64 * 64) ((b.dst % 64 + b.dstBytes + 63) / 64)
            let begun := y.started = true ∧ ((held = true ∧ y.left = 0 ∧ y.status = 2) ∨ (held = false ∧ y.left = x.left ∧
              lastCommit x peers + arTime 0 b.srcBytes x.members.length ≤ y.till ∧ ∃ T, (T, .chunkWrite (primOf id) n 0) ∈ t.timers))
            (b.srcLocal = true → begun ∧ y.data = inOrder x.members.length x.me (d.mem.getN b.src b.srcBytes) peers) ∧
            (b.srcLocal = false → begun ∨ (y.stalled.isSome = true ∧ y.started = false) ∨ (y.left = 0 ∧ y.status = 3))))) ∧
      (∀ k : Nat, x.started = true → x.left ≠ 0 → x.page = k → x.stalled = none → x.busy = false →
        let r := (b.chunk (pieces b.srcBytes (x.data.length / max 1 b.srcBytes) x.data) k).1
        let lines := byLine (if b.dstLocal then cellsAt (b.dst + 256 * k) r else []) ++ byLine (markCells x k)
        (¬ logged s id (b.chunkLines k) → Goes (.chunkWrite id n k) s (fun t => t.cmdOf id .coll n = some x ∧
          ⟨s.now + 4, false, .chunkWrite id n k, []⟩ ∈ t.agenda)) ∧
        (logged s id (b.chunkLines k ++ lines.flatMap (fun l => l.2.map (fun z => z.1))) → Goes (.chunkWrite id n k) s (fun t => ∃ y,
          t.cmdOf id .coll n = some y ∧
          let fin := y.page = k + 1 ∧
            (lines ≠ [] → y.left = x.left ∧ y.busy = true ∧ ∃ j, Access.mk j (primOf id) lines (.chunk n k) ∈ t.accs ∧
              ⟨s.now, true, .dynamicLineLanding j, []⟩ ∈ t.agenda) ∧
            (lines = [] → written s t id n k b y)
          (b.dstLocal = true → fin) ∧ (b.dstLocal = false → fin ∨ y.stalled.isSome = true ∨ (y.left = 0 ∧ y.status = 3)) ∧
          Each s t id (fun c e => e.mem = c.mem)))) ∧
      (∀ (j : Access) (k a : Nat) (z : List Host.Cell), s.delivs.find? (fun y => y.id == j.id) = none →
        s.accs.find? (fun y => y.id == j.id) = some j → j.core = primOf id → j.act = .chunk n k → j.lines = [(a, z)] → bankIdle s id a →
        x.left ≠ 0 → x.stalled = none → Goes (.dynamicLineLanding j.id) s (fun t => ∃ y, t.cmdOf id .coll n = some y ∧ y.busy = false ∧
          written s t (primOf id) n k b y)) ∧
      (∀ mask : BitVec 512, x.left ≠ 0 → Goes (.memberAbsent id n mask) s (fun t => Over s t id n 4 mask.toNat)) ∧
      (x.left ≠ 0 → Goes (.collCompletion id n) s (fun t => Over s t id n 5 0)) ∧
      (let cells := match x.staddr with
        | some a => cellsAt a (redArea x b (((s.agBind d.ctx b.agid).map (fun g => g.staledrop)).getD 0) (n % 2 ^ 32))
        | none => []
       x.left = 0 →
        (unrecorded s id x cells → Goes (.collCompletion id n) s (fun t => Recording s t id .coll x cells)) ∧
        (¬ unrecorded s id x cells → n < 2 ^ 32 → Goes (.collCompletion id n) s (fun t => Completed s t id .coll x)) ∧
        (¬ unrecorded s id x cells → 2 ^ 32 ≤ n → Goes (.collCompletion id n) s (fun t =>
          Each s t id (fun c e => e.mem = c.mem) ∧ Flagged s t id x (n % 2 ^ 32) ∧
          ∀ z nodes a, s.cmdOf id .coll (n % 2 ^ 32) = some z → z.cmd = .crun nodes a → ∃ y, t.cmdOf id .coll (n % 2 ^ 32) = some y ∧ y.left = z.left - 1 ∧
            y.due = max z.due s.now ∧ (x.status = 0 → y.status = z.status ∧ y.page = z.page))))) ∧
    (∀ b : CagrpBlk, x.cmd = .cagrp b →
      Goes (.cagrpDrainExpiry id n) s (fun t => t.cmdOf id .coll n = some { x with left := 0, due := max (x.base + 64) s.now }) ∧
      (let gen := (((s.agBind d.ctx b.agid).map (fun g => g.gen)).getD 0 + 1) % 2 ^ 16
       let cells := match b.staddr with | some a => cellsAt a (leBytes 8 (n % 2 ^ 56) ++ leBytes 2 gen ++ leBytes 6 0) | none => []
       (unrecorded s id x cells → Goes (.cagrpCompletion id n) s (fun t => Recording s t id .coll x cells ∧ t.ctxs = s.ctxs)) ∧
       (¬ unrecorded s id x cells → Goes (.cagrpCompletion id n) s (fun t => Completed s t id .coll x ∧
        (t.ctx d.ctx).agids = (s.ctx d.ctx).agids.map (fun g => if g.agid = b.agid then { g with gen := gen } else g))))) ∧
    (∀ nodes a, x.cmd = .crun nodes a →
      let cells := cellsAt a (leBytes 8 (n % 2 ^ 56 + x.status * 2 ^ 56))
      (unrecorded s id x cells → Goes (.collCompletion id n) s (fun t => Recording s t id .coll x cells)) ∧
      (¬ unrecorded s id x cells → Goes (.collCompletion id n) s (fun t => Completed s t id .coll x))) ∧
    ((∃ a, x.cmd = .cabort a) ∨ (∃ k ns, x.cmd = .cgraph k ns) → logged s id (flagAddr x) →
      Goes (.collCompletion id n) s (fun t => Completed s t id .coll x))) ∧
    (∀ (ctx agid gen : Nat), Goes (.stalePacketArrival ctx agid gen) s (fun t => (t.ctx ctx).agids = (s.ctx ctx).agids.map (fun g =>
      let older := 0 < (g.gen + 2 ^ 16 - gen % 2 ^ 16) % 2 ^ 16 ∧ (g.gen + 2 ^ 16 - gen % 2 ^ 16) % 2 ^ 16 < 2 ^ 15
      if g.agid = agid ∧ older then { g with staledrop := (g.staledrop + 1) % 2 ^ 32 } else g)))

/-- R311, R316 to R320: contexts and translation. A peer package reaches exactly what is exported to it; enabling a context sets its
partition and starts its counts again, and disabling it drops its tables and its cached entries; a fault that waited for space is
written to the queue and raises the interrupt; RETRY starts a sleeping core's region again, DENY makes it trap PAGEFAULT with its page
and the kind of the fault, EPC = REGPC being the model's choice (log entry 69); a reduction that waited goes on, from the page that it had
reached (R319); an invalidation leaves no entry of the page, or of the context, and is
counted in TLBINVST once nothing that was translated is outstanding. -/
def Obligations.TranslationEvents : Prop :=
  ∀ (s : State) (ctx : Nat),
    (∀ pkg pa : Nat, ∀ b : List Byte, ∀ n : Nat,
      let may (len : Nat) : Prop := ∃ e ∈ s.mgmt.config.exports, e.1 = pkg ∧ e.2.1 ≤ pa ∧ pa + len ≤ e.2.2
      (may b.length → Goes (.apertureAccess pkg pa n (some b)) s (fun t =>
        t.hbm = s.hbm.setN pa b ∧ t.peerReplies = s.peerReplies ++ [(pkg, some [])])) ∧
      (may n → Goes (.apertureAccess pkg pa n none) s (fun t =>
        t.hbm = s.hbm ∧ t.peerReplies = s.peerReplies ++ [(pkg, some (s.hbm.getN pa n))])) ∧
      (¬ may b.length → Goes (.apertureAccess pkg pa n (some b)) s (fun t =>
        t.hbm = s.hbm ∧ t.peerReplies = s.peerReplies ++ [(pkg, none)]))) ∧
    (∀ part, (s.ctx ctx).enable = false → part < s.mgmt.config.parts.length →
      Goes (.contextEnable ctx part) s (fun t => (t.ctx ctx).enable = true ∧ (t.ctx ctx).part = part ∧ (t.ctx ctx).fqtail = 0 ∧
        (t.ctx ctx).tlbinvst = 0 ∧ (t.ctx ctx).faults = [])) ∧
    ((s.ctx ctx).enable = true → (∀ l ∈ s.launches, l.ctx = ctx → ∃ n, l.status = .complete n) →
      Goes (.contextDisable ctx) s (fun t => (t.ctx ctx).enable = false ∧ (t.ctx ctx).tids = [] ∧ (t.ctx ctx).agids = [] ∧
        (∀ e ∈ t.tlb, e.ctx ≠ ctx) ∧ (∀ e ∈ t.evsets, e.ctx ≠ ctx))) ∧
    (∀ f : FaultEnt, (s.ctx ctx).faults = [f] →
      (f.queued = false → (s.ctx ctx).fqtail.toNat - (s.ctx ctx).fqhead.toNat < (s.ctx ctx).fqsize.toNat →
        Goes (.faultQueueSpace ctx) s (fun t => (t.ctx ctx).fqtail = (s.ctx ctx).fqtail + 1 ∧ t.interrupts = s.interrupts ++ [ctx] ∧
          ∃ g, (t.ctx ctx).faults = [g] ∧ g.queued = true ∧ g.fseq = f.fseq)) ∧
      (∀ (id : CoreId) (c : Core), s.core? id = some c → c.ctx = ctx → c.run = .onFault f.fseq → f.waits = [⟨id, none⟩] →
        (∀ w ∈ s.ctxWrites, w.ctx = ctx → w.fseq ≠ f.fseq) → Goes (.fqresumeRetry ctx f.fseq) s (fun t => (t.ctx ctx).faults = [] ∧ ∃ e, t.core? id = some e ∧ e.pc = c.regpc ∧ e.run = backIn c ∧
          e.nextIssue = s.now + 1 ∧ e.arch = c.arch ∧ e.regcnt = c.regcnt) ∧
        (f.kind < 5 → f.va + f.kind < 2 ^ 64 → c.inh = false → c.slaved = false → c.traceBase = 0 →
          Goes (.fqresumeDeny ctx f.fseq) s (fun t => (t.ctx ctx).faults = [] ∧ ∃ e, t.core? id = some e ∧ e.run = .trapped ∧
            e.cause = 8 ∧ e.tval.toNat = f.va + f.kind ∧ e.epc = c.regpc ∧ e.arch = c.ckpt)))) ∧
    (∀ (id : CoreId) (c : Core) (n q : Nat) (x : Inflight), s.core? id = some c → id.twin = false → c.ctx = ctx →
      (∀ f ∈ (s.ctx ctx).faults, f.fseq ≠ q) → x.stalled = some q → (∀ u ∈ s.tours, u.core = id → u.ticket ≠ n) →
      (∀ b : RedBlk, s.cmdOf id .coll n = some x → s.cmdOf id .copy n = none → s.cmdOf id .sheaf n = none → x.cmd = .reduce b →
        (x.till ≠ 0 → Goes (.rewalk id n) s (fun t => t.cmdOf id .coll n = some { x with stalled := none, started := true } ∧
          ⟨s.now, false, .chunkWrite id n x.page, []⟩ ∈ t.agenda)) ∧
        (x.till = 0 → b.srcLocal = false → Goes (.rewalk id n) s (fun t => ∃ y, t.cmdOf id .coll n = some y ∧
          ((y.stalled.isSome = true ∧ x.page ≤ y.page) ∨ (y.left = 0 ∧ (y.status = 2 ∨ y.status = 3)) ∨
           (y.stalled = none ∧ y.started = true ∧ y.page = 0))))) ∧
      (∀ j : CopyJob, s.cmdOf id .copy n = some x → s.cmdOf id .coll n = none → s.cmdOf id .sheaf n = none → copyJob x.cmd = some j →
        Goes (.rewalk id n) s (fun t => ∃ y, t.cmdOf id .copy n = some y ∧ x.page ≤ y.page ∧
          (y.stalled.isSome = true ∨ (y.stalled = none ∧ y.started = true))))) ∧
    Goes (.tlbinvAll ctx) s (fun t => (∀ e ∈ t.tlb, e.ctx ≠ ctx) ∧ (∀ e ∈ s.tlb, e.ctx ≠ ctx → e ∈ t.tlb) ∧
      (t.ctx ctx).invPending = (s.ctx ctx).invPending ++ [s.now]) ∧
    (∀ va : Word, va.toNat % 4096 = 0 → va.toNat < 2 ^ 52 → Goes (.tlbinvPage ctx va 0) s (fun t =>
      (∀ e ∈ t.tlb, e.ctx = ctx → ¬ (e.va < va.toNat + 4096 ∧ va.toNat < e.va + pageBytes e.size)) ∧
      (∀ e ∈ s.tlb, e.ctx ≠ ctx → e ∈ t.tlb))) ∧
    (∀ n rest, (s.ctx ctx).invPending = n :: rest → (∀ c ∈ s.cores, c.ctx ≠ ctx) →
      Goes (.tlbinvstAdvance ctx) s (fun t => (t.ctx ctx).tlbinvst = ((s.ctx ctx).tlbinvst + 1) &&& 0xFFFFFFFF ∧
        (t.ctx ctx).invPending = rest))

/-- R376 to R379, R381, R384, R385, R387: TIME, power and temperature. The first lock steps TIME to its reference and sets TIMEOK;
once TIMEOK is set TIME is slewed; PTP and PTM are taken as the policy says; TIMECTL's fields, CAP held between 1,000 and 2,800 W, the
averages of PWRSTAT; above CAP cycles are withheld; a die that loses a cycle sets THROT and counts it for WHELD, at most half of a
millisecond's; a hot one loses the first of each period; a die shut down takes its partitions with it. The sign of OFFSET, the step at the first
lock and LOCK within the source's accuracy are the model's choice (log entry 71), as are the cycles that CAP and heat withhold (log entry 72),
the shutdown's PREADY and re-bring-up (log entry 73) and TIME's rate after a lost reference (log entry 102). -/
def Obligations.TimeAndPower : Prop :=
  ∀ s : State,
    (∀ v : Word, Goes (.timectlWrite v) s (fun t => t.mgmt.tdomain = v.extractLsb' 8 8 ∧ t.mgmt.srcsel = v.extractLsb' 0 2 ∧
      t.timeFine = s.timeFine)) ∧
    (∀ v : Word, Goes (.pwrctlWrite v) s (fun t => t.mgmt.cap = min 2800 (max 1000 (v.toNat % 4096)))) ∧
    (∀ (off : Int) (port : Nat), s.mgmt.bootDone = true →
      ((s.mgmt.srcsel = 0 ∨ s.mgmt.srcsel = 1) → s.mgmt.ready.getLsbD 36 = false → Goes (.ptpMessage off port) s (fun t =>
        t.timeFine = ((s.timeFine : Int) - off * 66000).toNat ∧ t.mgmt.tsrc = 1 ∧ t.mgmt.lock = true ∧ t.mgmt.freerun = false ∧
        t.mgmt.slewing = 0 ∧ t.mgmt.ready.getLsbD 36 = true)) ∧
      ((s.mgmt.srcsel = 2 ∨ s.mgmt.srcsel = 3) → exec (.ptpMessage off port) s = .next s) ∧
      (s.mgmt.config.portERoot = true ∨ s.mgmt.srcsel = 1 ∨ s.mgmt.srcsel = 3 → exec (.ptmMessage off) s = .next s) ∧
      (s.mgmt.config.portERoot = false → s.mgmt.srcsel = 2 → s.mgmt.ready.getLsbD 36 = true → Goes (.ptmMessage off) s (fun t =>
        t.timeFine = s.timeFine ∧ t.mgmt.tsrc = 2 ∧ t.mgmt.slewing = -off * 66000 ∧ (t.mgmt.lock = true ↔ off.natAbs ≤ 50)))) ∧
    Goes .timeReferenceLoss s (fun t => t.mgmt.lock = false ∧ t.mgmt.freerun = true ∧ t.mgmt.tsrc = 3 ∧ t.timeFine = s.timeFine) ∧
    (s.mgmt.bootDone = true → Goes .timeokExpiry s (fun t => t.mgmt.ready = s.mgmt.ready ||| 0x1000000000)) ∧
    (∀ (w n : Nat) (d : Fin 4),
      (w ≤ s.mgmt.cap → Goes (.powerControlPeriod w []) s (fun t => t.mgmt.power = w % 2 ^ 16 ∧ t.mgmt.capped = 0 ∧ t.mgmt.withhold[d] = 0 ∧
        t.mgmt.throt = s.mgmt.throt ∧ t.mgmt.whelp = s.mgmt.whelp)) ∧
      (s.mgmt.cap < w → Goes (.powerControlPeriod w []) s (fun t => t.mgmt.power = w % 2 ^ 16 ∧ t.mgmt.capped.getLsbD d = true ∧
        1 ≤ t.mgmt.withhold[d] ∧ t.mgmt.withhold[d] ≤ 1650000)) ∧
      (0 < n → n ≤ 1650000 → Goes (.powerControlPeriod w [(d, n)]) s (fun t => t.mgmt.capped.getLsbD d = true ∧ t.mgmt.withhold[d] = n))) ∧
    (∀ d : Fin 4, let t := s.takeCycle false
      (s.mgmt.heldNow[d] < 1650000 → (0 < s.mgmt.withhold[d] ∨ (s.mgmt.hot.getLsbD d = true ∧ s.now % 3300000 = 1)) →
        t.withheld d = true ∧ t.mgmt.throt = true ∧ t.mgmt.heldNow[d] = s.mgmt.heldNow[d] + 1 ∧ t.mgmt.withhold[d] = s.mgmt.withhold[d] - 1) ∧
      (1650000 ≤ s.mgmt.heldNow[d] → t.withheld d = false ∧ t.mgmt.heldNow[d] = s.mgmt.heldNow[d]) ∧
      (s.mgmt.withhold[d] = 0 → s.mgmt.hot.getLsbD d = false → t.withheld d = false) ∧
      (∀ e : Fin 4, (s.takeCycle true).mgmt.whelp ≥ s.mgmt.heldNow[e] * 100 / 3300000)) ∧
    (∀ d : Fin 4,
      Goes (.thermalThrottle d) s (fun t => t.mgmt = { s.mgmt with hot := t.mgmt.hot } ∧ t.mgmt.hot.getLsbD d = true ∧
        ∀ e : Fin 4, e ≠ d → t.mgmt.hot.getLsbD e = s.mgmt.hot.getLsbD e) ∧
      Goes (.thermalShutdown d) s (fun t => t.mgmt.dieOff.getLsbD d = true) ∧
      (s.slots = [] → Goes (.thermalShutdown d) s (fun t => ∀ i : Fin 4, (∃ p, s.mgmt.config.parts[i.val]? = some p ∧ d.val ∈ p.dies) →
        t.mgmt.pready.getLsbD i = false ∧ t.mgmt.rebring.getLsbD i = true)) ∧
      Goes (.dieCooled d) s (fun t => t.mgmt.hot.getLsbD d = false ∧ t.mgmt.dieOff.getLsbD d = false ∧
        t.mgmt.withhold = s.mgmt.withhold)) ∧
    (∀ vals, Goes (.sensorRefresh vals) s (fun t => t.mgmt.sensors = vals.map (· % 65536)))

/-- R4, R164, R310, R322, R323, R326, R327, R364, R367, R379 to R383, R388: management. Bring-up with a configuration that is rejected
stops with management alone READY, and otherwise goes on; READY bits are set and cleared as units come and go; errors poison lines, stop
partitions and are predicted; updates take effect only when they are signed, at the next reboot; SPDM's answers; the HOST path reads and
writes physical memory; a write to a reserved or read-only register is ignored. The SPDM algorithm bits 0x800 and 0x20 and what a CHALLENGE
signs are the model's (log entry 57), as are configuration updates at the next reboot (log entry 76) and device memory cleared at POWER_ON (log
entry 74). -/
def Obligations.ManagementEvents : Prop :=
  ∀ s : State,
    (s.mgmt.nextConfig = none → s.mgmt.nextKeys = none → s.mgmt.fwPending = false → s.mgmt.fwTries = none →
      (s.configSigned = false ∨ s.mgmt.config.ok = false → Goes .powerOn s (fun t => t.mgmt.ready = 0x800000000 ∧
        t.mgmt.bootDone = false ∧ t.launches = [] ∧ t.hbm = [])) ∧
      (s.configSigned = true → s.mgmt.config.ok = true → s.phys = [] → s.mgmt.cleared = [] →
        Goes .powerOn s (fun t => t.mgmt.ready = 0xC00000000 ∧ t.mgmt.bootDone = true ∧ t.launches = []))) ∧
    (s.mgmt.fwPending = false → s.mgmt.fwTries = some 2 → Goes .powerOn s (fun t => t.mgmt.fwTries = none)) ∧
    (s.mgmt.fwPending = true → Goes .powerOn s (fun t => t.mgmt.fwB = !s.mgmt.fwB ∧ t.mgmt.fwPending = false ∧
      (t.mgmt.fwTries = none ∨ (t.mgmt.fwTries = some 1 ∧ t.mgmt.bootDone = false)))) ∧
    (s.mgmt.bootDone = true →
      (∀ n : Fin 8, Goes (.hbmStackReady n) s (fun t => t.mgmt.ready = s.mgmt.ready ||| BitVec.ofNat 64 (2 ^ (4 + n.val))) ∧
        Goes (.engineReady n) s (fun t => t.mgmt.ready = s.mgmt.ready ||| BitVec.ofNat 64 (2 ^ (25 + n.val))) ∧
        Goes (.scaleoutLinkUp n) s (fun t => t.mgmt.ready = s.mgmt.ready ||| BitVec.ofNat 64 (2 ^ (12 + n.val))) ∧
        Goes (.linkDown true n) s (fun t => t.mgmt.ready = s.mgmt.ready &&& ~~~(BitVec.ofNat 64 (2 ^ (12 + n.val))))) ∧
      (∀ n : Fin 5, Goes (.pcieLinkUp n) s (fun t => t.mgmt.ready = s.mgmt.ready ||| BitVec.ofNat 64 (2 ^ (20 + n.val)))) ∧
      (s.signedBy s.mgmt.appSig.1 0 s.mgmt.appImage s.mgmt.appSig.2 = true → Goes .appdieReady s (fun t =>
        t.mgmt.ready = s.mgmt.ready ||| 0x200000000)) ∧
      (s.signedBy s.mgmt.appSig.1 0 s.mgmt.appImage s.mgmt.appSig.2 = false → exec .appdieReady s = .next s) ∧
      (∀ d : Fin 4, Goes (.dieReady d) s (fun t => t.mgmt.ready = s.mgmt.ready ||| BitVec.ofNat 64 (2 ^ d.val)))) ∧
    Goes .shutdown s (fun t => t.launches = [] ∧ t.mgmt.ready = 0 ∧ t.mgmt.log = s.mgmt.log ∧
      t.mgmt.seals = if s.mgmt.log.length % 64 = 0 then s.mgmt.seals
        else s.mgmt.seals.take (s.mgmt.log.length / 64) ++ [sealLast s.mgmt.log]) ∧
    (s.launches = [] →
      (∀ ctx pa, Goes (.consumedUncorrectableError (.hbm ctx pa)) s (fun t => pa / 64 ∈ t.poison)) ∧
      (∀ p : Fin 4, p.val < s.mgmt.config.parts.length → Goes (.headerUncorrectableError p) s (fun t =>
        t.mgmt.pready.getLsbD p = false ∧ t.mgmt.rebring.getLsbD p = true))) ∧
    (∀ p : Fin 4, s.mgmt.dieOff = 0 → s.mgmt.rebring.getLsbD p = true → Goes (.partitionRebringupComplete p) s (fun t =>
      t.mgmt.rebring.getLsbD p = false)) ∧
    (∀ ch bank row col, s.mgmt.hbmErrs = [] → Goes (.hbmCorrectedError ch bank row col) s (fun t =>
      t.mgmt.hbmErrs = [⟨ch, bank, row, col, s.timeNs⟩] ∧ t.mgmt.repairs = s.mgmt.repairs)) ∧
    (∀ ch bank, s.mgmt.repairs = [.bankCopy ch bank] → Goes (.hbmBankCopyComplete ch bank) s (fun t =>
      t.mgmt.repairs = [.bank ch bank])) ∧
    (∀ ch, Goes (.correctedErrorAging ch) s (fun t => ∀ e ∈ s.mgmt.hbmErrs,
      e ∈ t.mgmt.hbmErrs ↔ (e.ch = ch → s.timeNs ≤ e.time + 3600 * 10 ^ 9))) ∧
    (∀ image sig key, (s.signedBy key.val 0 image sig = false → exec (.firmwareUpdate image sig key) s = .next s) ∧
      (s.signedBy key.val 0 image sig = true → Goes (.firmwareUpdate image sig key) s (fun t => t.mgmt.fwPending = true ∧
        t.mgmt.fwB = s.mgmt.fwB ∧ t.mgmt.fwImages = if s.mgmt.fwB then (image, s.mgmt.fwImages.2) else (s.mgmt.fwImages.1, image)))) ∧
    (∀ n key sig, let u := ConfigUpdate.threshold n key sig
      (s.signedBy key.val 1 (updateBytes u) sig = false → exec (.configurationUpdate u) s = .next s) ∧
      (s.signedBy key.val 1 (updateBytes u) sig = true → n.val ≠ 0 → Goes (.configurationUpdate u) s (fun t =>
        t.mgmt.config = s.mgmt.config ∧ (t.mgmt.nextConfig.map (fun r => r.1.threshold)) = some n.val))) ∧
    (answers s .getVersion .version ∧ answers s .getCapabilities .capabilities ∧
      (∀ a h : BitVec 32, answers s (.negotiateAlgorithms a h) (if a.getLsbD 11 = true ∧ h.getLsbD 5 = true then .algorithms 0x800 0x20
        else .error)) ∧
      answers s .getDigests (.digests [leBytes 64 (Config.sha3 s.mgmt.cert).toNat]) ∧
      (∀ off len, answers s (.getCertificate 0 off len) (.certificate ((s.mgmt.cert.drop off).take len))) ∧
      (∀ slot off len, slot ≠ 0 → answers s (.getCertificate slot off len) .error) ∧
      (∀ nonce, answers s (.challenge 0 nonce) (.challengeAuth (leBytes 114 (Config.ed448Sign (leBytes 64 (Config.sha3 (s.mgmt.spdmA ++
        s.mgmt.spdmB ++ leBytes 1 0x83 ++ leBytes 8 0 ++ nonce ++ leBytes 1 0x03)).toNat)).toNat))) ∧
      (∀ slot nonce, slot ≠ 0 → answers s (.challenge slot nonce) .error) ∧
      (∀ ix, 1 ≤ ix → ix ≤ 6 → answers s (.getMeasurements ix) (.measurements [s.mgmt.measure ix])) ∧
      (∀ ix, ix = 0 ∨ (6 < ix ∧ ix ≠ 255) → answers s (.getMeasurements ix) .error)) ∧
    (∀ h : HostAccess, (∀ b, h.wr = some b → h.pa + b.length ≤ 512 * 10 ^ 9 → Goes (.hostPathAccess h) s (fun t =>
        t.hbm = s.hbm.setN h.pa b)) ∧
      (h.wr = none → h.pa + h.len ≤ 512 * 10 ^ 9 → Goes (.hostPathAccess h) s (fun t => t.hbm = s.hbm ∧
        t.hostReads = s.hostReads ++ [(h.id, s.hbm.getN h.pa h.len)]))) ∧
    (∀ v : Word, exec (.registerWrite .management 0 v) s = .next s ∧
      (∀ q, q < 64 → exec (.registerWrite .launchQueue (64 * q + 0x18) v) s = .next s ∧
        Goes (.registerWrite .launchQueue (64 * q) v) s (fun t => (t.queue q).base = v)) ∧
      (∀ ctx, ctx < 64 → exec (.registerWrite .context (256 * ctx + 0x18) v) s = .next s ∧
        ∀ i : Fin 16, Goes (.registerWrite .context (256 * ctx + 0x40 + 8 * i.val) v) s (fun t => (t.ctx ctx).roots[i] = v)))

/-- R361 to R364: a mirror pair. Items whose hashes agree leave both twins and are performed once; a difference, or an item whose twin
does not come, stops both twins with their regions discarded, where their checkpoints agree but for dead registers (R347); the blamed twin takes the winner's state and both resume at the winner's
REGPC when that is done. -/
def Obligations.MirrorEvents : Prop :=
  ∀ (s : State) (lh lc : Nat) (a b : Core), s.core? ⟨lh, lc, false⟩ = some a → s.core? ⟨lh, lc, true⟩ = some b →
    (∀ x y ta tb dst addr m, a.mirror = x :: ta → b.mirror = y :: tb → x.item.item = .msg dst addr m → a.run = .ready →
      Goes (.mirrorItemCompare lh lc) s (fun t => t.core? ⟨lh, lc, false⟩ = some { a with mirror := ta } ∧
        t.core? ⟨lh, lc, true⟩ = some { b with mirror := tb } ∧
        ∃ p : Packet, t.packets = s.packets ++ [p] ∧ p.dst = dst ∧ p.addr = addr ∧ p.body = .inl m)) ∧
    (a.ckpt.held = b.ckpt.held → a.regpc = b.regpc → a.erings.map Ring.headAddr = b.erings.map Ring.headAddr →
      a.erings.map Ring.tailAddr = b.erings.map Ring.tailAddr → (∀ c ∈ [a, b], c.run = .ready ∨ ∃ w, c.run = .waiting w) →
      (s.spareFor a.slot).isSome = true → ∀ ev ∈ [Instr.mirrorHashMismatch lh lc, .mirrorHashTimeout lh lc],
      Goes ev s (fun t => ∃ a1 b1, t.core? ⟨lh, lc, false⟩ = some a1 ∧ t.core? ⟨lh, lc, true⟩ = some b1 ∧
        a1.run = .trapped ∧ b1.run = .trapped ∧ a1.pc = a.regpc ∧ b1.pc = b.regpc ∧ a1.arch = a.ckpt ∧ b1.arch = b.ckpt ∧
        a1.sbuf = [] ∧ b1.sbuf = [])) ∧
    (∀ l, s.launch? lh = some l → l.doomed = none → a.run = .trapped → b.run = .trapped → a.slot < b.slot →
      (s.physOf b.slot).quarantined = false → (s.physOf b.slot).score + 1 < s.mgmt.config.threshold →
      Goes (.triageDecision lh lc .blameSecondary) s (fun t => (t.physOf b.slot).score = min 15 ((s.physOf b.slot).score + 1) ∧
        t.core? ⟨lh, lc, false⟩ = some a ∧
        t.core? ⟨lh, lc, true⟩ = some { a with id := b.id, slot := b.slot, row := b.row, col := b.col, binds := b.binds } ∧
        ⟨s.now + 16384, false, .mirrorResyncComplete lh lc, []⟩ ∈ t.agenda)) ∧
    (∀ l, s.launch? lh = some l → l.doomed = none → a.run = .trapped → b.run = .trapped → b.slot < a.slot →
      (s.physOf b.slot).quarantined = false → (s.physOf b.slot).score + 1 < s.mgmt.config.threshold →
      Goes (.triageDecision lh lc .blameSecondary) s (fun t => t.core? ⟨lh, lc, true⟩ = some { a with id := b.id } ∧
        t.core? ⟨lh, lc, false⟩ = some { a with id := a.id, slot := b.slot, row := b.row, col := b.col, binds := b.binds })) ∧
    (a.run = .trapped → b.run = .trapped → Goes (.mirrorResyncComplete lh lc) s (fun t => Each s t ⟨lh, lc, false⟩ (fun c e =>
      e.pc = c.regpc ∧ e.run = backIn c ∧ e.nextIssue = s.now ∧ e.arch = c.arch ∧ e.regcnt = c.regcnt)))

/-- R33, R236 to R240, R242, R243, R246 to R251: queues and scheduling. A write of LQTAIL below the tail, or past the ring's end, is
ignored and sets ERR; an enabled queue starts its counts at 0; CANCEL completes what has not started, CANCELLED; a record taken raises
LQHEAD; an eligible launch is started, or cores are asked for; a millisecond of waiting raises its priority, up to 7; BIND of an EMPTY
slot, and the entry state at its dispatch; VACATE stops a core, which is saved, and leaves its slot EMPTY; the limits of the watchdog;
the quantum; the completion record of a kernel. That WATCHDOG_LIMIT3 completes a launch KILLED is the model's choice (log entry 82). -/
def Obligations.SchedulingEvents : Prop :=
  ∀ s : State,
    (∀ (q : Nat) (v : Word),
      ((v.toNat < (s.queue q).tail.toNat ∨ (s.queue q).head.toNat + (s.queue q).size.toNat < v.toNat) →
        Goes (.lqtailWrite q v) s (fun t => (t.queue q).tail = (s.queue q).tail ∧ (t.queue q).err = true)) ∧
      ((s.queue q).tail.toNat ≤ v.toNat → v.toNat ≤ (s.queue q).head.toNat + (s.queue q).size.toNat →
        Goes (.lqtailWrite q v) s (fun t => (t.queue q).tail = v ∧ (t.queue q).err = (s.queue q).err)) ∧
      ((s.queue q).enable = false → Goes (.queueEnable q) s (fun t => (t.queue q).enable = true ∧ (t.queue q).tail = 0 ∧
        (t.queue q).head = 0 ∧ (t.queue q).done = 0)) ∧
      Goes (.queueDisable q) s (fun t => (t.queue q).enable = false) ∧
      (s.takable q = true → (s.queue q).head.toNat + 1 < 2 ^ 64 → Goes (.launchRecordTake q) s (fun t =>
        (t.queue q).head = (s.queue q).head + 1 ∧ ∃ l ∈ t.launches, l.queue = q ∧ l.seq = (s.queue q).head.toNat + 1))) ∧
    (∀ (lh : Nat) (l : Launch), s.launches = [l] → l.h = lh → l.lrec.flagEn = false →
      (l.status = .taken ∨ l.status = .eligible → Goes (.queueCancel (l.queue % 64)) s (fun t =>
        t.completions = s.completions ++ [(l.queue % 64, l.seq, 5)] ∧ ∃ m, t.launches = [m] ∧ m.status = .complete 5)) ∧
      (l.status = .taken → l.lrec.depA = none → l.lrec.depB = none → s.partReady l.ctx = true →
        Goes (.launchEligible lh) s (fun t => ∃ m, t.launches = [m] ∧ m.status ≠ .taken)) ∧
      (l.status = .eligible → Goes (.priorityAging lh) s (fun t => t.launches = [{ l with effPrio := min 7 (l.effPrio + 1) }])) ∧
      (l.status = .started →
        (∀ ix lc, (s.slotRec ix).state = .empty → clean s ix → lc < l.lrec.grid → (s.exposedOf ix).isSome = true →
          Goes (.slotBind ix lh lc) s (fun t => (t.slotRec ix).state = .bind ∧ (t.slotRec ix).lhandle = lh ∧ (t.slotRec ix).lcore = lc ∧
            (t.slotRec ix).ctx = l.ctx ∧ (t.slotRec ix).entry = l.kern.entry)) ∧
        (∀ ix lc, (s.slotRec ix).state ≠ .empty ∨ ¬ clean s ix → Goes (.slotBind ix lh lc) s (fun t => t.slots = s.slots ∧
          t.mgmt.log.length = (if s.mgmt.log.length ≥ 2 ^ 20 then s.mgmt.log.length - 64 + 2 else s.mgmt.log.length + 1))) ∧
        (∀ ix, (s.slotRec ix).state = .bind → (s.slotRec ix).lhandle = lh → l.lrec.mirror = false → l.rolling = none → s.others = [] →
          s.core.run = .empty →
          Goes (.dispatch ix) s (fun t =>
            let lc := (s.slotRec ix).lcore
            let c := t.core
            c.id = ⟨lh, lc, false⟩ ∧ c.run = .ready ∧ c.pc = wd l.kern.entry ∧ c.regpc = wd l.kern.entry ∧ c.code = l.kern.text ∧
            c.arch.x[10] = 0xFF000 ∧ c.arch.x[11] = wd lc ∧ c.arch.x[12] = wd l.lrec.grid ∧ c.arch.x[13] = wd (lc % l.lrec.gang) ∧
            c.arch.x[14] = wd l.seq ∧ (t.slotRec ix).state = .run)) ∧
        Goes (.watchdogLimit1 lh) s (fun t => ∃ m, t.launches = [m] ∧ 1 ≤ m.wdLevel ∧ m.effPrio = l.lrec.prio ∧ m.status = .started ∧
          ∀ p ∈ s.slots, p.2.lhandle = lh → p.2.state = .run → p.2.lcore < l.lrec.grid → ∃ at_, ⟨at_, true, .slotVacate p.1, []⟩ ∈ t.agenda) ∧
        Goes (.watchdogLimit2 lh) s (fun t => t.completions = s.completions ++ [(l.queue % 64, l.seq, 3)] ∧
          ∀ c ∈ t.cores, c.id.lh = lh → c.run = .empty ∨ c.run = .stopping ∨ c.run = .saving) ∧
        (s.tours = [] → Goes (.watchdogLimit3 lh) s (fun t => t.completions = s.completions ++ [(l.queue % 64, l.seq, 3)] ∧
          ∀ p ∈ s.slots, p.2.lhandle = lh → p.2.state ≠ .empty → (t.slotRec p.1).state = .fenced)) ∧
        Goes (.quantumExpiry lh) s (fun t => t.launches = [{ l with quantumOut := true }]) ∧
        (s.finished l = true → l.lrec.umbra = false → Goes (.kernelCompletion lh) s (fun t =>
          t.completions = s.completions ++ [(l.queue % 64, l.seq, 0)])))) ∧
    (∀ (ix : Nat) (c : Core), s.coreAt ix = some c → s.core? c.id = some c → c.id.twin = false →
      ((s.slotRec ix).state = .run → c.run = .ready → c.snapD = none → Goes (.slotVacate ix) s (fun t => (t.slotRec ix).state = .vacate ∧
        ∃ e, t.core? c.id = some e ∧ e.run = .stopping ∧ e.pc = c.regpc ∧ e.arch = c.ckpt ∧ e.cause = c.cause ∧ e.tval = c.tval ∧ e.sbuf = [])) ∧
      ((s.slotRec ix).state = .vacate → c.run = .stopping → s.stopped c = true → c.stops = [] →
        Goes (.coreStop ix) s (fun t => (t.slotRec ix).state = .saving ∧ t.core? c.id = some { c with run := .saving } ∧
          ∃ v, t.saved = s.saved ++ [v] ∧ v.id = c.id ∧ v.time = s.timeNs)) ∧
      ((s.slotRec ix).state = .saving → c.run = .saving → s.delivs = [] → (s.physOf ix).quarantined = false → c.traceBase = 0 →
        (∃ l, s.launch? c.id.lh = some l ∧ l.status = .started) →
        Goes (.saveComplete ix) s (fun t => (t.slotRec ix).state = .empty ∧ t.core? c.id = some { c with run := .vacated })))

/-! ### The machine -/

namespace Sys2Proof.Claims

/-- The memories of a state have their canonical form: device memory, and every core's scratchpad. -/
def canonical (s : State) : Prop := s.hbm.wf = true ∧ ∀ c ∈ s.cores, c.mem.wf = true

end Sys2Proof.Claims

/-- R35, R36, R52, R276, R335, R385: a step that issues runs the instruction decoded at the program counter of the core whose turn it is, or the
event that the fetch raises; after ERET with SKIP the instruction at EPC is passed over. The leader of a slaved gang issues the same way,
and its followers are sent what it issued; a step of an event runs the event. No core issues in a cycle that its die loses. Each word of the opcode table that is decoded runs as the
first instruction after reset (log entry 26). -/
def Obligations.StepRunsDecoded : Prop :=
  ∀ s : State,
    (∀ (i : Instr) (t : State), s.todo = .event i t → step s = exec i t) ∧
    (∀ id : CoreId, s.todo = .issue id → ∃ c ∈ s.cores, c.id = id ∧ s.withheld c.die = false) ∧
    (∀ id : CoreId, s.todo = .issue id →
      let t := s.focus id
      let code := t.core.codeFrom
      t.core.slaved = false →
      ((t.core.skip = true ∧ t.core.pc = t.core.epc) → step s = .next (withC t ({ t.core with skip := false }.advance t.now t.core.instrSize))) ∧
      (¬ (t.core.skip = true ∧ t.core.pc = t.core.epc) →
        (∀ i rest, decode code = .ok (i, rest) → step s = exec i t) ∧
        (decode code = .error .outsideText → step s = exec .outsideLoadedText t) ∧
        (∀ w, decode code = .error (.illegal w) → step s = exec (.illegal w) t))) ∧
    (∀ id : CoreId, s.todo = .issue id → (s.focus id).core.slaved = true →
      let t := s.focus id
      ∀ i rest, t.core.skip = false → decode t.core.codeFrom = .ok (i, rest) →
        step s = (match exec i t with
          | .next u => .next (if issued t.core u.core then u.forward t.core (t.gangOf t.core) else u)
          | .fault r => .fault r
          | .refused r => .refused r)) ∧
    (∀ (nbits w : Nat) (i : Instr), decodeTableWord nbits w = some i →
      let t := State.reset.withFetchWord nbits w
      step t = exec i (t.focus t.core.id))

/-- R237, R243, R310, R368, R378, R381, R382, R384, R387: the machine after power-on: no launch, no record in a slot, nothing READY, no
reference of TIME, CAP at 2,800 W, 24 spares on each die, every queue and context off, and memory with nothing listed. -/
def Obligations.ResetState : Prop :=
  let s := State.reset
  s.launches = [] ∧ s.others = [] ∧ s.core.run = .empty ∧ (∀ ix, (s.slotRec ix).state = .empty) ∧ s.mgmt.ready = 0 ∧ s.mgmt.pready = 0 ∧
  s.mgmt.lock = false ∧ s.mgmt.cap = 2800 ∧ (∀ d : Fin 4, s.mgmt.spares[d] = 24) ∧
  (∀ q, (s.queue q).enable = false ∧ (s.queue q).lima = 1000 ∧ (s.queue q).limb = 10000 ∧ (s.queue q).limc = 11000) ∧
  (∀ c, (s.ctx c).enable = false) ∧ canonical s ∧ step s = .next s.clock

/-- R1, R14: an invariant of the machine. In every state, whether a run reaches it or not, in which device memory and every core's scratchpad
have their canonical form (addresses strictly rising, and no listed byte equal to what an unlisted address reads as), a step that goes on leads to
a state in which they have it: whatever instruction issues and whatever event happens, equal memories are equal data. -/
def Obligations.MemoriesStayCanonical : Prop :=
  ∀ s t : State, canonical s → step s = .next t → canonical t
end

