-- ==== Sys2Proof/Laws/State.lean ====
section
/-! SUPPORT. The fields of the state behind each shared update: one lemma a field an update, so that no later proof unfolds a record
update. The first part is about the package, the second about one core. -/

namespace Sys2Proof.Machine

variable (s : State) (c : Core)

/-! ### State.withCore -/

@[simp] theorem State.withCore_others : (s.withCore c).others = s.others := rfl
@[simp] theorem State.withCore_now : (s.withCore c).now = s.now := rfl
@[simp] theorem State.withCore_timeFine : (s.withCore c).timeFine = s.timeFine := rfl
@[simp] theorem State.withCore_agenda : (s.withCore c).agenda = s.agenda := rfl
@[simp] theorem State.withCore_timers : (s.withCore c).timers = s.timers := rfl
@[simp] theorem State.withCore_inputs : (s.withCore c).inputs = s.inputs := rfl
@[simp] theorem State.withCore_fresh : (s.withCore c).fresh = s.fresh := rfl
@[simp] theorem State.withCore_nextId : (s.withCore c).nextId = s.nextId := rfl
@[simp] theorem State.withCore_launches : (s.withCore c).launches = s.launches := rfl
@[simp] theorem State.withCore_queues : (s.withCore c).queues = s.queues := rfl
@[simp] theorem State.withCore_slots : (s.withCore c).slots = s.slots := rfl
@[simp] theorem State.withCore_phys : (s.withCore c).phys = s.phys := rfl
@[simp] theorem State.withCore_ctxs : (s.withCore c).ctxs = s.ctxs := rfl
@[simp] theorem State.withCore_tlb : (s.withCore c).tlb = s.tlb := rfl
@[simp] theorem State.withCore_walks : (s.withCore c).walks = s.walks := rfl
@[simp] theorem State.withCore_hbm : (s.withCore c).hbm = s.hbm := rfl
@[simp] theorem State.withCore_poison : (s.withCore c).poison = s.poison := rfl
@[simp] theorem State.withCore_evsets : (s.withCore c).evsets = s.evsets := rfl
@[simp] theorem State.withCore_packets : (s.withCore c).packets = s.packets := rfl
@[simp] theorem State.withCore_tlines : (s.withCore c).tlines = s.tlines := rfl
@[simp] theorem State.withCore_carried : (s.withCore c).carried = s.carried := rfl
@[simp] theorem State.withCore_delivs : (s.withCore c).delivs = s.delivs := rfl
@[simp] theorem State.withCore_accs : (s.withCore c).accs = s.accs := rfl
@[simp] theorem State.withCore_ctxWrites : (s.withCore c).ctxWrites = s.ctxWrites := rfl
@[simp] theorem State.withCore_dynUse : (s.withCore c).dynUse = s.dynUse := rfl
@[simp] theorem State.withCore_tours : (s.withCore c).tours = s.tours := rfl
@[simp] theorem State.withCore_saved : (s.withCore c).saved = s.saved := rfl
@[simp] theorem State.withCore_hostReads : (s.withCore c).hostReads = s.hostReads := rfl
@[simp] theorem State.withCore_interrupts : (s.withCore c).interrupts = s.interrupts := rfl
@[simp] theorem State.withCore_peerWrites : (s.withCore c).peerWrites = s.peerWrites := rfl
@[simp] theorem State.withCore_completions : (s.withCore c).completions = s.completions := rfl
@[simp] theorem State.withCore_peerReplies : (s.withCore c).peerReplies = s.peerReplies := rfl
@[simp] theorem State.withCore_requests : (s.withCore c).requests = s.requests := rfl
@[simp] theorem State.withCore_mgmt : (s.withCore c).mgmt = s.mgmt := rfl

/-! ### State.mapCores -/

@[simp] theorem State.mapCores_now (p : Core → Bool) (f : Core → Core) : (s.mapCores p f).now = s.now := rfl
@[simp] theorem State.mapCores_timeFine (p : Core → Bool) (f : Core → Core) : (s.mapCores p f).timeFine = s.timeFine := rfl
@[simp] theorem State.mapCores_agenda (p : Core → Bool) (f : Core → Core) : (s.mapCores p f).agenda = s.agenda := rfl
@[simp] theorem State.mapCores_timers (p : Core → Bool) (f : Core → Core) : (s.mapCores p f).timers = s.timers := rfl
@[simp] theorem State.mapCores_inputs (p : Core → Bool) (f : Core → Core) : (s.mapCores p f).inputs = s.inputs := rfl
@[simp] theorem State.mapCores_fresh (p : Core → Bool) (f : Core → Core) : (s.mapCores p f).fresh = s.fresh := rfl
@[simp] theorem State.mapCores_nextId (p : Core → Bool) (f : Core → Core) : (s.mapCores p f).nextId = s.nextId := rfl
@[simp] theorem State.mapCores_launches (p : Core → Bool) (f : Core → Core) : (s.mapCores p f).launches = s.launches := rfl
@[simp] theorem State.mapCores_queues (p : Core → Bool) (f : Core → Core) : (s.mapCores p f).queues = s.queues := rfl
@[simp] theorem State.mapCores_slots (p : Core → Bool) (f : Core → Core) : (s.mapCores p f).slots = s.slots := rfl
@[simp] theorem State.mapCores_phys (p : Core → Bool) (f : Core → Core) : (s.mapCores p f).phys = s.phys := rfl
@[simp] theorem State.mapCores_ctxs (p : Core → Bool) (f : Core → Core) : (s.mapCores p f).ctxs = s.ctxs := rfl
@[simp] theorem State.mapCores_tlb (p : Core → Bool) (f : Core → Core) : (s.mapCores p f).tlb = s.tlb := rfl
@[simp] theorem State.mapCores_walks (p : Core → Bool) (f : Core → Core) : (s.mapCores p f).walks = s.walks := rfl
@[simp] theorem State.mapCores_hbm (p : Core → Bool) (f : Core → Core) : (s.mapCores p f).hbm = s.hbm := rfl
@[simp] theorem State.mapCores_poison (p : Core → Bool) (f : Core → Core) : (s.mapCores p f).poison = s.poison := rfl
@[simp] theorem State.mapCores_evsets (p : Core → Bool) (f : Core → Core) : (s.mapCores p f).evsets = s.evsets := rfl
@[simp] theorem State.mapCores_packets (p : Core → Bool) (f : Core → Core) : (s.mapCores p f).packets = s.packets := rfl
@[simp] theorem State.mapCores_tlines (p : Core → Bool) (f : Core → Core) : (s.mapCores p f).tlines = s.tlines := rfl
@[simp] theorem State.mapCores_carried (p : Core → Bool) (f : Core → Core) : (s.mapCores p f).carried = s.carried := rfl
@[simp] theorem State.mapCores_delivs (p : Core → Bool) (f : Core → Core) : (s.mapCores p f).delivs = s.delivs := rfl
@[simp] theorem State.mapCores_accs (p : Core → Bool) (f : Core → Core) : (s.mapCores p f).accs = s.accs := rfl
@[simp] theorem State.mapCores_ctxWrites (p : Core → Bool) (f : Core → Core) : (s.mapCores p f).ctxWrites = s.ctxWrites := rfl
@[simp] theorem State.mapCores_dynUse (p : Core → Bool) (f : Core → Core) : (s.mapCores p f).dynUse = s.dynUse := rfl
@[simp] theorem State.mapCores_tours (p : Core → Bool) (f : Core → Core) : (s.mapCores p f).tours = s.tours := rfl
@[simp] theorem State.mapCores_saved (p : Core → Bool) (f : Core → Core) : (s.mapCores p f).saved = s.saved := rfl
@[simp] theorem State.mapCores_hostReads (p : Core → Bool) (f : Core → Core) : (s.mapCores p f).hostReads = s.hostReads := rfl
@[simp] theorem State.mapCores_interrupts (p : Core → Bool) (f : Core → Core) : (s.mapCores p f).interrupts = s.interrupts := rfl
@[simp] theorem State.mapCores_peerWrites (p : Core → Bool) (f : Core → Core) : (s.mapCores p f).peerWrites = s.peerWrites := rfl
@[simp] theorem State.mapCores_completions (p : Core → Bool) (f : Core → Core) : (s.mapCores p f).completions = s.completions := rfl
@[simp] theorem State.mapCores_peerReplies (p : Core → Bool) (f : Core → Core) : (s.mapCores p f).peerReplies = s.peerReplies := rfl
@[simp] theorem State.mapCores_requests (p : Core → Bool) (f : Core → Core) : (s.mapCores p f).requests = s.requests := rfl
@[simp] theorem State.mapCores_mgmt (p : Core → Bool) (f : Core → Core) : (s.mapCores p f).mgmt = s.mgmt := rfl

/-! ### State.updCore -/

@[simp] theorem State.updCore_now (id : CoreId) (f : Core → Core) : (s.updCore id f).now = s.now := rfl
@[simp] theorem State.updCore_timeFine (id : CoreId) (f : Core → Core) : (s.updCore id f).timeFine = s.timeFine := rfl
@[simp] theorem State.updCore_agenda (id : CoreId) (f : Core → Core) : (s.updCore id f).agenda = s.agenda := rfl
@[simp] theorem State.updCore_timers (id : CoreId) (f : Core → Core) : (s.updCore id f).timers = s.timers := rfl
@[simp] theorem State.updCore_inputs (id : CoreId) (f : Core → Core) : (s.updCore id f).inputs = s.inputs := rfl
@[simp] theorem State.updCore_fresh (id : CoreId) (f : Core → Core) : (s.updCore id f).fresh = s.fresh := rfl
@[simp] theorem State.updCore_nextId (id : CoreId) (f : Core → Core) : (s.updCore id f).nextId = s.nextId := rfl
@[simp] theorem State.updCore_launches (id : CoreId) (f : Core → Core) : (s.updCore id f).launches = s.launches := rfl
@[simp] theorem State.updCore_queues (id : CoreId) (f : Core → Core) : (s.updCore id f).queues = s.queues := rfl
@[simp] theorem State.updCore_slots (id : CoreId) (f : Core → Core) : (s.updCore id f).slots = s.slots := rfl
@[simp] theorem State.updCore_phys (id : CoreId) (f : Core → Core) : (s.updCore id f).phys = s.phys := rfl
@[simp] theorem State.updCore_ctxs (id : CoreId) (f : Core → Core) : (s.updCore id f).ctxs = s.ctxs := rfl
@[simp] theorem State.updCore_tlb (id : CoreId) (f : Core → Core) : (s.updCore id f).tlb = s.tlb := rfl
@[simp] theorem State.updCore_walks (id : CoreId) (f : Core → Core) : (s.updCore id f).walks = s.walks := rfl
@[simp] theorem State.updCore_hbm (id : CoreId) (f : Core → Core) : (s.updCore id f).hbm = s.hbm := rfl
@[simp] theorem State.updCore_poison (id : CoreId) (f : Core → Core) : (s.updCore id f).poison = s.poison := rfl
@[simp] theorem State.updCore_evsets (id : CoreId) (f : Core → Core) : (s.updCore id f).evsets = s.evsets := rfl
@[simp] theorem State.updCore_packets (id : CoreId) (f : Core → Core) : (s.updCore id f).packets = s.packets := rfl
@[simp] theorem State.updCore_tlines (id : CoreId) (f : Core → Core) : (s.updCore id f).tlines = s.tlines := rfl
@[simp] theorem State.updCore_carried (id : CoreId) (f : Core → Core) : (s.updCore id f).carried = s.carried := rfl
@[simp] theorem State.updCore_delivs (id : CoreId) (f : Core → Core) : (s.updCore id f).delivs = s.delivs := rfl
@[simp] theorem State.updCore_accs (id : CoreId) (f : Core → Core) : (s.updCore id f).accs = s.accs := rfl
@[simp] theorem State.updCore_ctxWrites (id : CoreId) (f : Core → Core) : (s.updCore id f).ctxWrites = s.ctxWrites := rfl
@[simp] theorem State.updCore_dynUse (id : CoreId) (f : Core → Core) : (s.updCore id f).dynUse = s.dynUse := rfl
@[simp] theorem State.updCore_tours (id : CoreId) (f : Core → Core) : (s.updCore id f).tours = s.tours := rfl
@[simp] theorem State.updCore_saved (id : CoreId) (f : Core → Core) : (s.updCore id f).saved = s.saved := rfl
@[simp] theorem State.updCore_hostReads (id : CoreId) (f : Core → Core) : (s.updCore id f).hostReads = s.hostReads := rfl
@[simp] theorem State.updCore_interrupts (id : CoreId) (f : Core → Core) : (s.updCore id f).interrupts = s.interrupts := rfl
@[simp] theorem State.updCore_peerWrites (id : CoreId) (f : Core → Core) : (s.updCore id f).peerWrites = s.peerWrites := rfl
@[simp] theorem State.updCore_completions (id : CoreId) (f : Core → Core) : (s.updCore id f).completions = s.completions := rfl
@[simp] theorem State.updCore_peerReplies (id : CoreId) (f : Core → Core) : (s.updCore id f).peerReplies = s.peerReplies := rfl
@[simp] theorem State.updCore_requests (id : CoreId) (f : Core → Core) : (s.updCore id f).requests = s.requests := rfl
@[simp] theorem State.updCore_mgmt (id : CoreId) (f : Core → Core) : (s.updCore id f).mgmt = s.mgmt := rfl

/-! ### State.pair -/

@[simp] theorem State.pair_now (id : CoreId) (f : Core → Core) : (s.pair id f).now = s.now := rfl
@[simp] theorem State.pair_timeFine (id : CoreId) (f : Core → Core) : (s.pair id f).timeFine = s.timeFine := rfl
@[simp] theorem State.pair_agenda (id : CoreId) (f : Core → Core) : (s.pair id f).agenda = s.agenda := rfl
@[simp] theorem State.pair_timers (id : CoreId) (f : Core → Core) : (s.pair id f).timers = s.timers := rfl
@[simp] theorem State.pair_inputs (id : CoreId) (f : Core → Core) : (s.pair id f).inputs = s.inputs := rfl
@[simp] theorem State.pair_fresh (id : CoreId) (f : Core → Core) : (s.pair id f).fresh = s.fresh := rfl
@[simp] theorem State.pair_nextId (id : CoreId) (f : Core → Core) : (s.pair id f).nextId = s.nextId := rfl
@[simp] theorem State.pair_launches (id : CoreId) (f : Core → Core) : (s.pair id f).launches = s.launches := rfl
@[simp] theorem State.pair_queues (id : CoreId) (f : Core → Core) : (s.pair id f).queues = s.queues := rfl
@[simp] theorem State.pair_slots (id : CoreId) (f : Core → Core) : (s.pair id f).slots = s.slots := rfl
@[simp] theorem State.pair_phys (id : CoreId) (f : Core → Core) : (s.pair id f).phys = s.phys := rfl
@[simp] theorem State.pair_ctxs (id : CoreId) (f : Core → Core) : (s.pair id f).ctxs = s.ctxs := rfl
@[simp] theorem State.pair_tlb (id : CoreId) (f : Core → Core) : (s.pair id f).tlb = s.tlb := rfl
@[simp] theorem State.pair_walks (id : CoreId) (f : Core → Core) : (s.pair id f).walks = s.walks := rfl
@[simp] theorem State.pair_hbm (id : CoreId) (f : Core → Core) : (s.pair id f).hbm = s.hbm := rfl
@[simp] theorem State.pair_poison (id : CoreId) (f : Core → Core) : (s.pair id f).poison = s.poison := rfl
@[simp] theorem State.pair_evsets (id : CoreId) (f : Core → Core) : (s.pair id f).evsets = s.evsets := rfl
@[simp] theorem State.pair_packets (id : CoreId) (f : Core → Core) : (s.pair id f).packets = s.packets := rfl
@[simp] theorem State.pair_tlines (id : CoreId) (f : Core → Core) : (s.pair id f).tlines = s.tlines := rfl
@[simp] theorem State.pair_carried (id : CoreId) (f : Core → Core) : (s.pair id f).carried = s.carried := rfl
@[simp] theorem State.pair_delivs (id : CoreId) (f : Core → Core) : (s.pair id f).delivs = s.delivs := rfl
@[simp] theorem State.pair_accs (id : CoreId) (f : Core → Core) : (s.pair id f).accs = s.accs := rfl
@[simp] theorem State.pair_ctxWrites (id : CoreId) (f : Core → Core) : (s.pair id f).ctxWrites = s.ctxWrites := rfl
@[simp] theorem State.pair_dynUse (id : CoreId) (f : Core → Core) : (s.pair id f).dynUse = s.dynUse := rfl
@[simp] theorem State.pair_tours (id : CoreId) (f : Core → Core) : (s.pair id f).tours = s.tours := rfl
@[simp] theorem State.pair_saved (id : CoreId) (f : Core → Core) : (s.pair id f).saved = s.saved := rfl
@[simp] theorem State.pair_hostReads (id : CoreId) (f : Core → Core) : (s.pair id f).hostReads = s.hostReads := rfl
@[simp] theorem State.pair_interrupts (id : CoreId) (f : Core → Core) : (s.pair id f).interrupts = s.interrupts := rfl
@[simp] theorem State.pair_peerWrites (id : CoreId) (f : Core → Core) : (s.pair id f).peerWrites = s.peerWrites := rfl
@[simp] theorem State.pair_completions (id : CoreId) (f : Core → Core) : (s.pair id f).completions = s.completions := rfl
@[simp] theorem State.pair_peerReplies (id : CoreId) (f : Core → Core) : (s.pair id f).peerReplies = s.peerReplies := rfl
@[simp] theorem State.pair_requests (id : CoreId) (f : Core → Core) : (s.pair id f).requests = s.requests := rfl
@[simp] theorem State.pair_mgmt (id : CoreId) (f : Core → Core) : (s.pair id f).mgmt = s.mgmt := rfl

/-! ### State.pokeAt -/

@[simp] theorem State.pokeAt_now (id : CoreId) (cs : List Host.Cell) : (s.pokeAt id cs).now = s.now := by unfold State.pokeAt; dsimp only; split <;> rfl
@[simp] theorem State.pokeAt_timeFine (id : CoreId) (cs : List Host.Cell) : (s.pokeAt id cs).timeFine = s.timeFine := by unfold State.pokeAt; dsimp only; split <;> rfl
@[simp] theorem State.pokeAt_agenda (id : CoreId) (cs : List Host.Cell) : (s.pokeAt id cs).agenda = s.agenda := by unfold State.pokeAt; dsimp only; split <;> rfl
@[simp] theorem State.pokeAt_timers (id : CoreId) (cs : List Host.Cell) : (s.pokeAt id cs).timers = s.timers := by unfold State.pokeAt; dsimp only; split <;> rfl
@[simp] theorem State.pokeAt_inputs (id : CoreId) (cs : List Host.Cell) : (s.pokeAt id cs).inputs = s.inputs := by unfold State.pokeAt; dsimp only; split <;> rfl
@[simp] theorem State.pokeAt_fresh (id : CoreId) (cs : List Host.Cell) : (s.pokeAt id cs).fresh = s.fresh := by unfold State.pokeAt; dsimp only; split <;> rfl
@[simp] theorem State.pokeAt_nextId (id : CoreId) (cs : List Host.Cell) : (s.pokeAt id cs).nextId = s.nextId := by unfold State.pokeAt; dsimp only; split <;> rfl
@[simp] theorem State.pokeAt_launches (id : CoreId) (cs : List Host.Cell) : (s.pokeAt id cs).launches = s.launches := by unfold State.pokeAt; dsimp only; split <;> rfl
@[simp] theorem State.pokeAt_queues (id : CoreId) (cs : List Host.Cell) : (s.pokeAt id cs).queues = s.queues := by unfold State.pokeAt; dsimp only; split <;> rfl
@[simp] theorem State.pokeAt_slots (id : CoreId) (cs : List Host.Cell) : (s.pokeAt id cs).slots = s.slots := by unfold State.pokeAt; dsimp only; split <;> rfl
@[simp] theorem State.pokeAt_phys (id : CoreId) (cs : List Host.Cell) : (s.pokeAt id cs).phys = s.phys := by unfold State.pokeAt; dsimp only; split <;> rfl
@[simp] theorem State.pokeAt_ctxs (id : CoreId) (cs : List Host.Cell) : (s.pokeAt id cs).ctxs = s.ctxs := by unfold State.pokeAt; dsimp only; split <;> rfl
@[simp] theorem State.pokeAt_tlb (id : CoreId) (cs : List Host.Cell) : (s.pokeAt id cs).tlb = s.tlb := by unfold State.pokeAt; dsimp only; split <;> rfl
@[simp] theorem State.pokeAt_walks (id : CoreId) (cs : List Host.Cell) : (s.pokeAt id cs).walks = s.walks := by unfold State.pokeAt; dsimp only; split <;> rfl
@[simp] theorem State.pokeAt_hbm (id : CoreId) (cs : List Host.Cell) : (s.pokeAt id cs).hbm = s.hbm := by unfold State.pokeAt; dsimp only; split <;> rfl
@[simp] theorem State.pokeAt_poison (id : CoreId) (cs : List Host.Cell) : (s.pokeAt id cs).poison = s.poison := by unfold State.pokeAt; dsimp only; split <;> rfl
@[simp] theorem State.pokeAt_evsets (id : CoreId) (cs : List Host.Cell) : (s.pokeAt id cs).evsets = s.evsets := by unfold State.pokeAt; dsimp only; split <;> rfl
@[simp] theorem State.pokeAt_packets (id : CoreId) (cs : List Host.Cell) : (s.pokeAt id cs).packets = s.packets := by unfold State.pokeAt; dsimp only; split <;> rfl
@[simp] theorem State.pokeAt_tlines (id : CoreId) (cs : List Host.Cell) : (s.pokeAt id cs).tlines = s.tlines := by unfold State.pokeAt; dsimp only; split <;> rfl
@[simp] theorem State.pokeAt_carried (id : CoreId) (cs : List Host.Cell) : (s.pokeAt id cs).carried = s.carried := by unfold State.pokeAt; dsimp only; split <;> rfl
@[simp] theorem State.pokeAt_delivs (id : CoreId) (cs : List Host.Cell) : (s.pokeAt id cs).delivs = s.delivs := by unfold State.pokeAt; dsimp only; split <;> rfl
@[simp] theorem State.pokeAt_accs (id : CoreId) (cs : List Host.Cell) : (s.pokeAt id cs).accs = s.accs := by unfold State.pokeAt; dsimp only; split <;> rfl
@[simp] theorem State.pokeAt_ctxWrites (id : CoreId) (cs : List Host.Cell) : (s.pokeAt id cs).ctxWrites = s.ctxWrites := by unfold State.pokeAt; dsimp only; split <;> rfl
@[simp] theorem State.pokeAt_dynUse (id : CoreId) (cs : List Host.Cell) : (s.pokeAt id cs).dynUse = s.dynUse := by unfold State.pokeAt; dsimp only; split <;> rfl
@[simp] theorem State.pokeAt_tours (id : CoreId) (cs : List Host.Cell) : (s.pokeAt id cs).tours = s.tours := by unfold State.pokeAt; dsimp only; split <;> rfl
@[simp] theorem State.pokeAt_hostReads (id : CoreId) (cs : List Host.Cell) : (s.pokeAt id cs).hostReads = s.hostReads := by unfold State.pokeAt; dsimp only; split <;> rfl
@[simp] theorem State.pokeAt_interrupts (id : CoreId) (cs : List Host.Cell) : (s.pokeAt id cs).interrupts = s.interrupts := by unfold State.pokeAt; dsimp only; split <;> rfl
@[simp] theorem State.pokeAt_peerWrites (id : CoreId) (cs : List Host.Cell) : (s.pokeAt id cs).peerWrites = s.peerWrites := by unfold State.pokeAt; dsimp only; split <;> rfl
@[simp] theorem State.pokeAt_completions (id : CoreId) (cs : List Host.Cell) : (s.pokeAt id cs).completions = s.completions := by unfold State.pokeAt; dsimp only; split <;> rfl
@[simp] theorem State.pokeAt_peerReplies (id : CoreId) (cs : List Host.Cell) : (s.pokeAt id cs).peerReplies = s.peerReplies := by unfold State.pokeAt; dsimp only; split <;> rfl
@[simp] theorem State.pokeAt_requests (id : CoreId) (cs : List Host.Cell) : (s.pokeAt id cs).requests = s.requests := by unfold State.pokeAt; dsimp only; split <;> rfl
@[simp] theorem State.pokeAt_mgmt (id : CoreId) (cs : List Host.Cell) : (s.pokeAt id cs).mgmt = s.mgmt := by unfold State.pokeAt; dsimp only; split <;> rfl

/-! ### State.updCmd -/

@[simp] theorem State.updCmd_now (id : CoreId) (p : EngClass) (n : Nat) (f : Inflight → Inflight) : (s.updCmd id p n f).now = s.now := rfl
@[simp] theorem State.updCmd_timeFine (id : CoreId) (p : EngClass) (n : Nat) (f : Inflight → Inflight) : (s.updCmd id p n f).timeFine = s.timeFine := rfl
@[simp] theorem State.updCmd_agenda (id : CoreId) (p : EngClass) (n : Nat) (f : Inflight → Inflight) : (s.updCmd id p n f).agenda = s.agenda := rfl
@[simp] theorem State.updCmd_timers (id : CoreId) (p : EngClass) (n : Nat) (f : Inflight → Inflight) : (s.updCmd id p n f).timers = s.timers := rfl
@[simp] theorem State.updCmd_inputs (id : CoreId) (p : EngClass) (n : Nat) (f : Inflight → Inflight) : (s.updCmd id p n f).inputs = s.inputs := rfl
@[simp] theorem State.updCmd_fresh (id : CoreId) (p : EngClass) (n : Nat) (f : Inflight → Inflight) : (s.updCmd id p n f).fresh = s.fresh := rfl
@[simp] theorem State.updCmd_nextId (id : CoreId) (p : EngClass) (n : Nat) (f : Inflight → Inflight) : (s.updCmd id p n f).nextId = s.nextId := rfl
@[simp] theorem State.updCmd_launches (id : CoreId) (p : EngClass) (n : Nat) (f : Inflight → Inflight) : (s.updCmd id p n f).launches = s.launches := rfl
@[simp] theorem State.updCmd_queues (id : CoreId) (p : EngClass) (n : Nat) (f : Inflight → Inflight) : (s.updCmd id p n f).queues = s.queues := rfl
@[simp] theorem State.updCmd_slots (id : CoreId) (p : EngClass) (n : Nat) (f : Inflight → Inflight) : (s.updCmd id p n f).slots = s.slots := rfl
@[simp] theorem State.updCmd_phys (id : CoreId) (p : EngClass) (n : Nat) (f : Inflight → Inflight) : (s.updCmd id p n f).phys = s.phys := rfl
@[simp] theorem State.updCmd_ctxs (id : CoreId) (p : EngClass) (n : Nat) (f : Inflight → Inflight) : (s.updCmd id p n f).ctxs = s.ctxs := rfl
@[simp] theorem State.updCmd_tlb (id : CoreId) (p : EngClass) (n : Nat) (f : Inflight → Inflight) : (s.updCmd id p n f).tlb = s.tlb := rfl
@[simp] theorem State.updCmd_walks (id : CoreId) (p : EngClass) (n : Nat) (f : Inflight → Inflight) : (s.updCmd id p n f).walks = s.walks := rfl
@[simp] theorem State.updCmd_hbm (id : CoreId) (p : EngClass) (n : Nat) (f : Inflight → Inflight) : (s.updCmd id p n f).hbm = s.hbm := rfl
@[simp] theorem State.updCmd_poison (id : CoreId) (p : EngClass) (n : Nat) (f : Inflight → Inflight) : (s.updCmd id p n f).poison = s.poison := rfl
@[simp] theorem State.updCmd_evsets (id : CoreId) (p : EngClass) (n : Nat) (f : Inflight → Inflight) : (s.updCmd id p n f).evsets = s.evsets := rfl
@[simp] theorem State.updCmd_packets (id : CoreId) (p : EngClass) (n : Nat) (f : Inflight → Inflight) : (s.updCmd id p n f).packets = s.packets := rfl
@[simp] theorem State.updCmd_tlines (id : CoreId) (p : EngClass) (n : Nat) (f : Inflight → Inflight) : (s.updCmd id p n f).tlines = s.tlines := rfl
@[simp] theorem State.updCmd_carried (id : CoreId) (p : EngClass) (n : Nat) (f : Inflight → Inflight) : (s.updCmd id p n f).carried = s.carried := rfl
@[simp] theorem State.updCmd_delivs (id : CoreId) (p : EngClass) (n : Nat) (f : Inflight → Inflight) : (s.updCmd id p n f).delivs = s.delivs := rfl
@[simp] theorem State.updCmd_accs (id : CoreId) (p : EngClass) (n : Nat) (f : Inflight → Inflight) : (s.updCmd id p n f).accs = s.accs := rfl
@[simp] theorem State.updCmd_ctxWrites (id : CoreId) (p : EngClass) (n : Nat) (f : Inflight → Inflight) : (s.updCmd id p n f).ctxWrites = s.ctxWrites := rfl
@[simp] theorem State.updCmd_dynUse (id : CoreId) (p : EngClass) (n : Nat) (f : Inflight → Inflight) : (s.updCmd id p n f).dynUse = s.dynUse := rfl
@[simp] theorem State.updCmd_tours (id : CoreId) (p : EngClass) (n : Nat) (f : Inflight → Inflight) : (s.updCmd id p n f).tours = s.tours := rfl
@[simp] theorem State.updCmd_saved (id : CoreId) (p : EngClass) (n : Nat) (f : Inflight → Inflight) : (s.updCmd id p n f).saved = s.saved := rfl
@[simp] theorem State.updCmd_hostReads (id : CoreId) (p : EngClass) (n : Nat) (f : Inflight → Inflight) : (s.updCmd id p n f).hostReads = s.hostReads := rfl
@[simp] theorem State.updCmd_interrupts (id : CoreId) (p : EngClass) (n : Nat) (f : Inflight → Inflight) : (s.updCmd id p n f).interrupts = s.interrupts := rfl
@[simp] theorem State.updCmd_peerWrites (id : CoreId) (p : EngClass) (n : Nat) (f : Inflight → Inflight) : (s.updCmd id p n f).peerWrites = s.peerWrites := rfl
@[simp] theorem State.updCmd_completions (id : CoreId) (p : EngClass) (n : Nat) (f : Inflight → Inflight) : (s.updCmd id p n f).completions = s.completions := rfl
@[simp] theorem State.updCmd_peerReplies (id : CoreId) (p : EngClass) (n : Nat) (f : Inflight → Inflight) : (s.updCmd id p n f).peerReplies = s.peerReplies := rfl
@[simp] theorem State.updCmd_requests (id : CoreId) (p : EngClass) (n : Nat) (f : Inflight → Inflight) : (s.updCmd id p n f).requests = s.requests := rfl
@[simp] theorem State.updCmd_mgmt (id : CoreId) (p : EngClass) (n : Nat) (f : Inflight → Inflight) : (s.updCmd id p n f).mgmt = s.mgmt := rfl

/-! ### State.addCmd -/

@[simp] theorem State.addCmd_now (id : CoreId) (p : EngClass) (x : Inflight) : (s.addCmd id p x).now = s.now := rfl
@[simp] theorem State.addCmd_timeFine (id : CoreId) (p : EngClass) (x : Inflight) : (s.addCmd id p x).timeFine = s.timeFine := rfl
@[simp] theorem State.addCmd_agenda (id : CoreId) (p : EngClass) (x : Inflight) : (s.addCmd id p x).agenda = s.agenda := rfl
@[simp] theorem State.addCmd_timers (id : CoreId) (p : EngClass) (x : Inflight) : (s.addCmd id p x).timers = s.timers := rfl
@[simp] theorem State.addCmd_inputs (id : CoreId) (p : EngClass) (x : Inflight) : (s.addCmd id p x).inputs = s.inputs := rfl
@[simp] theorem State.addCmd_fresh (id : CoreId) (p : EngClass) (x : Inflight) : (s.addCmd id p x).fresh = s.fresh := rfl
@[simp] theorem State.addCmd_nextId (id : CoreId) (p : EngClass) (x : Inflight) : (s.addCmd id p x).nextId = s.nextId := rfl
@[simp] theorem State.addCmd_launches (id : CoreId) (p : EngClass) (x : Inflight) : (s.addCmd id p x).launches = s.launches := rfl
@[simp] theorem State.addCmd_queues (id : CoreId) (p : EngClass) (x : Inflight) : (s.addCmd id p x).queues = s.queues := rfl
@[simp] theorem State.addCmd_slots (id : CoreId) (p : EngClass) (x : Inflight) : (s.addCmd id p x).slots = s.slots := rfl
@[simp] theorem State.addCmd_phys (id : CoreId) (p : EngClass) (x : Inflight) : (s.addCmd id p x).phys = s.phys := rfl
@[simp] theorem State.addCmd_ctxs (id : CoreId) (p : EngClass) (x : Inflight) : (s.addCmd id p x).ctxs = s.ctxs := rfl
@[simp] theorem State.addCmd_tlb (id : CoreId) (p : EngClass) (x : Inflight) : (s.addCmd id p x).tlb = s.tlb := rfl
@[simp] theorem State.addCmd_walks (id : CoreId) (p : EngClass) (x : Inflight) : (s.addCmd id p x).walks = s.walks := rfl
@[simp] theorem State.addCmd_hbm (id : CoreId) (p : EngClass) (x : Inflight) : (s.addCmd id p x).hbm = s.hbm := rfl
@[simp] theorem State.addCmd_poison (id : CoreId) (p : EngClass) (x : Inflight) : (s.addCmd id p x).poison = s.poison := rfl
@[simp] theorem State.addCmd_evsets (id : CoreId) (p : EngClass) (x : Inflight) : (s.addCmd id p x).evsets = s.evsets := rfl
@[simp] theorem State.addCmd_packets (id : CoreId) (p : EngClass) (x : Inflight) : (s.addCmd id p x).packets = s.packets := rfl
@[simp] theorem State.addCmd_tlines (id : CoreId) (p : EngClass) (x : Inflight) : (s.addCmd id p x).tlines = s.tlines := rfl
@[simp] theorem State.addCmd_carried (id : CoreId) (p : EngClass) (x : Inflight) : (s.addCmd id p x).carried = s.carried := rfl
@[simp] theorem State.addCmd_delivs (id : CoreId) (p : EngClass) (x : Inflight) : (s.addCmd id p x).delivs = s.delivs := rfl
@[simp] theorem State.addCmd_accs (id : CoreId) (p : EngClass) (x : Inflight) : (s.addCmd id p x).accs = s.accs := rfl
@[simp] theorem State.addCmd_ctxWrites (id : CoreId) (p : EngClass) (x : Inflight) : (s.addCmd id p x).ctxWrites = s.ctxWrites := rfl
@[simp] theorem State.addCmd_dynUse (id : CoreId) (p : EngClass) (x : Inflight) : (s.addCmd id p x).dynUse = s.dynUse := rfl
@[simp] theorem State.addCmd_tours (id : CoreId) (p : EngClass) (x : Inflight) : (s.addCmd id p x).tours = s.tours := rfl
@[simp] theorem State.addCmd_saved (id : CoreId) (p : EngClass) (x : Inflight) : (s.addCmd id p x).saved = s.saved := rfl
@[simp] theorem State.addCmd_hostReads (id : CoreId) (p : EngClass) (x : Inflight) : (s.addCmd id p x).hostReads = s.hostReads := rfl
@[simp] theorem State.addCmd_interrupts (id : CoreId) (p : EngClass) (x : Inflight) : (s.addCmd id p x).interrupts = s.interrupts := rfl
@[simp] theorem State.addCmd_peerWrites (id : CoreId) (p : EngClass) (x : Inflight) : (s.addCmd id p x).peerWrites = s.peerWrites := rfl
@[simp] theorem State.addCmd_completions (id : CoreId) (p : EngClass) (x : Inflight) : (s.addCmd id p x).completions = s.completions := rfl
@[simp] theorem State.addCmd_peerReplies (id : CoreId) (p : EngClass) (x : Inflight) : (s.addCmd id p x).peerReplies = s.peerReplies := rfl
@[simp] theorem State.addCmd_requests (id : CoreId) (p : EngClass) (x : Inflight) : (s.addCmd id p x).requests = s.requests := rfl
@[simp] theorem State.addCmd_mgmt (id : CoreId) (p : EngClass) (x : Inflight) : (s.addCmd id p x).mgmt = s.mgmt := rfl

/-! ### State.updLaunch -/

@[simp] theorem State.updLaunch_core (h : Nat) (f : Launch → Launch) : (s.updLaunch h f).core = s.core := rfl
@[simp] theorem State.updLaunch_others (h : Nat) (f : Launch → Launch) : (s.updLaunch h f).others = s.others := rfl
@[simp] theorem State.updLaunch_now (h : Nat) (f : Launch → Launch) : (s.updLaunch h f).now = s.now := rfl
@[simp] theorem State.updLaunch_timeFine (h : Nat) (f : Launch → Launch) : (s.updLaunch h f).timeFine = s.timeFine := rfl
@[simp] theorem State.updLaunch_agenda (h : Nat) (f : Launch → Launch) : (s.updLaunch h f).agenda = s.agenda := rfl
@[simp] theorem State.updLaunch_timers (h : Nat) (f : Launch → Launch) : (s.updLaunch h f).timers = s.timers := rfl
@[simp] theorem State.updLaunch_inputs (h : Nat) (f : Launch → Launch) : (s.updLaunch h f).inputs = s.inputs := rfl
@[simp] theorem State.updLaunch_fresh (h : Nat) (f : Launch → Launch) : (s.updLaunch h f).fresh = s.fresh := rfl
@[simp] theorem State.updLaunch_nextId (h : Nat) (f : Launch → Launch) : (s.updLaunch h f).nextId = s.nextId := rfl
@[simp] theorem State.updLaunch_queues (h : Nat) (f : Launch → Launch) : (s.updLaunch h f).queues = s.queues := rfl
@[simp] theorem State.updLaunch_slots (h : Nat) (f : Launch → Launch) : (s.updLaunch h f).slots = s.slots := rfl
@[simp] theorem State.updLaunch_phys (h : Nat) (f : Launch → Launch) : (s.updLaunch h f).phys = s.phys := rfl
@[simp] theorem State.updLaunch_ctxs (h : Nat) (f : Launch → Launch) : (s.updLaunch h f).ctxs = s.ctxs := rfl
@[simp] theorem State.updLaunch_tlb (h : Nat) (f : Launch → Launch) : (s.updLaunch h f).tlb = s.tlb := rfl
@[simp] theorem State.updLaunch_walks (h : Nat) (f : Launch → Launch) : (s.updLaunch h f).walks = s.walks := rfl
@[simp] theorem State.updLaunch_hbm (h : Nat) (f : Launch → Launch) : (s.updLaunch h f).hbm = s.hbm := rfl
@[simp] theorem State.updLaunch_poison (h : Nat) (f : Launch → Launch) : (s.updLaunch h f).poison = s.poison := rfl
@[simp] theorem State.updLaunch_evsets (h : Nat) (f : Launch → Launch) : (s.updLaunch h f).evsets = s.evsets := rfl
@[simp] theorem State.updLaunch_packets (h : Nat) (f : Launch → Launch) : (s.updLaunch h f).packets = s.packets := rfl
@[simp] theorem State.updLaunch_tlines (h : Nat) (f : Launch → Launch) : (s.updLaunch h f).tlines = s.tlines := rfl
@[simp] theorem State.updLaunch_carried (h : Nat) (f : Launch → Launch) : (s.updLaunch h f).carried = s.carried := rfl
@[simp] theorem State.updLaunch_delivs (h : Nat) (f : Launch → Launch) : (s.updLaunch h f).delivs = s.delivs := rfl
@[simp] theorem State.updLaunch_accs (h : Nat) (f : Launch → Launch) : (s.updLaunch h f).accs = s.accs := rfl
@[simp] theorem State.updLaunch_ctxWrites (h : Nat) (f : Launch → Launch) : (s.updLaunch h f).ctxWrites = s.ctxWrites := rfl
@[simp] theorem State.updLaunch_dynUse (h : Nat) (f : Launch → Launch) : (s.updLaunch h f).dynUse = s.dynUse := rfl
@[simp] theorem State.updLaunch_tours (h : Nat) (f : Launch → Launch) : (s.updLaunch h f).tours = s.tours := rfl
@[simp] theorem State.updLaunch_saved (h : Nat) (f : Launch → Launch) : (s.updLaunch h f).saved = s.saved := rfl
@[simp] theorem State.updLaunch_hostReads (h : Nat) (f : Launch → Launch) : (s.updLaunch h f).hostReads = s.hostReads := rfl
@[simp] theorem State.updLaunch_interrupts (h : Nat) (f : Launch → Launch) : (s.updLaunch h f).interrupts = s.interrupts := rfl
@[simp] theorem State.updLaunch_peerWrites (h : Nat) (f : Launch → Launch) : (s.updLaunch h f).peerWrites = s.peerWrites := rfl
@[simp] theorem State.updLaunch_completions (h : Nat) (f : Launch → Launch) : (s.updLaunch h f).completions = s.completions := rfl
@[simp] theorem State.updLaunch_peerReplies (h : Nat) (f : Launch → Launch) : (s.updLaunch h f).peerReplies = s.peerReplies := rfl
@[simp] theorem State.updLaunch_requests (h : Nat) (f : Launch → Launch) : (s.updLaunch h f).requests = s.requests := rfl
@[simp] theorem State.updLaunch_mgmt (h : Nat) (f : Launch → Launch) : (s.updLaunch h f).mgmt = s.mgmt := rfl

/-! ### State.updCtx -/

@[simp] theorem State.updCtx_core (n : Nat) (f : Ctx → Ctx) : (s.updCtx n f).core = s.core := rfl
@[simp] theorem State.updCtx_others (n : Nat) (f : Ctx → Ctx) : (s.updCtx n f).others = s.others := rfl
@[simp] theorem State.updCtx_now (n : Nat) (f : Ctx → Ctx) : (s.updCtx n f).now = s.now := rfl
@[simp] theorem State.updCtx_timeFine (n : Nat) (f : Ctx → Ctx) : (s.updCtx n f).timeFine = s.timeFine := rfl
@[simp] theorem State.updCtx_agenda (n : Nat) (f : Ctx → Ctx) : (s.updCtx n f).agenda = s.agenda := rfl
@[simp] theorem State.updCtx_timers (n : Nat) (f : Ctx → Ctx) : (s.updCtx n f).timers = s.timers := rfl
@[simp] theorem State.updCtx_inputs (n : Nat) (f : Ctx → Ctx) : (s.updCtx n f).inputs = s.inputs := rfl
@[simp] theorem State.updCtx_fresh (n : Nat) (f : Ctx → Ctx) : (s.updCtx n f).fresh = s.fresh := rfl
@[simp] theorem State.updCtx_nextId (n : Nat) (f : Ctx → Ctx) : (s.updCtx n f).nextId = s.nextId := rfl
@[simp] theorem State.updCtx_launches (n : Nat) (f : Ctx → Ctx) : (s.updCtx n f).launches = s.launches := rfl
@[simp] theorem State.updCtx_queues (n : Nat) (f : Ctx → Ctx) : (s.updCtx n f).queues = s.queues := rfl
@[simp] theorem State.updCtx_slots (n : Nat) (f : Ctx → Ctx) : (s.updCtx n f).slots = s.slots := rfl
@[simp] theorem State.updCtx_phys (n : Nat) (f : Ctx → Ctx) : (s.updCtx n f).phys = s.phys := rfl
@[simp] theorem State.updCtx_tlb (n : Nat) (f : Ctx → Ctx) : (s.updCtx n f).tlb = s.tlb := rfl
@[simp] theorem State.updCtx_walks (n : Nat) (f : Ctx → Ctx) : (s.updCtx n f).walks = s.walks := rfl
@[simp] theorem State.updCtx_hbm (n : Nat) (f : Ctx → Ctx) : (s.updCtx n f).hbm = s.hbm := rfl
@[simp] theorem State.updCtx_poison (n : Nat) (f : Ctx → Ctx) : (s.updCtx n f).poison = s.poison := rfl
@[simp] theorem State.updCtx_evsets (n : Nat) (f : Ctx → Ctx) : (s.updCtx n f).evsets = s.evsets := rfl
@[simp] theorem State.updCtx_packets (n : Nat) (f : Ctx → Ctx) : (s.updCtx n f).packets = s.packets := rfl
@[simp] theorem State.updCtx_tlines (n : Nat) (f : Ctx → Ctx) : (s.updCtx n f).tlines = s.tlines := rfl
@[simp] theorem State.updCtx_carried (n : Nat) (f : Ctx → Ctx) : (s.updCtx n f).carried = s.carried := rfl
@[simp] theorem State.updCtx_delivs (n : Nat) (f : Ctx → Ctx) : (s.updCtx n f).delivs = s.delivs := rfl
@[simp] theorem State.updCtx_accs (n : Nat) (f : Ctx → Ctx) : (s.updCtx n f).accs = s.accs := rfl
@[simp] theorem State.updCtx_ctxWrites (n : Nat) (f : Ctx → Ctx) : (s.updCtx n f).ctxWrites = s.ctxWrites := rfl
@[simp] theorem State.updCtx_dynUse (n : Nat) (f : Ctx → Ctx) : (s.updCtx n f).dynUse = s.dynUse := rfl
@[simp] theorem State.updCtx_tours (n : Nat) (f : Ctx → Ctx) : (s.updCtx n f).tours = s.tours := rfl
@[simp] theorem State.updCtx_saved (n : Nat) (f : Ctx → Ctx) : (s.updCtx n f).saved = s.saved := rfl
@[simp] theorem State.updCtx_hostReads (n : Nat) (f : Ctx → Ctx) : (s.updCtx n f).hostReads = s.hostReads := rfl
@[simp] theorem State.updCtx_interrupts (n : Nat) (f : Ctx → Ctx) : (s.updCtx n f).interrupts = s.interrupts := rfl
@[simp] theorem State.updCtx_peerWrites (n : Nat) (f : Ctx → Ctx) : (s.updCtx n f).peerWrites = s.peerWrites := rfl
@[simp] theorem State.updCtx_completions (n : Nat) (f : Ctx → Ctx) : (s.updCtx n f).completions = s.completions := rfl
@[simp] theorem State.updCtx_peerReplies (n : Nat) (f : Ctx → Ctx) : (s.updCtx n f).peerReplies = s.peerReplies := rfl
@[simp] theorem State.updCtx_requests (n : Nat) (f : Ctx → Ctx) : (s.updCtx n f).requests = s.requests := rfl
@[simp] theorem State.updCtx_mgmt (n : Nat) (f : Ctx → Ctx) : (s.updCtx n f).mgmt = s.mgmt := rfl

/-! ### State.updQueue -/

@[simp] theorem State.updQueue_core (q : Nat) (f : LQueue → LQueue) : (s.updQueue q f).core = s.core := rfl
@[simp] theorem State.updQueue_others (q : Nat) (f : LQueue → LQueue) : (s.updQueue q f).others = s.others := rfl
@[simp] theorem State.updQueue_now (q : Nat) (f : LQueue → LQueue) : (s.updQueue q f).now = s.now := rfl
@[simp] theorem State.updQueue_timeFine (q : Nat) (f : LQueue → LQueue) : (s.updQueue q f).timeFine = s.timeFine := rfl
@[simp] theorem State.updQueue_agenda (q : Nat) (f : LQueue → LQueue) : (s.updQueue q f).agenda = s.agenda := rfl
@[simp] theorem State.updQueue_timers (q : Nat) (f : LQueue → LQueue) : (s.updQueue q f).timers = s.timers := rfl
@[simp] theorem State.updQueue_inputs (q : Nat) (f : LQueue → LQueue) : (s.updQueue q f).inputs = s.inputs := rfl
@[simp] theorem State.updQueue_fresh (q : Nat) (f : LQueue → LQueue) : (s.updQueue q f).fresh = s.fresh := rfl
@[simp] theorem State.updQueue_nextId (q : Nat) (f : LQueue → LQueue) : (s.updQueue q f).nextId = s.nextId := rfl
@[simp] theorem State.updQueue_launches (q : Nat) (f : LQueue → LQueue) : (s.updQueue q f).launches = s.launches := rfl
@[simp] theorem State.updQueue_slots (q : Nat) (f : LQueue → LQueue) : (s.updQueue q f).slots = s.slots := rfl
@[simp] theorem State.updQueue_phys (q : Nat) (f : LQueue → LQueue) : (s.updQueue q f).phys = s.phys := rfl
@[simp] theorem State.updQueue_ctxs (q : Nat) (f : LQueue → LQueue) : (s.updQueue q f).ctxs = s.ctxs := rfl
@[simp] theorem State.updQueue_tlb (q : Nat) (f : LQueue → LQueue) : (s.updQueue q f).tlb = s.tlb := rfl
@[simp] theorem State.updQueue_walks (q : Nat) (f : LQueue → LQueue) : (s.updQueue q f).walks = s.walks := rfl
@[simp] theorem State.updQueue_hbm (q : Nat) (f : LQueue → LQueue) : (s.updQueue q f).hbm = s.hbm := rfl
@[simp] theorem State.updQueue_poison (q : Nat) (f : LQueue → LQueue) : (s.updQueue q f).poison = s.poison := rfl
@[simp] theorem State.updQueue_evsets (q : Nat) (f : LQueue → LQueue) : (s.updQueue q f).evsets = s.evsets := rfl
@[simp] theorem State.updQueue_packets (q : Nat) (f : LQueue → LQueue) : (s.updQueue q f).packets = s.packets := rfl
@[simp] theorem State.updQueue_tlines (q : Nat) (f : LQueue → LQueue) : (s.updQueue q f).tlines = s.tlines := rfl
@[simp] theorem State.updQueue_carried (q : Nat) (f : LQueue → LQueue) : (s.updQueue q f).carried = s.carried := rfl
@[simp] theorem State.updQueue_delivs (q : Nat) (f : LQueue → LQueue) : (s.updQueue q f).delivs = s.delivs := rfl
@[simp] theorem State.updQueue_accs (q : Nat) (f : LQueue → LQueue) : (s.updQueue q f).accs = s.accs := rfl
@[simp] theorem State.updQueue_ctxWrites (q : Nat) (f : LQueue → LQueue) : (s.updQueue q f).ctxWrites = s.ctxWrites := rfl
@[simp] theorem State.updQueue_dynUse (q : Nat) (f : LQueue → LQueue) : (s.updQueue q f).dynUse = s.dynUse := rfl
@[simp] theorem State.updQueue_tours (q : Nat) (f : LQueue → LQueue) : (s.updQueue q f).tours = s.tours := rfl
@[simp] theorem State.updQueue_saved (q : Nat) (f : LQueue → LQueue) : (s.updQueue q f).saved = s.saved := rfl
@[simp] theorem State.updQueue_hostReads (q : Nat) (f : LQueue → LQueue) : (s.updQueue q f).hostReads = s.hostReads := rfl
@[simp] theorem State.updQueue_interrupts (q : Nat) (f : LQueue → LQueue) : (s.updQueue q f).interrupts = s.interrupts := rfl
@[simp] theorem State.updQueue_peerWrites (q : Nat) (f : LQueue → LQueue) : (s.updQueue q f).peerWrites = s.peerWrites := rfl
@[simp] theorem State.updQueue_completions (q : Nat) (f : LQueue → LQueue) : (s.updQueue q f).completions = s.completions := rfl
@[simp] theorem State.updQueue_peerReplies (q : Nat) (f : LQueue → LQueue) : (s.updQueue q f).peerReplies = s.peerReplies := rfl
@[simp] theorem State.updQueue_requests (q : Nat) (f : LQueue → LQueue) : (s.updQueue q f).requests = s.requests := rfl
@[simp] theorem State.updQueue_mgmt (q : Nat) (f : LQueue → LQueue) : (s.updQueue q f).mgmt = s.mgmt := rfl

/-! ### State.updSlot -/

@[simp] theorem State.updSlot_core (i : Nat) (f : SlotRec → SlotRec) : (s.updSlot i f).core = s.core := rfl
@[simp] theorem State.updSlot_others (i : Nat) (f : SlotRec → SlotRec) : (s.updSlot i f).others = s.others := rfl
@[simp] theorem State.updSlot_now (i : Nat) (f : SlotRec → SlotRec) : (s.updSlot i f).now = s.now := rfl
@[simp] theorem State.updSlot_timeFine (i : Nat) (f : SlotRec → SlotRec) : (s.updSlot i f).timeFine = s.timeFine := rfl
@[simp] theorem State.updSlot_agenda (i : Nat) (f : SlotRec → SlotRec) : (s.updSlot i f).agenda = s.agenda := rfl
@[simp] theorem State.updSlot_timers (i : Nat) (f : SlotRec → SlotRec) : (s.updSlot i f).timers = s.timers := rfl
@[simp] theorem State.updSlot_inputs (i : Nat) (f : SlotRec → SlotRec) : (s.updSlot i f).inputs = s.inputs := rfl
@[simp] theorem State.updSlot_fresh (i : Nat) (f : SlotRec → SlotRec) : (s.updSlot i f).fresh = s.fresh := rfl
@[simp] theorem State.updSlot_nextId (i : Nat) (f : SlotRec → SlotRec) : (s.updSlot i f).nextId = s.nextId := rfl
@[simp] theorem State.updSlot_launches (i : Nat) (f : SlotRec → SlotRec) : (s.updSlot i f).launches = s.launches := rfl
@[simp] theorem State.updSlot_queues (i : Nat) (f : SlotRec → SlotRec) : (s.updSlot i f).queues = s.queues := rfl
@[simp] theorem State.updSlot_phys (i : Nat) (f : SlotRec → SlotRec) : (s.updSlot i f).phys = s.phys := rfl
@[simp] theorem State.updSlot_ctxs (i : Nat) (f : SlotRec → SlotRec) : (s.updSlot i f).ctxs = s.ctxs := rfl
@[simp] theorem State.updSlot_tlb (i : Nat) (f : SlotRec → SlotRec) : (s.updSlot i f).tlb = s.tlb := rfl
@[simp] theorem State.updSlot_walks (i : Nat) (f : SlotRec → SlotRec) : (s.updSlot i f).walks = s.walks := rfl
@[simp] theorem State.updSlot_hbm (i : Nat) (f : SlotRec → SlotRec) : (s.updSlot i f).hbm = s.hbm := rfl
@[simp] theorem State.updSlot_poison (i : Nat) (f : SlotRec → SlotRec) : (s.updSlot i f).poison = s.poison := rfl
@[simp] theorem State.updSlot_evsets (i : Nat) (f : SlotRec → SlotRec) : (s.updSlot i f).evsets = s.evsets := rfl
@[simp] theorem State.updSlot_packets (i : Nat) (f : SlotRec → SlotRec) : (s.updSlot i f).packets = s.packets := rfl
@[simp] theorem State.updSlot_tlines (i : Nat) (f : SlotRec → SlotRec) : (s.updSlot i f).tlines = s.tlines := rfl
@[simp] theorem State.updSlot_carried (i : Nat) (f : SlotRec → SlotRec) : (s.updSlot i f).carried = s.carried := rfl
@[simp] theorem State.updSlot_delivs (i : Nat) (f : SlotRec → SlotRec) : (s.updSlot i f).delivs = s.delivs := rfl
@[simp] theorem State.updSlot_accs (i : Nat) (f : SlotRec → SlotRec) : (s.updSlot i f).accs = s.accs := rfl
@[simp] theorem State.updSlot_ctxWrites (i : Nat) (f : SlotRec → SlotRec) : (s.updSlot i f).ctxWrites = s.ctxWrites := rfl
@[simp] theorem State.updSlot_dynUse (i : Nat) (f : SlotRec → SlotRec) : (s.updSlot i f).dynUse = s.dynUse := rfl
@[simp] theorem State.updSlot_tours (i : Nat) (f : SlotRec → SlotRec) : (s.updSlot i f).tours = s.tours := rfl
@[simp] theorem State.updSlot_saved (i : Nat) (f : SlotRec → SlotRec) : (s.updSlot i f).saved = s.saved := rfl
@[simp] theorem State.updSlot_hostReads (i : Nat) (f : SlotRec → SlotRec) : (s.updSlot i f).hostReads = s.hostReads := rfl
@[simp] theorem State.updSlot_interrupts (i : Nat) (f : SlotRec → SlotRec) : (s.updSlot i f).interrupts = s.interrupts := rfl
@[simp] theorem State.updSlot_peerWrites (i : Nat) (f : SlotRec → SlotRec) : (s.updSlot i f).peerWrites = s.peerWrites := rfl
@[simp] theorem State.updSlot_completions (i : Nat) (f : SlotRec → SlotRec) : (s.updSlot i f).completions = s.completions := rfl
@[simp] theorem State.updSlot_peerReplies (i : Nat) (f : SlotRec → SlotRec) : (s.updSlot i f).peerReplies = s.peerReplies := rfl
@[simp] theorem State.updSlot_requests (i : Nat) (f : SlotRec → SlotRec) : (s.updSlot i f).requests = s.requests := rfl
@[simp] theorem State.updSlot_mgmt (i : Nat) (f : SlotRec → SlotRec) : (s.updSlot i f).mgmt = s.mgmt := rfl

/-! ### State.updEv -/

@[simp] theorem State.updEv_core (cluster ctx : Nat) (f : EvSet → EvSet) : (s.updEv cluster ctx f).core = s.core := rfl
@[simp] theorem State.updEv_others (cluster ctx : Nat) (f : EvSet → EvSet) : (s.updEv cluster ctx f).others = s.others := rfl
@[simp] theorem State.updEv_now (cluster ctx : Nat) (f : EvSet → EvSet) : (s.updEv cluster ctx f).now = s.now := rfl
@[simp] theorem State.updEv_timeFine (cluster ctx : Nat) (f : EvSet → EvSet) : (s.updEv cluster ctx f).timeFine = s.timeFine := rfl
@[simp] theorem State.updEv_agenda (cluster ctx : Nat) (f : EvSet → EvSet) : (s.updEv cluster ctx f).agenda = s.agenda := rfl
@[simp] theorem State.updEv_timers (cluster ctx : Nat) (f : EvSet → EvSet) : (s.updEv cluster ctx f).timers = s.timers := rfl
@[simp] theorem State.updEv_inputs (cluster ctx : Nat) (f : EvSet → EvSet) : (s.updEv cluster ctx f).inputs = s.inputs := rfl
@[simp] theorem State.updEv_fresh (cluster ctx : Nat) (f : EvSet → EvSet) : (s.updEv cluster ctx f).fresh = s.fresh := rfl
@[simp] theorem State.updEv_nextId (cluster ctx : Nat) (f : EvSet → EvSet) : (s.updEv cluster ctx f).nextId = s.nextId := rfl
@[simp] theorem State.updEv_launches (cluster ctx : Nat) (f : EvSet → EvSet) : (s.updEv cluster ctx f).launches = s.launches := rfl
@[simp] theorem State.updEv_queues (cluster ctx : Nat) (f : EvSet → EvSet) : (s.updEv cluster ctx f).queues = s.queues := rfl
@[simp] theorem State.updEv_slots (cluster ctx : Nat) (f : EvSet → EvSet) : (s.updEv cluster ctx f).slots = s.slots := rfl
@[simp] theorem State.updEv_phys (cluster ctx : Nat) (f : EvSet → EvSet) : (s.updEv cluster ctx f).phys = s.phys := rfl
@[simp] theorem State.updEv_ctxs (cluster ctx : Nat) (f : EvSet → EvSet) : (s.updEv cluster ctx f).ctxs = s.ctxs := rfl
@[simp] theorem State.updEv_tlb (cluster ctx : Nat) (f : EvSet → EvSet) : (s.updEv cluster ctx f).tlb = s.tlb := rfl
@[simp] theorem State.updEv_walks (cluster ctx : Nat) (f : EvSet → EvSet) : (s.updEv cluster ctx f).walks = s.walks := rfl
@[simp] theorem State.updEv_hbm (cluster ctx : Nat) (f : EvSet → EvSet) : (s.updEv cluster ctx f).hbm = s.hbm := rfl
@[simp] theorem State.updEv_poison (cluster ctx : Nat) (f : EvSet → EvSet) : (s.updEv cluster ctx f).poison = s.poison := rfl
@[simp] theorem State.updEv_packets (cluster ctx : Nat) (f : EvSet → EvSet) : (s.updEv cluster ctx f).packets = s.packets := rfl
@[simp] theorem State.updEv_tlines (cluster ctx : Nat) (f : EvSet → EvSet) : (s.updEv cluster ctx f).tlines = s.tlines := rfl
@[simp] theorem State.updEv_carried (cluster ctx : Nat) (f : EvSet → EvSet) : (s.updEv cluster ctx f).carried = s.carried := rfl
@[simp] theorem State.updEv_delivs (cluster ctx : Nat) (f : EvSet → EvSet) : (s.updEv cluster ctx f).delivs = s.delivs := rfl
@[simp] theorem State.updEv_accs (cluster ctx : Nat) (f : EvSet → EvSet) : (s.updEv cluster ctx f).accs = s.accs := rfl
@[simp] theorem State.updEv_ctxWrites (cluster ctx : Nat) (f : EvSet → EvSet) : (s.updEv cluster ctx f).ctxWrites = s.ctxWrites := rfl
@[simp] theorem State.updEv_dynUse (cluster ctx : Nat) (f : EvSet → EvSet) : (s.updEv cluster ctx f).dynUse = s.dynUse := rfl
@[simp] theorem State.updEv_tours (cluster ctx : Nat) (f : EvSet → EvSet) : (s.updEv cluster ctx f).tours = s.tours := rfl
@[simp] theorem State.updEv_saved (cluster ctx : Nat) (f : EvSet → EvSet) : (s.updEv cluster ctx f).saved = s.saved := rfl
@[simp] theorem State.updEv_hostReads (cluster ctx : Nat) (f : EvSet → EvSet) : (s.updEv cluster ctx f).hostReads = s.hostReads := rfl
@[simp] theorem State.updEv_interrupts (cluster ctx : Nat) (f : EvSet → EvSet) : (s.updEv cluster ctx f).interrupts = s.interrupts := rfl
@[simp] theorem State.updEv_peerWrites (cluster ctx : Nat) (f : EvSet → EvSet) : (s.updEv cluster ctx f).peerWrites = s.peerWrites := rfl
@[simp] theorem State.updEv_completions (cluster ctx : Nat) (f : EvSet → EvSet) : (s.updEv cluster ctx f).completions = s.completions := rfl
@[simp] theorem State.updEv_peerReplies (cluster ctx : Nat) (f : EvSet → EvSet) : (s.updEv cluster ctx f).peerReplies = s.peerReplies := rfl
@[simp] theorem State.updEv_requests (cluster ctx : Nat) (f : EvSet → EvSet) : (s.updEv cluster ctx f).requests = s.requests := rfl
@[simp] theorem State.updEv_mgmt (cluster ctx : Nat) (f : EvSet → EvSet) : (s.updEv cluster ctx f).mgmt = s.mgmt := rfl

/-! ### State.updTour -/

@[simp] theorem State.updTour_core (n : Nat) (f : Tour → Tour) : (s.updTour n f).core = s.core := rfl
@[simp] theorem State.updTour_others (n : Nat) (f : Tour → Tour) : (s.updTour n f).others = s.others := rfl
@[simp] theorem State.updTour_now (n : Nat) (f : Tour → Tour) : (s.updTour n f).now = s.now := rfl
@[simp] theorem State.updTour_timeFine (n : Nat) (f : Tour → Tour) : (s.updTour n f).timeFine = s.timeFine := rfl
@[simp] theorem State.updTour_agenda (n : Nat) (f : Tour → Tour) : (s.updTour n f).agenda = s.agenda := rfl
@[simp] theorem State.updTour_timers (n : Nat) (f : Tour → Tour) : (s.updTour n f).timers = s.timers := rfl
@[simp] theorem State.updTour_inputs (n : Nat) (f : Tour → Tour) : (s.updTour n f).inputs = s.inputs := rfl
@[simp] theorem State.updTour_fresh (n : Nat) (f : Tour → Tour) : (s.updTour n f).fresh = s.fresh := rfl
@[simp] theorem State.updTour_nextId (n : Nat) (f : Tour → Tour) : (s.updTour n f).nextId = s.nextId := rfl
@[simp] theorem State.updTour_launches (n : Nat) (f : Tour → Tour) : (s.updTour n f).launches = s.launches := rfl
@[simp] theorem State.updTour_queues (n : Nat) (f : Tour → Tour) : (s.updTour n f).queues = s.queues := rfl
@[simp] theorem State.updTour_slots (n : Nat) (f : Tour → Tour) : (s.updTour n f).slots = s.slots := rfl
@[simp] theorem State.updTour_phys (n : Nat) (f : Tour → Tour) : (s.updTour n f).phys = s.phys := rfl
@[simp] theorem State.updTour_ctxs (n : Nat) (f : Tour → Tour) : (s.updTour n f).ctxs = s.ctxs := rfl
@[simp] theorem State.updTour_tlb (n : Nat) (f : Tour → Tour) : (s.updTour n f).tlb = s.tlb := rfl
@[simp] theorem State.updTour_walks (n : Nat) (f : Tour → Tour) : (s.updTour n f).walks = s.walks := rfl
@[simp] theorem State.updTour_hbm (n : Nat) (f : Tour → Tour) : (s.updTour n f).hbm = s.hbm := rfl
@[simp] theorem State.updTour_poison (n : Nat) (f : Tour → Tour) : (s.updTour n f).poison = s.poison := rfl
@[simp] theorem State.updTour_evsets (n : Nat) (f : Tour → Tour) : (s.updTour n f).evsets = s.evsets := rfl
@[simp] theorem State.updTour_packets (n : Nat) (f : Tour → Tour) : (s.updTour n f).packets = s.packets := rfl
@[simp] theorem State.updTour_tlines (n : Nat) (f : Tour → Tour) : (s.updTour n f).tlines = s.tlines := rfl
@[simp] theorem State.updTour_carried (n : Nat) (f : Tour → Tour) : (s.updTour n f).carried = s.carried := rfl
@[simp] theorem State.updTour_delivs (n : Nat) (f : Tour → Tour) : (s.updTour n f).delivs = s.delivs := rfl
@[simp] theorem State.updTour_accs (n : Nat) (f : Tour → Tour) : (s.updTour n f).accs = s.accs := rfl
@[simp] theorem State.updTour_ctxWrites (n : Nat) (f : Tour → Tour) : (s.updTour n f).ctxWrites = s.ctxWrites := rfl
@[simp] theorem State.updTour_dynUse (n : Nat) (f : Tour → Tour) : (s.updTour n f).dynUse = s.dynUse := rfl
@[simp] theorem State.updTour_saved (n : Nat) (f : Tour → Tour) : (s.updTour n f).saved = s.saved := rfl
@[simp] theorem State.updTour_hostReads (n : Nat) (f : Tour → Tour) : (s.updTour n f).hostReads = s.hostReads := rfl
@[simp] theorem State.updTour_interrupts (n : Nat) (f : Tour → Tour) : (s.updTour n f).interrupts = s.interrupts := rfl
@[simp] theorem State.updTour_peerWrites (n : Nat) (f : Tour → Tour) : (s.updTour n f).peerWrites = s.peerWrites := rfl
@[simp] theorem State.updTour_completions (n : Nat) (f : Tour → Tour) : (s.updTour n f).completions = s.completions := rfl
@[simp] theorem State.updTour_peerReplies (n : Nat) (f : Tour → Tour) : (s.updTour n f).peerReplies = s.peerReplies := rfl
@[simp] theorem State.updTour_requests (n : Nat) (f : Tour → Tour) : (s.updTour n f).requests = s.requests := rfl
@[simp] theorem State.updTour_mgmt (n : Nat) (f : Tour → Tour) : (s.updTour n f).mgmt = s.mgmt := rfl

/-! ### State.updDeliv -/

@[simp] theorem State.updDeliv_core (n : Nat) (f : Delivery → Delivery) : (s.updDeliv n f).core = s.core := rfl
@[simp] theorem State.updDeliv_others (n : Nat) (f : Delivery → Delivery) : (s.updDeliv n f).others = s.others := rfl
@[simp] theorem State.updDeliv_now (n : Nat) (f : Delivery → Delivery) : (s.updDeliv n f).now = s.now := rfl
@[simp] theorem State.updDeliv_timeFine (n : Nat) (f : Delivery → Delivery) : (s.updDeliv n f).timeFine = s.timeFine := rfl
@[simp] theorem State.updDeliv_agenda (n : Nat) (f : Delivery → Delivery) : (s.updDeliv n f).agenda = s.agenda := rfl
@[simp] theorem State.updDeliv_timers (n : Nat) (f : Delivery → Delivery) : (s.updDeliv n f).timers = s.timers := rfl
@[simp] theorem State.updDeliv_inputs (n : Nat) (f : Delivery → Delivery) : (s.updDeliv n f).inputs = s.inputs := rfl
@[simp] theorem State.updDeliv_fresh (n : Nat) (f : Delivery → Delivery) : (s.updDeliv n f).fresh = s.fresh := rfl
@[simp] theorem State.updDeliv_nextId (n : Nat) (f : Delivery → Delivery) : (s.updDeliv n f).nextId = s.nextId := rfl
@[simp] theorem State.updDeliv_launches (n : Nat) (f : Delivery → Delivery) : (s.updDeliv n f).launches = s.launches := rfl
@[simp] theorem State.updDeliv_queues (n : Nat) (f : Delivery → Delivery) : (s.updDeliv n f).queues = s.queues := rfl
@[simp] theorem State.updDeliv_slots (n : Nat) (f : Delivery → Delivery) : (s.updDeliv n f).slots = s.slots := rfl
@[simp] theorem State.updDeliv_phys (n : Nat) (f : Delivery → Delivery) : (s.updDeliv n f).phys = s.phys := rfl
@[simp] theorem State.updDeliv_ctxs (n : Nat) (f : Delivery → Delivery) : (s.updDeliv n f).ctxs = s.ctxs := rfl
@[simp] theorem State.updDeliv_tlb (n : Nat) (f : Delivery → Delivery) : (s.updDeliv n f).tlb = s.tlb := rfl
@[simp] theorem State.updDeliv_walks (n : Nat) (f : Delivery → Delivery) : (s.updDeliv n f).walks = s.walks := rfl
@[simp] theorem State.updDeliv_hbm (n : Nat) (f : Delivery → Delivery) : (s.updDeliv n f).hbm = s.hbm := rfl
@[simp] theorem State.updDeliv_poison (n : Nat) (f : Delivery → Delivery) : (s.updDeliv n f).poison = s.poison := rfl
@[simp] theorem State.updDeliv_evsets (n : Nat) (f : Delivery → Delivery) : (s.updDeliv n f).evsets = s.evsets := rfl
@[simp] theorem State.updDeliv_packets (n : Nat) (f : Delivery → Delivery) : (s.updDeliv n f).packets = s.packets := rfl
@[simp] theorem State.updDeliv_tlines (n : Nat) (f : Delivery → Delivery) : (s.updDeliv n f).tlines = s.tlines := rfl
@[simp] theorem State.updDeliv_carried (n : Nat) (f : Delivery → Delivery) : (s.updDeliv n f).carried = s.carried := rfl
@[simp] theorem State.updDeliv_accs (n : Nat) (f : Delivery → Delivery) : (s.updDeliv n f).accs = s.accs := rfl
@[simp] theorem State.updDeliv_ctxWrites (n : Nat) (f : Delivery → Delivery) : (s.updDeliv n f).ctxWrites = s.ctxWrites := rfl
@[simp] theorem State.updDeliv_dynUse (n : Nat) (f : Delivery → Delivery) : (s.updDeliv n f).dynUse = s.dynUse := rfl
@[simp] theorem State.updDeliv_tours (n : Nat) (f : Delivery → Delivery) : (s.updDeliv n f).tours = s.tours := rfl
@[simp] theorem State.updDeliv_saved (n : Nat) (f : Delivery → Delivery) : (s.updDeliv n f).saved = s.saved := rfl
@[simp] theorem State.updDeliv_hostReads (n : Nat) (f : Delivery → Delivery) : (s.updDeliv n f).hostReads = s.hostReads := rfl
@[simp] theorem State.updDeliv_interrupts (n : Nat) (f : Delivery → Delivery) : (s.updDeliv n f).interrupts = s.interrupts := rfl
@[simp] theorem State.updDeliv_peerWrites (n : Nat) (f : Delivery → Delivery) : (s.updDeliv n f).peerWrites = s.peerWrites := rfl
@[simp] theorem State.updDeliv_completions (n : Nat) (f : Delivery → Delivery) : (s.updDeliv n f).completions = s.completions := rfl
@[simp] theorem State.updDeliv_peerReplies (n : Nat) (f : Delivery → Delivery) : (s.updDeliv n f).peerReplies = s.peerReplies := rfl
@[simp] theorem State.updDeliv_requests (n : Nat) (f : Delivery → Delivery) : (s.updDeliv n f).requests = s.requests := rfl
@[simp] theorem State.updDeliv_mgmt (n : Nat) (f : Delivery → Delivery) : (s.updDeliv n f).mgmt = s.mgmt := rfl

/-! ### State.dropDeliv -/

@[simp] theorem State.dropDeliv_core (n : Nat) : (s.dropDeliv n).core = s.core := rfl
@[simp] theorem State.dropDeliv_others (n : Nat) : (s.dropDeliv n).others = s.others := rfl
@[simp] theorem State.dropDeliv_now (n : Nat) : (s.dropDeliv n).now = s.now := rfl
@[simp] theorem State.dropDeliv_timeFine (n : Nat) : (s.dropDeliv n).timeFine = s.timeFine := rfl
@[simp] theorem State.dropDeliv_agenda (n : Nat) : (s.dropDeliv n).agenda = s.agenda := rfl
@[simp] theorem State.dropDeliv_timers (n : Nat) : (s.dropDeliv n).timers = s.timers := rfl
@[simp] theorem State.dropDeliv_inputs (n : Nat) : (s.dropDeliv n).inputs = s.inputs := rfl
@[simp] theorem State.dropDeliv_fresh (n : Nat) : (s.dropDeliv n).fresh = s.fresh := rfl
@[simp] theorem State.dropDeliv_nextId (n : Nat) : (s.dropDeliv n).nextId = s.nextId := rfl
@[simp] theorem State.dropDeliv_launches (n : Nat) : (s.dropDeliv n).launches = s.launches := rfl
@[simp] theorem State.dropDeliv_queues (n : Nat) : (s.dropDeliv n).queues = s.queues := rfl
@[simp] theorem State.dropDeliv_slots (n : Nat) : (s.dropDeliv n).slots = s.slots := rfl
@[simp] theorem State.dropDeliv_phys (n : Nat) : (s.dropDeliv n).phys = s.phys := rfl
@[simp] theorem State.dropDeliv_ctxs (n : Nat) : (s.dropDeliv n).ctxs = s.ctxs := rfl
@[simp] theorem State.dropDeliv_tlb (n : Nat) : (s.dropDeliv n).tlb = s.tlb := rfl
@[simp] theorem State.dropDeliv_walks (n : Nat) : (s.dropDeliv n).walks = s.walks := rfl
@[simp] theorem State.dropDeliv_hbm (n : Nat) : (s.dropDeliv n).hbm = s.hbm := rfl
@[simp] theorem State.dropDeliv_poison (n : Nat) : (s.dropDeliv n).poison = s.poison := rfl
@[simp] theorem State.dropDeliv_evsets (n : Nat) : (s.dropDeliv n).evsets = s.evsets := rfl
@[simp] theorem State.dropDeliv_packets (n : Nat) : (s.dropDeliv n).packets = s.packets := rfl
@[simp] theorem State.dropDeliv_tlines (n : Nat) : (s.dropDeliv n).tlines = s.tlines := rfl
@[simp] theorem State.dropDeliv_carried (n : Nat) : (s.dropDeliv n).carried = s.carried := rfl
@[simp] theorem State.dropDeliv_accs (n : Nat) : (s.dropDeliv n).accs = s.accs := rfl
@[simp] theorem State.dropDeliv_ctxWrites (n : Nat) : (s.dropDeliv n).ctxWrites = s.ctxWrites := rfl
@[simp] theorem State.dropDeliv_dynUse (n : Nat) : (s.dropDeliv n).dynUse = s.dynUse := rfl
@[simp] theorem State.dropDeliv_tours (n : Nat) : (s.dropDeliv n).tours = s.tours := rfl
@[simp] theorem State.dropDeliv_saved (n : Nat) : (s.dropDeliv n).saved = s.saved := rfl
@[simp] theorem State.dropDeliv_hostReads (n : Nat) : (s.dropDeliv n).hostReads = s.hostReads := rfl
@[simp] theorem State.dropDeliv_interrupts (n : Nat) : (s.dropDeliv n).interrupts = s.interrupts := rfl
@[simp] theorem State.dropDeliv_peerWrites (n : Nat) : (s.dropDeliv n).peerWrites = s.peerWrites := rfl
@[simp] theorem State.dropDeliv_completions (n : Nat) : (s.dropDeliv n).completions = s.completions := rfl
@[simp] theorem State.dropDeliv_peerReplies (n : Nat) : (s.dropDeliv n).peerReplies = s.peerReplies := rfl
@[simp] theorem State.dropDeliv_requests (n : Nat) : (s.dropDeliv n).requests = s.requests := rfl
@[simp] theorem State.dropDeliv_mgmt (n : Nat) : (s.dropDeliv n).mgmt = s.mgmt := rfl

/-! ### State.sched -/

@[simp] theorem State.sched_core (at_ : Nat) (post : Bool) (ev : Instr) : (s.sched at_ post ev).core = s.core := rfl
@[simp] theorem State.sched_others (at_ : Nat) (post : Bool) (ev : Instr) : (s.sched at_ post ev).others = s.others := rfl
@[simp] theorem State.sched_now (at_ : Nat) (post : Bool) (ev : Instr) : (s.sched at_ post ev).now = s.now := rfl
@[simp] theorem State.sched_timeFine (at_ : Nat) (post : Bool) (ev : Instr) : (s.sched at_ post ev).timeFine = s.timeFine := rfl
@[simp] theorem State.sched_timers (at_ : Nat) (post : Bool) (ev : Instr) : (s.sched at_ post ev).timers = s.timers := rfl
@[simp] theorem State.sched_inputs (at_ : Nat) (post : Bool) (ev : Instr) : (s.sched at_ post ev).inputs = s.inputs := rfl
@[simp] theorem State.sched_fresh (at_ : Nat) (post : Bool) (ev : Instr) : (s.sched at_ post ev).fresh = s.fresh := rfl
@[simp] theorem State.sched_nextId (at_ : Nat) (post : Bool) (ev : Instr) : (s.sched at_ post ev).nextId = s.nextId := rfl
@[simp] theorem State.sched_launches (at_ : Nat) (post : Bool) (ev : Instr) : (s.sched at_ post ev).launches = s.launches := rfl
@[simp] theorem State.sched_queues (at_ : Nat) (post : Bool) (ev : Instr) : (s.sched at_ post ev).queues = s.queues := rfl
@[simp] theorem State.sched_slots (at_ : Nat) (post : Bool) (ev : Instr) : (s.sched at_ post ev).slots = s.slots := rfl
@[simp] theorem State.sched_phys (at_ : Nat) (post : Bool) (ev : Instr) : (s.sched at_ post ev).phys = s.phys := rfl
@[simp] theorem State.sched_ctxs (at_ : Nat) (post : Bool) (ev : Instr) : (s.sched at_ post ev).ctxs = s.ctxs := rfl
@[simp] theorem State.sched_tlb (at_ : Nat) (post : Bool) (ev : Instr) : (s.sched at_ post ev).tlb = s.tlb := rfl
@[simp] theorem State.sched_walks (at_ : Nat) (post : Bool) (ev : Instr) : (s.sched at_ post ev).walks = s.walks := rfl
@[simp] theorem State.sched_hbm (at_ : Nat) (post : Bool) (ev : Instr) : (s.sched at_ post ev).hbm = s.hbm := rfl
@[simp] theorem State.sched_poison (at_ : Nat) (post : Bool) (ev : Instr) : (s.sched at_ post ev).poison = s.poison := rfl
@[simp] theorem State.sched_evsets (at_ : Nat) (post : Bool) (ev : Instr) : (s.sched at_ post ev).evsets = s.evsets := rfl
@[simp] theorem State.sched_packets (at_ : Nat) (post : Bool) (ev : Instr) : (s.sched at_ post ev).packets = s.packets := rfl
@[simp] theorem State.sched_tlines (at_ : Nat) (post : Bool) (ev : Instr) : (s.sched at_ post ev).tlines = s.tlines := rfl
@[simp] theorem State.sched_carried (at_ : Nat) (post : Bool) (ev : Instr) : (s.sched at_ post ev).carried = s.carried := rfl
@[simp] theorem State.sched_delivs (at_ : Nat) (post : Bool) (ev : Instr) : (s.sched at_ post ev).delivs = s.delivs := rfl
@[simp] theorem State.sched_accs (at_ : Nat) (post : Bool) (ev : Instr) : (s.sched at_ post ev).accs = s.accs := rfl
@[simp] theorem State.sched_ctxWrites (at_ : Nat) (post : Bool) (ev : Instr) : (s.sched at_ post ev).ctxWrites = s.ctxWrites := rfl
@[simp] theorem State.sched_dynUse (at_ : Nat) (post : Bool) (ev : Instr) : (s.sched at_ post ev).dynUse = s.dynUse := rfl
@[simp] theorem State.sched_tours (at_ : Nat) (post : Bool) (ev : Instr) : (s.sched at_ post ev).tours = s.tours := rfl
@[simp] theorem State.sched_saved (at_ : Nat) (post : Bool) (ev : Instr) : (s.sched at_ post ev).saved = s.saved := rfl
@[simp] theorem State.sched_hostReads (at_ : Nat) (post : Bool) (ev : Instr) : (s.sched at_ post ev).hostReads = s.hostReads := rfl
@[simp] theorem State.sched_interrupts (at_ : Nat) (post : Bool) (ev : Instr) : (s.sched at_ post ev).interrupts = s.interrupts := rfl
@[simp] theorem State.sched_peerWrites (at_ : Nat) (post : Bool) (ev : Instr) : (s.sched at_ post ev).peerWrites = s.peerWrites := rfl
@[simp] theorem State.sched_completions (at_ : Nat) (post : Bool) (ev : Instr) : (s.sched at_ post ev).completions = s.completions := rfl
@[simp] theorem State.sched_peerReplies (at_ : Nat) (post : Bool) (ev : Instr) : (s.sched at_ post ev).peerReplies = s.peerReplies := rfl
@[simp] theorem State.sched_requests (at_ : Nat) (post : Bool) (ev : Instr) : (s.sched at_ post ev).requests = s.requests := rfl
@[simp] theorem State.sched_mgmt (at_ : Nat) (post : Bool) (ev : Instr) : (s.sched at_ post ev).mgmt = s.mgmt := rfl

/-! ### State.schedFirst -/

@[simp] theorem State.schedFirst_core (at_ : Nat) (post : Bool) (ev : Instr) : (s.schedFirst at_ post ev).core = s.core := rfl
@[simp] theorem State.schedFirst_others (at_ : Nat) (post : Bool) (ev : Instr) : (s.schedFirst at_ post ev).others = s.others := rfl
@[simp] theorem State.schedFirst_now (at_ : Nat) (post : Bool) (ev : Instr) : (s.schedFirst at_ post ev).now = s.now := rfl
@[simp] theorem State.schedFirst_timeFine (at_ : Nat) (post : Bool) (ev : Instr) : (s.schedFirst at_ post ev).timeFine = s.timeFine := rfl
@[simp] theorem State.schedFirst_timers (at_ : Nat) (post : Bool) (ev : Instr) : (s.schedFirst at_ post ev).timers = s.timers := rfl
@[simp] theorem State.schedFirst_inputs (at_ : Nat) (post : Bool) (ev : Instr) : (s.schedFirst at_ post ev).inputs = s.inputs := rfl
@[simp] theorem State.schedFirst_fresh (at_ : Nat) (post : Bool) (ev : Instr) : (s.schedFirst at_ post ev).fresh = s.fresh := rfl
@[simp] theorem State.schedFirst_nextId (at_ : Nat) (post : Bool) (ev : Instr) : (s.schedFirst at_ post ev).nextId = s.nextId := rfl
@[simp] theorem State.schedFirst_launches (at_ : Nat) (post : Bool) (ev : Instr) : (s.schedFirst at_ post ev).launches = s.launches := rfl
@[simp] theorem State.schedFirst_queues (at_ : Nat) (post : Bool) (ev : Instr) : (s.schedFirst at_ post ev).queues = s.queues := rfl
@[simp] theorem State.schedFirst_slots (at_ : Nat) (post : Bool) (ev : Instr) : (s.schedFirst at_ post ev).slots = s.slots := rfl
@[simp] theorem State.schedFirst_phys (at_ : Nat) (post : Bool) (ev : Instr) : (s.schedFirst at_ post ev).phys = s.phys := rfl
@[simp] theorem State.schedFirst_ctxs (at_ : Nat) (post : Bool) (ev : Instr) : (s.schedFirst at_ post ev).ctxs = s.ctxs := rfl
@[simp] theorem State.schedFirst_tlb (at_ : Nat) (post : Bool) (ev : Instr) : (s.schedFirst at_ post ev).tlb = s.tlb := rfl
@[simp] theorem State.schedFirst_walks (at_ : Nat) (post : Bool) (ev : Instr) : (s.schedFirst at_ post ev).walks = s.walks := rfl
@[simp] theorem State.schedFirst_hbm (at_ : Nat) (post : Bool) (ev : Instr) : (s.schedFirst at_ post ev).hbm = s.hbm := rfl
@[simp] theorem State.schedFirst_poison (at_ : Nat) (post : Bool) (ev : Instr) : (s.schedFirst at_ post ev).poison = s.poison := rfl
@[simp] theorem State.schedFirst_evsets (at_ : Nat) (post : Bool) (ev : Instr) : (s.schedFirst at_ post ev).evsets = s.evsets := rfl
@[simp] theorem State.schedFirst_packets (at_ : Nat) (post : Bool) (ev : Instr) : (s.schedFirst at_ post ev).packets = s.packets := rfl
@[simp] theorem State.schedFirst_tlines (at_ : Nat) (post : Bool) (ev : Instr) : (s.schedFirst at_ post ev).tlines = s.tlines := rfl
@[simp] theorem State.schedFirst_carried (at_ : Nat) (post : Bool) (ev : Instr) : (s.schedFirst at_ post ev).carried = s.carried := rfl
@[simp] theorem State.schedFirst_delivs (at_ : Nat) (post : Bool) (ev : Instr) : (s.schedFirst at_ post ev).delivs = s.delivs := rfl
@[simp] theorem State.schedFirst_accs (at_ : Nat) (post : Bool) (ev : Instr) : (s.schedFirst at_ post ev).accs = s.accs := rfl
@[simp] theorem State.schedFirst_ctxWrites (at_ : Nat) (post : Bool) (ev : Instr) : (s.schedFirst at_ post ev).ctxWrites = s.ctxWrites := rfl
@[simp] theorem State.schedFirst_dynUse (at_ : Nat) (post : Bool) (ev : Instr) : (s.schedFirst at_ post ev).dynUse = s.dynUse := rfl
@[simp] theorem State.schedFirst_tours (at_ : Nat) (post : Bool) (ev : Instr) : (s.schedFirst at_ post ev).tours = s.tours := rfl
@[simp] theorem State.schedFirst_saved (at_ : Nat) (post : Bool) (ev : Instr) : (s.schedFirst at_ post ev).saved = s.saved := rfl
@[simp] theorem State.schedFirst_hostReads (at_ : Nat) (post : Bool) (ev : Instr) : (s.schedFirst at_ post ev).hostReads = s.hostReads := rfl
@[simp] theorem State.schedFirst_interrupts (at_ : Nat) (post : Bool) (ev : Instr) : (s.schedFirst at_ post ev).interrupts = s.interrupts := rfl
@[simp] theorem State.schedFirst_peerWrites (at_ : Nat) (post : Bool) (ev : Instr) : (s.schedFirst at_ post ev).peerWrites = s.peerWrites := rfl
@[simp] theorem State.schedFirst_completions (at_ : Nat) (post : Bool) (ev : Instr) : (s.schedFirst at_ post ev).completions = s.completions := rfl
@[simp] theorem State.schedFirst_peerReplies (at_ : Nat) (post : Bool) (ev : Instr) : (s.schedFirst at_ post ev).peerReplies = s.peerReplies := rfl
@[simp] theorem State.schedFirst_requests (at_ : Nat) (post : Bool) (ev : Instr) : (s.schedFirst at_ post ev).requests = s.requests := rfl
@[simp] theorem State.schedFirst_mgmt (at_ : Nat) (post : Bool) (ev : Instr) : (s.schedFirst at_ post ev).mgmt = s.mgmt := rfl

/-! ### State.tickFresh -/

@[simp] theorem State.tickFresh_core : (s.tickFresh).core = s.core := rfl
@[simp] theorem State.tickFresh_others : (s.tickFresh).others = s.others := rfl
@[simp] theorem State.tickFresh_now : (s.tickFresh).now = s.now := rfl
@[simp] theorem State.tickFresh_timeFine : (s.tickFresh).timeFine = s.timeFine := rfl
@[simp] theorem State.tickFresh_agenda : (s.tickFresh).agenda = s.agenda := rfl
@[simp] theorem State.tickFresh_timers : (s.tickFresh).timers = s.timers := rfl
@[simp] theorem State.tickFresh_inputs : (s.tickFresh).inputs = s.inputs := rfl
@[simp] theorem State.tickFresh_nextId : (s.tickFresh).nextId = s.nextId := rfl
@[simp] theorem State.tickFresh_launches : (s.tickFresh).launches = s.launches := rfl
@[simp] theorem State.tickFresh_queues : (s.tickFresh).queues = s.queues := rfl
@[simp] theorem State.tickFresh_slots : (s.tickFresh).slots = s.slots := rfl
@[simp] theorem State.tickFresh_phys : (s.tickFresh).phys = s.phys := rfl
@[simp] theorem State.tickFresh_ctxs : (s.tickFresh).ctxs = s.ctxs := rfl
@[simp] theorem State.tickFresh_tlb : (s.tickFresh).tlb = s.tlb := rfl
@[simp] theorem State.tickFresh_walks : (s.tickFresh).walks = s.walks := rfl
@[simp] theorem State.tickFresh_hbm : (s.tickFresh).hbm = s.hbm := rfl
@[simp] theorem State.tickFresh_poison : (s.tickFresh).poison = s.poison := rfl
@[simp] theorem State.tickFresh_evsets : (s.tickFresh).evsets = s.evsets := rfl
@[simp] theorem State.tickFresh_packets : (s.tickFresh).packets = s.packets := rfl
@[simp] theorem State.tickFresh_tlines : (s.tickFresh).tlines = s.tlines := rfl
@[simp] theorem State.tickFresh_carried : (s.tickFresh).carried = s.carried := rfl
@[simp] theorem State.tickFresh_delivs : (s.tickFresh).delivs = s.delivs := rfl
@[simp] theorem State.tickFresh_accs : (s.tickFresh).accs = s.accs := rfl
@[simp] theorem State.tickFresh_ctxWrites : (s.tickFresh).ctxWrites = s.ctxWrites := rfl
@[simp] theorem State.tickFresh_dynUse : (s.tickFresh).dynUse = s.dynUse := rfl
@[simp] theorem State.tickFresh_tours : (s.tickFresh).tours = s.tours := rfl
@[simp] theorem State.tickFresh_saved : (s.tickFresh).saved = s.saved := rfl
@[simp] theorem State.tickFresh_hostReads : (s.tickFresh).hostReads = s.hostReads := rfl
@[simp] theorem State.tickFresh_interrupts : (s.tickFresh).interrupts = s.interrupts := rfl
@[simp] theorem State.tickFresh_peerWrites : (s.tickFresh).peerWrites = s.peerWrites := rfl
@[simp] theorem State.tickFresh_completions : (s.tickFresh).completions = s.completions := rfl
@[simp] theorem State.tickFresh_peerReplies : (s.tickFresh).peerReplies = s.peerReplies := rfl
@[simp] theorem State.tickFresh_requests : (s.tickFresh).requests = s.requests := rfl
@[simp] theorem State.tickFresh_mgmt : (s.tickFresh).mgmt = s.mgmt := rfl

/-! ### State.hbmWrite -/

@[simp] theorem State.hbmWrite_core (pa : Nat) (bs : List Byte) : (s.hbmWrite pa bs).core = s.core := rfl
@[simp] theorem State.hbmWrite_others (pa : Nat) (bs : List Byte) : (s.hbmWrite pa bs).others = s.others := rfl
@[simp] theorem State.hbmWrite_now (pa : Nat) (bs : List Byte) : (s.hbmWrite pa bs).now = s.now := rfl
@[simp] theorem State.hbmWrite_timeFine (pa : Nat) (bs : List Byte) : (s.hbmWrite pa bs).timeFine = s.timeFine := rfl
@[simp] theorem State.hbmWrite_agenda (pa : Nat) (bs : List Byte) : (s.hbmWrite pa bs).agenda = s.agenda := rfl
@[simp] theorem State.hbmWrite_timers (pa : Nat) (bs : List Byte) : (s.hbmWrite pa bs).timers = s.timers := rfl
@[simp] theorem State.hbmWrite_inputs (pa : Nat) (bs : List Byte) : (s.hbmWrite pa bs).inputs = s.inputs := rfl
@[simp] theorem State.hbmWrite_fresh (pa : Nat) (bs : List Byte) : (s.hbmWrite pa bs).fresh = s.fresh := rfl
@[simp] theorem State.hbmWrite_nextId (pa : Nat) (bs : List Byte) : (s.hbmWrite pa bs).nextId = s.nextId := rfl
@[simp] theorem State.hbmWrite_launches (pa : Nat) (bs : List Byte) : (s.hbmWrite pa bs).launches = s.launches := rfl
@[simp] theorem State.hbmWrite_queues (pa : Nat) (bs : List Byte) : (s.hbmWrite pa bs).queues = s.queues := rfl
@[simp] theorem State.hbmWrite_slots (pa : Nat) (bs : List Byte) : (s.hbmWrite pa bs).slots = s.slots := rfl
@[simp] theorem State.hbmWrite_phys (pa : Nat) (bs : List Byte) : (s.hbmWrite pa bs).phys = s.phys := rfl
@[simp] theorem State.hbmWrite_ctxs (pa : Nat) (bs : List Byte) : (s.hbmWrite pa bs).ctxs = s.ctxs := rfl
@[simp] theorem State.hbmWrite_tlb (pa : Nat) (bs : List Byte) : (s.hbmWrite pa bs).tlb = s.tlb := rfl
@[simp] theorem State.hbmWrite_walks (pa : Nat) (bs : List Byte) : (s.hbmWrite pa bs).walks = s.walks := rfl
@[simp] theorem State.hbmWrite_evsets (pa : Nat) (bs : List Byte) : (s.hbmWrite pa bs).evsets = s.evsets := rfl
@[simp] theorem State.hbmWrite_packets (pa : Nat) (bs : List Byte) : (s.hbmWrite pa bs).packets = s.packets := rfl
@[simp] theorem State.hbmWrite_tlines (pa : Nat) (bs : List Byte) : (s.hbmWrite pa bs).tlines = s.tlines := rfl
@[simp] theorem State.hbmWrite_carried (pa : Nat) (bs : List Byte) : (s.hbmWrite pa bs).carried = s.carried := rfl
@[simp] theorem State.hbmWrite_delivs (pa : Nat) (bs : List Byte) : (s.hbmWrite pa bs).delivs = s.delivs := rfl
@[simp] theorem State.hbmWrite_accs (pa : Nat) (bs : List Byte) : (s.hbmWrite pa bs).accs = s.accs := rfl
@[simp] theorem State.hbmWrite_ctxWrites (pa : Nat) (bs : List Byte) : (s.hbmWrite pa bs).ctxWrites = s.ctxWrites := rfl
@[simp] theorem State.hbmWrite_dynUse (pa : Nat) (bs : List Byte) : (s.hbmWrite pa bs).dynUse = s.dynUse := rfl
@[simp] theorem State.hbmWrite_tours (pa : Nat) (bs : List Byte) : (s.hbmWrite pa bs).tours = s.tours := rfl
@[simp] theorem State.hbmWrite_saved (pa : Nat) (bs : List Byte) : (s.hbmWrite pa bs).saved = s.saved := rfl
@[simp] theorem State.hbmWrite_hostReads (pa : Nat) (bs : List Byte) : (s.hbmWrite pa bs).hostReads = s.hostReads := rfl
@[simp] theorem State.hbmWrite_interrupts (pa : Nat) (bs : List Byte) : (s.hbmWrite pa bs).interrupts = s.interrupts := rfl
@[simp] theorem State.hbmWrite_peerWrites (pa : Nat) (bs : List Byte) : (s.hbmWrite pa bs).peerWrites = s.peerWrites := rfl
@[simp] theorem State.hbmWrite_completions (pa : Nat) (bs : List Byte) : (s.hbmWrite pa bs).completions = s.completions := rfl
@[simp] theorem State.hbmWrite_peerReplies (pa : Nat) (bs : List Byte) : (s.hbmWrite pa bs).peerReplies = s.peerReplies := rfl
@[simp] theorem State.hbmWrite_requests (pa : Nat) (bs : List Byte) : (s.hbmWrite pa bs).requests = s.requests := rfl
@[simp] theorem State.hbmWrite_mgmt (pa : Nat) (bs : List Byte) : (s.hbmWrite pa bs).mgmt = s.mgmt := rfl

/-! ### State.held -/

@[simp] theorem State.held_others : (s.held).others = s.others := rfl
@[simp] theorem State.held_now : (s.held).now = s.now := rfl
@[simp] theorem State.held_timeFine : (s.held).timeFine = s.timeFine := rfl
@[simp] theorem State.held_agenda : (s.held).agenda = s.agenda := rfl
@[simp] theorem State.held_timers : (s.held).timers = s.timers := rfl
@[simp] theorem State.held_inputs : (s.held).inputs = s.inputs := rfl
@[simp] theorem State.held_fresh : (s.held).fresh = s.fresh := rfl
@[simp] theorem State.held_nextId : (s.held).nextId = s.nextId := rfl
@[simp] theorem State.held_launches : (s.held).launches = s.launches := rfl
@[simp] theorem State.held_queues : (s.held).queues = s.queues := rfl
@[simp] theorem State.held_slots : (s.held).slots = s.slots := rfl
@[simp] theorem State.held_phys : (s.held).phys = s.phys := rfl
@[simp] theorem State.held_ctxs : (s.held).ctxs = s.ctxs := rfl
@[simp] theorem State.held_tlb : (s.held).tlb = s.tlb := rfl
@[simp] theorem State.held_walks : (s.held).walks = s.walks := rfl
@[simp] theorem State.held_hbm : (s.held).hbm = s.hbm := rfl
@[simp] theorem State.held_poison : (s.held).poison = s.poison := rfl
@[simp] theorem State.held_evsets : (s.held).evsets = s.evsets := rfl
@[simp] theorem State.held_packets : (s.held).packets = s.packets := rfl
@[simp] theorem State.held_tlines : (s.held).tlines = s.tlines := rfl
@[simp] theorem State.held_carried : (s.held).carried = s.carried := rfl
@[simp] theorem State.held_delivs : (s.held).delivs = s.delivs := rfl
@[simp] theorem State.held_accs : (s.held).accs = s.accs := rfl
@[simp] theorem State.held_ctxWrites : (s.held).ctxWrites = s.ctxWrites := rfl
@[simp] theorem State.held_dynUse : (s.held).dynUse = s.dynUse := rfl
@[simp] theorem State.held_tours : (s.held).tours = s.tours := rfl
@[simp] theorem State.held_saved : (s.held).saved = s.saved := rfl
@[simp] theorem State.held_hostReads : (s.held).hostReads = s.hostReads := rfl
@[simp] theorem State.held_interrupts : (s.held).interrupts = s.interrupts := rfl
@[simp] theorem State.held_peerWrites : (s.held).peerWrites = s.peerWrites := rfl
@[simp] theorem State.held_completions : (s.held).completions = s.completions := rfl
@[simp] theorem State.held_peerReplies : (s.held).peerReplies = s.peerReplies := rfl
@[simp] theorem State.held_requests : (s.held).requests = s.requests := rfl
@[simp] theorem State.held_mgmt : (s.held).mgmt = s.mgmt := rfl

/-! ### Core.advance -/

@[simp] theorem Core.advance_id (now size : Nat) : (c.advance now size).id = c.id := rfl
@[simp] theorem Core.advance_ctx (now size : Nat) : (c.advance now size).ctx = c.ctx := rfl
@[simp] theorem Core.advance_slot (now size : Nat) : (c.advance now size).slot = c.slot := rfl
@[simp] theorem Core.advance_row (now size : Nat) : (c.advance now size).row = c.row := rfl
@[simp] theorem Core.advance_col (now size : Nat) : (c.advance now size).col = c.col := rfl
@[simp] theorem Core.advance_run (now size : Nat) : (c.advance now size).run = c.run := rfl
@[simp] theorem Core.advance_ckpt (now size : Nat) : (c.advance now size).ckpt = c.ckpt := rfl
@[simp] theorem Core.advance_cause (now size : Nat) : (c.advance now size).cause = c.cause := rfl
@[simp] theorem Core.advance_tval (now size : Nat) : (c.advance now size).tval = c.tval := rfl
@[simp] theorem Core.advance_epc (now size : Nat) : (c.advance now size).epc = c.epc := rfl
@[simp] theorem Core.advance_trapvec (now size : Nat) : (c.advance now size).trapvec = c.trapvec := rfl
@[simp] theorem Core.advance_regpc (now size : Nat) : (c.advance now size).regpc = c.regpc := rfl
@[simp] theorem Core.advance_flights (now size : Nat) : (c.advance now size).flights = c.flights := rfl
@[simp] theorem Core.advance_mem (now size : Nat) : (c.advance now size).mem = c.mem := rfl
@[simp] theorem Core.advance_code (now size : Nat) : (c.advance now size).code = c.code := rfl
@[simp] theorem Core.advance_gaps (now size : Nat) : (c.advance now size).gaps = c.gaps := rfl
@[simp] theorem Core.advance_sbuf (now size : Nat) : (c.advance now size).sbuf = c.sbuf := rfl
@[simp] theorem Core.advance_drainq (now size : Nat) : (c.advance now size).drainq = c.drainq := rfl
@[simp] theorem Core.advance_rings (now size : Nat) : (c.advance now size).rings = c.rings := rfl
@[simp] theorem Core.advance_erings (now size : Nat) : (c.advance now size).erings = c.erings := rfl
@[simp] theorem Core.advance_eseq (now size : Nat) : (c.advance now size).eseq = c.eseq := rfl
@[simp] theorem Core.advance_issued (now size : Nat) : (c.advance now size).issued = c.issued := rfl
@[simp] theorem Core.advance_stops (now size : Nat) : (c.advance now size).stops = c.stops := rfl

/-! ### Core.jump -/

@[simp] theorem Core.jump_id (now : Nat) (target : Word) : (c.jump now target).id = c.id := rfl
@[simp] theorem Core.jump_ctx (now : Nat) (target : Word) : (c.jump now target).ctx = c.ctx := rfl
@[simp] theorem Core.jump_slot (now : Nat) (target : Word) : (c.jump now target).slot = c.slot := rfl
@[simp] theorem Core.jump_row (now : Nat) (target : Word) : (c.jump now target).row = c.row := rfl
@[simp] theorem Core.jump_col (now : Nat) (target : Word) : (c.jump now target).col = c.col := rfl
@[simp] theorem Core.jump_run (now : Nat) (target : Word) : (c.jump now target).run = c.run := rfl
@[simp] theorem Core.jump_ckpt (now : Nat) (target : Word) : (c.jump now target).ckpt = c.ckpt := rfl
@[simp] theorem Core.jump_cause (now : Nat) (target : Word) : (c.jump now target).cause = c.cause := rfl
@[simp] theorem Core.jump_tval (now : Nat) (target : Word) : (c.jump now target).tval = c.tval := rfl
@[simp] theorem Core.jump_epc (now : Nat) (target : Word) : (c.jump now target).epc = c.epc := rfl
@[simp] theorem Core.jump_trapvec (now : Nat) (target : Word) : (c.jump now target).trapvec = c.trapvec := rfl
@[simp] theorem Core.jump_regpc (now : Nat) (target : Word) : (c.jump now target).regpc = c.regpc := rfl
@[simp] theorem Core.jump_flights (now : Nat) (target : Word) : (c.jump now target).flights = c.flights := rfl
@[simp] theorem Core.jump_mem (now : Nat) (target : Word) : (c.jump now target).mem = c.mem := rfl
@[simp] theorem Core.jump_code (now : Nat) (target : Word) : (c.jump now target).code = c.code := rfl
@[simp] theorem Core.jump_gaps (now : Nat) (target : Word) : (c.jump now target).gaps = c.gaps := rfl
@[simp] theorem Core.jump_sbuf (now : Nat) (target : Word) : (c.jump now target).sbuf = c.sbuf := rfl
@[simp] theorem Core.jump_drainq (now : Nat) (target : Word) : (c.jump now target).drainq = c.drainq := rfl
@[simp] theorem Core.jump_rings (now : Nat) (target : Word) : (c.jump now target).rings = c.rings := rfl
@[simp] theorem Core.jump_erings (now : Nat) (target : Word) : (c.jump now target).erings = c.erings := rfl
@[simp] theorem Core.jump_eseq (now : Nat) (target : Word) : (c.jump now target).eseq = c.eseq := rfl
@[simp] theorem Core.jump_issued (now : Nat) (target : Word) : (c.jump now target).issued = c.issued := rfl
@[simp] theorem Core.jump_stops (now : Nat) (target : Word) : (c.jump now target).stops = c.stops := rfl

/-! ### Core.write -/

@[simp] theorem Core.write_id (now lat : Nat) (d : Dst) (fl : Flags) : (c.write now lat d fl).id = c.id := rfl
@[simp] theorem Core.write_ctx (now lat : Nat) (d : Dst) (fl : Flags) : (c.write now lat d fl).ctx = c.ctx := rfl
@[simp] theorem Core.write_slot (now lat : Nat) (d : Dst) (fl : Flags) : (c.write now lat d fl).slot = c.slot := rfl
@[simp] theorem Core.write_row (now lat : Nat) (d : Dst) (fl : Flags) : (c.write now lat d fl).row = c.row := rfl
@[simp] theorem Core.write_col (now lat : Nat) (d : Dst) (fl : Flags) : (c.write now lat d fl).col = c.col := rfl
@[simp] theorem Core.write_run (now lat : Nat) (d : Dst) (fl : Flags) : (c.write now lat d fl).run = c.run := rfl
@[simp] theorem Core.write_pc (now lat : Nat) (d : Dst) (fl : Flags) : (c.write now lat d fl).pc = c.pc := rfl
@[simp] theorem Core.write_arch (now lat : Nat) (d : Dst) (fl : Flags) : (c.write now lat d fl).arch = c.arch := rfl
@[simp] theorem Core.write_ckpt (now lat : Nat) (d : Dst) (fl : Flags) : (c.write now lat d fl).ckpt = c.ckpt := rfl
@[simp] theorem Core.write_cause (now lat : Nat) (d : Dst) (fl : Flags) : (c.write now lat d fl).cause = c.cause := rfl
@[simp] theorem Core.write_tval (now lat : Nat) (d : Dst) (fl : Flags) : (c.write now lat d fl).tval = c.tval := rfl
@[simp] theorem Core.write_epc (now lat : Nat) (d : Dst) (fl : Flags) : (c.write now lat d fl).epc = c.epc := rfl
@[simp] theorem Core.write_trapvec (now lat : Nat) (d : Dst) (fl : Flags) : (c.write now lat d fl).trapvec = c.trapvec := rfl
@[simp] theorem Core.write_regpc (now lat : Nat) (d : Dst) (fl : Flags) : (c.write now lat d fl).regpc = c.regpc := rfl
@[simp] theorem Core.write_iseq (now lat : Nat) (d : Dst) (fl : Flags) : (c.write now lat d fl).iseq = c.iseq := rfl
@[simp] theorem Core.write_nextIssue (now lat : Nat) (d : Dst) (fl : Flags) : (c.write now lat d fl).nextIssue = c.nextIssue := rfl
@[simp] theorem Core.write_mem (now lat : Nat) (d : Dst) (fl : Flags) : (c.write now lat d fl).mem = c.mem := rfl
@[simp] theorem Core.write_code (now lat : Nat) (d : Dst) (fl : Flags) : (c.write now lat d fl).code = c.code := rfl
@[simp] theorem Core.write_gaps (now lat : Nat) (d : Dst) (fl : Flags) : (c.write now lat d fl).gaps = c.gaps := rfl
@[simp] theorem Core.write_sbuf (now lat : Nat) (d : Dst) (fl : Flags) : (c.write now lat d fl).sbuf = c.sbuf := rfl
@[simp] theorem Core.write_drainq (now lat : Nat) (d : Dst) (fl : Flags) : (c.write now lat d fl).drainq = c.drainq := rfl
@[simp] theorem Core.write_rings (now lat : Nat) (d : Dst) (fl : Flags) : (c.write now lat d fl).rings = c.rings := rfl
@[simp] theorem Core.write_erings (now lat : Nat) (d : Dst) (fl : Flags) : (c.write now lat d fl).erings = c.erings := rfl
@[simp] theorem Core.write_eseq (now lat : Nat) (d : Dst) (fl : Flags) : (c.write now lat d fl).eseq = c.eseq := rfl
@[simp] theorem Core.write_issued (now lat : Nat) (d : Dst) (fl : Flags) : (c.write now lat d fl).issued = c.issued := rfl
@[simp] theorem Core.write_stops (now lat : Nat) (d : Dst) (fl : Flags) : (c.write now lat d fl).stops = c.stops := rfl

/-! ### Core.claim -/

@[simp] theorem Core.claim_id (now : Nat) (u : BankUse) : (c.claim now u).id = c.id := rfl
@[simp] theorem Core.claim_ctx (now : Nat) (u : BankUse) : (c.claim now u).ctx = c.ctx := rfl
@[simp] theorem Core.claim_slot (now : Nat) (u : BankUse) : (c.claim now u).slot = c.slot := rfl
@[simp] theorem Core.claim_row (now : Nat) (u : BankUse) : (c.claim now u).row = c.row := rfl
@[simp] theorem Core.claim_col (now : Nat) (u : BankUse) : (c.claim now u).col = c.col := rfl
@[simp] theorem Core.claim_run (now : Nat) (u : BankUse) : (c.claim now u).run = c.run := rfl
@[simp] theorem Core.claim_pc (now : Nat) (u : BankUse) : (c.claim now u).pc = c.pc := rfl
@[simp] theorem Core.claim_arch (now : Nat) (u : BankUse) : (c.claim now u).arch = c.arch := rfl
@[simp] theorem Core.claim_ckpt (now : Nat) (u : BankUse) : (c.claim now u).ckpt = c.ckpt := rfl
@[simp] theorem Core.claim_cause (now : Nat) (u : BankUse) : (c.claim now u).cause = c.cause := rfl
@[simp] theorem Core.claim_tval (now : Nat) (u : BankUse) : (c.claim now u).tval = c.tval := rfl
@[simp] theorem Core.claim_epc (now : Nat) (u : BankUse) : (c.claim now u).epc = c.epc := rfl
@[simp] theorem Core.claim_trapvec (now : Nat) (u : BankUse) : (c.claim now u).trapvec = c.trapvec := rfl
@[simp] theorem Core.claim_regpc (now : Nat) (u : BankUse) : (c.claim now u).regpc = c.regpc := rfl
@[simp] theorem Core.claim_iseq (now : Nat) (u : BankUse) : (c.claim now u).iseq = c.iseq := rfl
@[simp] theorem Core.claim_nextIssue (now : Nat) (u : BankUse) : (c.claim now u).nextIssue = c.nextIssue := rfl
@[simp] theorem Core.claim_flights (now : Nat) (u : BankUse) : (c.claim now u).flights = c.flights := rfl
@[simp] theorem Core.claim_mem (now : Nat) (u : BankUse) : (c.claim now u).mem = c.mem := rfl
@[simp] theorem Core.claim_code (now : Nat) (u : BankUse) : (c.claim now u).code = c.code := rfl
@[simp] theorem Core.claim_gaps (now : Nat) (u : BankUse) : (c.claim now u).gaps = c.gaps := rfl
@[simp] theorem Core.claim_sbuf (now : Nat) (u : BankUse) : (c.claim now u).sbuf = c.sbuf := rfl
@[simp] theorem Core.claim_drainq (now : Nat) (u : BankUse) : (c.claim now u).drainq = c.drainq := rfl
@[simp] theorem Core.claim_rings (now : Nat) (u : BankUse) : (c.claim now u).rings = c.rings := rfl
@[simp] theorem Core.claim_erings (now : Nat) (u : BankUse) : (c.claim now u).erings = c.erings := rfl
@[simp] theorem Core.claim_eseq (now : Nat) (u : BankUse) : (c.claim now u).eseq = c.eseq := rfl
@[simp] theorem Core.claim_issued (now : Nat) (u : BankUse) : (c.claim now u).issued = c.issued := rfl
@[simp] theorem Core.claim_stops (now : Nat) (u : BankUse) : (c.claim now u).stops = c.stops := rfl

/-! ### Core.poke -/

@[simp] theorem Core.poke_id (umbra : Bool) (cs : List Host.Cell) : (c.poke umbra cs).id = c.id := rfl
@[simp] theorem Core.poke_ctx (umbra : Bool) (cs : List Host.Cell) : (c.poke umbra cs).ctx = c.ctx := rfl
@[simp] theorem Core.poke_slot (umbra : Bool) (cs : List Host.Cell) : (c.poke umbra cs).slot = c.slot := rfl
@[simp] theorem Core.poke_row (umbra : Bool) (cs : List Host.Cell) : (c.poke umbra cs).row = c.row := rfl
@[simp] theorem Core.poke_col (umbra : Bool) (cs : List Host.Cell) : (c.poke umbra cs).col = c.col := rfl
@[simp] theorem Core.poke_run (umbra : Bool) (cs : List Host.Cell) : (c.poke umbra cs).run = c.run := rfl
@[simp] theorem Core.poke_pc (umbra : Bool) (cs : List Host.Cell) : (c.poke umbra cs).pc = c.pc := rfl
@[simp] theorem Core.poke_arch (umbra : Bool) (cs : List Host.Cell) : (c.poke umbra cs).arch = c.arch := rfl
@[simp] theorem Core.poke_ckpt (umbra : Bool) (cs : List Host.Cell) : (c.poke umbra cs).ckpt = c.ckpt := rfl
@[simp] theorem Core.poke_cause (umbra : Bool) (cs : List Host.Cell) : (c.poke umbra cs).cause = c.cause := rfl
@[simp] theorem Core.poke_tval (umbra : Bool) (cs : List Host.Cell) : (c.poke umbra cs).tval = c.tval := rfl
@[simp] theorem Core.poke_epc (umbra : Bool) (cs : List Host.Cell) : (c.poke umbra cs).epc = c.epc := rfl
@[simp] theorem Core.poke_trapvec (umbra : Bool) (cs : List Host.Cell) : (c.poke umbra cs).trapvec = c.trapvec := rfl
@[simp] theorem Core.poke_regpc (umbra : Bool) (cs : List Host.Cell) : (c.poke umbra cs).regpc = c.regpc := rfl
@[simp] theorem Core.poke_iseq (umbra : Bool) (cs : List Host.Cell) : (c.poke umbra cs).iseq = c.iseq := rfl
@[simp] theorem Core.poke_nextIssue (umbra : Bool) (cs : List Host.Cell) : (c.poke umbra cs).nextIssue = c.nextIssue := rfl
@[simp] theorem Core.poke_flights (umbra : Bool) (cs : List Host.Cell) : (c.poke umbra cs).flights = c.flights := rfl
@[simp] theorem Core.poke_code (umbra : Bool) (cs : List Host.Cell) : (c.poke umbra cs).code = c.code := rfl
@[simp] theorem Core.poke_gaps (umbra : Bool) (cs : List Host.Cell) : (c.poke umbra cs).gaps = c.gaps := rfl
@[simp] theorem Core.poke_sbuf (umbra : Bool) (cs : List Host.Cell) : (c.poke umbra cs).sbuf = c.sbuf := rfl
@[simp] theorem Core.poke_drainq (umbra : Bool) (cs : List Host.Cell) : (c.poke umbra cs).drainq = c.drainq := rfl
@[simp] theorem Core.poke_rings (umbra : Bool) (cs : List Host.Cell) : (c.poke umbra cs).rings = c.rings := rfl
@[simp] theorem Core.poke_erings (umbra : Bool) (cs : List Host.Cell) : (c.poke umbra cs).erings = c.erings := rfl
@[simp] theorem Core.poke_eseq (umbra : Bool) (cs : List Host.Cell) : (c.poke umbra cs).eseq = c.eseq := rfl
@[simp] theorem Core.poke_issued (umbra : Bool) (cs : List Host.Cell) : (c.poke umbra cs).issued = c.issued := rfl
@[simp] theorem Core.poke_stops (umbra : Bool) (cs : List Host.Cell) : (c.poke umbra cs).stops = c.stops := rfl

/-! ### Core.record -/

@[simp] theorem Core.record_id (t : Trap) (epc : Word) : (c.record t epc).id = c.id := rfl
@[simp] theorem Core.record_ctx (t : Trap) (epc : Word) : (c.record t epc).ctx = c.ctx := rfl
@[simp] theorem Core.record_slot (t : Trap) (epc : Word) : (c.record t epc).slot = c.slot := rfl
@[simp] theorem Core.record_row (t : Trap) (epc : Word) : (c.record t epc).row = c.row := rfl
@[simp] theorem Core.record_col (t : Trap) (epc : Word) : (c.record t epc).col = c.col := rfl
@[simp] theorem Core.record_run (t : Trap) (epc : Word) : (c.record t epc).run = c.run := rfl
@[simp] theorem Core.record_pc (t : Trap) (epc : Word) : (c.record t epc).pc = c.pc := rfl
@[simp] theorem Core.record_arch (t : Trap) (epc : Word) : (c.record t epc).arch = c.arch := rfl
@[simp] theorem Core.record_ckpt (t : Trap) (epc : Word) : (c.record t epc).ckpt = c.ckpt := rfl
@[simp] theorem Core.record_trapvec (t : Trap) (epc : Word) : (c.record t epc).trapvec = c.trapvec := rfl
@[simp] theorem Core.record_regpc (t : Trap) (epc : Word) : (c.record t epc).regpc = c.regpc := rfl
@[simp] theorem Core.record_iseq (t : Trap) (epc : Word) : (c.record t epc).iseq = c.iseq := rfl
@[simp] theorem Core.record_nextIssue (t : Trap) (epc : Word) : (c.record t epc).nextIssue = c.nextIssue := rfl
@[simp] theorem Core.record_flights (t : Trap) (epc : Word) : (c.record t epc).flights = c.flights := rfl
@[simp] theorem Core.record_mem (t : Trap) (epc : Word) : (c.record t epc).mem = c.mem := rfl
@[simp] theorem Core.record_code (t : Trap) (epc : Word) : (c.record t epc).code = c.code := rfl
@[simp] theorem Core.record_gaps (t : Trap) (epc : Word) : (c.record t epc).gaps = c.gaps := rfl
@[simp] theorem Core.record_sbuf (t : Trap) (epc : Word) : (c.record t epc).sbuf = c.sbuf := rfl
@[simp] theorem Core.record_drainq (t : Trap) (epc : Word) : (c.record t epc).drainq = c.drainq := rfl
@[simp] theorem Core.record_rings (t : Trap) (epc : Word) : (c.record t epc).rings = c.rings := rfl
@[simp] theorem Core.record_erings (t : Trap) (epc : Word) : (c.record t epc).erings = c.erings := rfl
@[simp] theorem Core.record_eseq (t : Trap) (epc : Word) : (c.record t epc).eseq = c.eseq := rfl
@[simp] theorem Core.record_issued (t : Trap) (epc : Word) : (c.record t epc).issued = c.issued := rfl
@[simp] theorem Core.record_stops (t : Trap) (epc : Word) : (c.record t epc).stops = c.stops := rfl

/-! ### Core.enterHandler -/

@[simp] theorem Core.enterHandler_id (now : Nat) : (c.enterHandler now).id = c.id := rfl
@[simp] theorem Core.enterHandler_ctx (now : Nat) : (c.enterHandler now).ctx = c.ctx := rfl
@[simp] theorem Core.enterHandler_slot (now : Nat) : (c.enterHandler now).slot = c.slot := rfl
@[simp] theorem Core.enterHandler_row (now : Nat) : (c.enterHandler now).row = c.row := rfl
@[simp] theorem Core.enterHandler_col (now : Nat) : (c.enterHandler now).col = c.col := rfl
@[simp] theorem Core.enterHandler_ckpt (now : Nat) : (c.enterHandler now).ckpt = c.ckpt := rfl
@[simp] theorem Core.enterHandler_cause (now : Nat) : (c.enterHandler now).cause = c.cause := rfl
@[simp] theorem Core.enterHandler_tval (now : Nat) : (c.enterHandler now).tval = c.tval := rfl
@[simp] theorem Core.enterHandler_epc (now : Nat) : (c.enterHandler now).epc = c.epc := rfl
@[simp] theorem Core.enterHandler_trapvec (now : Nat) : (c.enterHandler now).trapvec = c.trapvec := rfl
@[simp] theorem Core.enterHandler_regpc (now : Nat) : (c.enterHandler now).regpc = c.regpc := rfl
@[simp] theorem Core.enterHandler_iseq (now : Nat) : (c.enterHandler now).iseq = c.iseq := rfl
@[simp] theorem Core.enterHandler_flights (now : Nat) : (c.enterHandler now).flights = c.flights := rfl
@[simp] theorem Core.enterHandler_mem (now : Nat) : (c.enterHandler now).mem = c.mem := rfl
@[simp] theorem Core.enterHandler_code (now : Nat) : (c.enterHandler now).code = c.code := rfl
@[simp] theorem Core.enterHandler_gaps (now : Nat) : (c.enterHandler now).gaps = c.gaps := rfl
@[simp] theorem Core.enterHandler_sbuf (now : Nat) : (c.enterHandler now).sbuf = c.sbuf := rfl
@[simp] theorem Core.enterHandler_drainq (now : Nat) : (c.enterHandler now).drainq = c.drainq := rfl
@[simp] theorem Core.enterHandler_rings (now : Nat) : (c.enterHandler now).rings = c.rings := rfl
@[simp] theorem Core.enterHandler_erings (now : Nat) : (c.enterHandler now).erings = c.erings := rfl
@[simp] theorem Core.enterHandler_eseq (now : Nat) : (c.enterHandler now).eseq = c.eseq := rfl
@[simp] theorem Core.enterHandler_issued (now : Nat) : (c.enterHandler now).issued = c.issued := rfl
@[simp] theorem Core.enterHandler_stops (now : Nat) : (c.enterHandler now).stops = c.stops := rfl

/-! ### Core.openRegion -/

@[simp] theorem Core.openRegion_id (pc : Word) : (c.openRegion pc).id = c.id := rfl
@[simp] theorem Core.openRegion_ctx (pc : Word) : (c.openRegion pc).ctx = c.ctx := rfl
@[simp] theorem Core.openRegion_slot (pc : Word) : (c.openRegion pc).slot = c.slot := rfl
@[simp] theorem Core.openRegion_row (pc : Word) : (c.openRegion pc).row = c.row := rfl
@[simp] theorem Core.openRegion_col (pc : Word) : (c.openRegion pc).col = c.col := rfl
@[simp] theorem Core.openRegion_run (pc : Word) : (c.openRegion pc).run = c.run := rfl
@[simp] theorem Core.openRegion_pc (pc : Word) : (c.openRegion pc).pc = c.pc := rfl
@[simp] theorem Core.openRegion_arch (pc : Word) : (c.openRegion pc).arch = c.arch := rfl
@[simp] theorem Core.openRegion_cause (pc : Word) : (c.openRegion pc).cause = c.cause := rfl
@[simp] theorem Core.openRegion_tval (pc : Word) : (c.openRegion pc).tval = c.tval := rfl
@[simp] theorem Core.openRegion_epc (pc : Word) : (c.openRegion pc).epc = c.epc := rfl
@[simp] theorem Core.openRegion_trapvec (pc : Word) : (c.openRegion pc).trapvec = c.trapvec := rfl
@[simp] theorem Core.openRegion_iseq (pc : Word) : (c.openRegion pc).iseq = c.iseq := rfl
@[simp] theorem Core.openRegion_nextIssue (pc : Word) : (c.openRegion pc).nextIssue = c.nextIssue := rfl
@[simp] theorem Core.openRegion_flights (pc : Word) : (c.openRegion pc).flights = c.flights := rfl
@[simp] theorem Core.openRegion_mem (pc : Word) : (c.openRegion pc).mem = c.mem := rfl
@[simp] theorem Core.openRegion_code (pc : Word) : (c.openRegion pc).code = c.code := rfl
@[simp] theorem Core.openRegion_gaps (pc : Word) : (c.openRegion pc).gaps = c.gaps := rfl
@[simp] theorem Core.openRegion_sbuf (pc : Word) : (c.openRegion pc).sbuf = c.sbuf := rfl
@[simp] theorem Core.openRegion_drainq (pc : Word) : (c.openRegion pc).drainq = c.drainq := rfl
@[simp] theorem Core.openRegion_rings (pc : Word) : (c.openRegion pc).rings = c.rings := rfl
@[simp] theorem Core.openRegion_erings (pc : Word) : (c.openRegion pc).erings = c.erings := rfl
@[simp] theorem Core.openRegion_eseq (pc : Word) : (c.openRegion pc).eseq = c.eseq := rfl
@[simp] theorem Core.openRegion_issued (pc : Word) : (c.openRegion pc).issued = c.issued := rfl
@[simp] theorem Core.openRegion_stops (pc : Word) : (c.openRegion pc).stops = c.stops := rfl

/-! ### Core.restart -/

@[simp] theorem Core.restart_id (at_ : Nat) : (c.restart at_).id = c.id := rfl
@[simp] theorem Core.restart_ctx (at_ : Nat) : (c.restart at_).ctx = c.ctx := rfl
@[simp] theorem Core.restart_slot (at_ : Nat) : (c.restart at_).slot = c.slot := rfl
@[simp] theorem Core.restart_row (at_ : Nat) : (c.restart at_).row = c.row := rfl
@[simp] theorem Core.restart_col (at_ : Nat) : (c.restart at_).col = c.col := rfl
@[simp] theorem Core.restart_arch (at_ : Nat) : (c.restart at_).arch = c.arch := rfl
@[simp] theorem Core.restart_ckpt (at_ : Nat) : (c.restart at_).ckpt = c.ckpt := rfl
@[simp] theorem Core.restart_cause (at_ : Nat) : (c.restart at_).cause = c.cause := rfl
@[simp] theorem Core.restart_tval (at_ : Nat) : (c.restart at_).tval = c.tval := rfl
@[simp] theorem Core.restart_epc (at_ : Nat) : (c.restart at_).epc = c.epc := rfl
@[simp] theorem Core.restart_trapvec (at_ : Nat) : (c.restart at_).trapvec = c.trapvec := rfl
@[simp] theorem Core.restart_regpc (at_ : Nat) : (c.restart at_).regpc = c.regpc := rfl
@[simp] theorem Core.restart_iseq (at_ : Nat) : (c.restart at_).iseq = c.iseq := rfl
@[simp] theorem Core.restart_flights (at_ : Nat) : (c.restart at_).flights = c.flights := rfl
@[simp] theorem Core.restart_mem (at_ : Nat) : (c.restart at_).mem = c.mem := rfl
@[simp] theorem Core.restart_code (at_ : Nat) : (c.restart at_).code = c.code := rfl
@[simp] theorem Core.restart_gaps (at_ : Nat) : (c.restart at_).gaps = c.gaps := rfl
@[simp] theorem Core.restart_sbuf (at_ : Nat) : (c.restart at_).sbuf = c.sbuf := rfl
@[simp] theorem Core.restart_drainq (at_ : Nat) : (c.restart at_).drainq = c.drainq := rfl
@[simp] theorem Core.restart_rings (at_ : Nat) : (c.restart at_).rings = c.rings := rfl
@[simp] theorem Core.restart_erings (at_ : Nat) : (c.restart at_).erings = c.erings := rfl
@[simp] theorem Core.restart_eseq (at_ : Nat) : (c.restart at_).eseq = c.eseq := rfl
@[simp] theorem Core.restart_issued (at_ : Nat) : (c.restart at_).issued = c.issued := rfl
@[simp] theorem Core.restart_stops (at_ : Nat) : (c.restart at_).stops = c.stops := rfl

/-! ### Core.discard -/

@[simp] theorem Core.discard_id : (c.discard).id = c.id := rfl
@[simp] theorem Core.discard_ctx : (c.discard).ctx = c.ctx := rfl
@[simp] theorem Core.discard_slot : (c.discard).slot = c.slot := rfl
@[simp] theorem Core.discard_row : (c.discard).row = c.row := rfl
@[simp] theorem Core.discard_col : (c.discard).col = c.col := rfl
@[simp] theorem Core.discard_run : (c.discard).run = c.run := rfl
@[simp] theorem Core.discard_pc : (c.discard).pc = c.pc := rfl
@[simp] theorem Core.discard_ckpt : (c.discard).ckpt = c.ckpt := rfl
@[simp] theorem Core.discard_cause : (c.discard).cause = c.cause := rfl
@[simp] theorem Core.discard_tval : (c.discard).tval = c.tval := rfl
@[simp] theorem Core.discard_epc : (c.discard).epc = c.epc := rfl
@[simp] theorem Core.discard_trapvec : (c.discard).trapvec = c.trapvec := rfl
@[simp] theorem Core.discard_regpc : (c.discard).regpc = c.regpc := rfl
@[simp] theorem Core.discard_nextIssue : (c.discard).nextIssue = c.nextIssue := rfl
@[simp] theorem Core.discard_mem : (c.discard).mem = c.mem := rfl
@[simp] theorem Core.discard_code : (c.discard).code = c.code := rfl
@[simp] theorem Core.discard_gaps : (c.discard).gaps = c.gaps := rfl
@[simp] theorem Core.discard_drainq : (c.discard).drainq = c.drainq := rfl
@[simp] theorem Core.discard_erings : (c.discard).erings = c.erings := rfl
@[simp] theorem Core.discard_eseq : (c.discard).eseq = c.eseq := rfl
@[simp] theorem Core.discard_issued : (c.discard).issued = c.issued := rfl

/-! ### Core.engRing -/

@[simp] theorem Core.engRing_id (n : Nat) (f : Ring → Ring) : (c.engRing n f).id = c.id := rfl
@[simp] theorem Core.engRing_ctx (n : Nat) (f : Ring → Ring) : (c.engRing n f).ctx = c.ctx := rfl
@[simp] theorem Core.engRing_slot (n : Nat) (f : Ring → Ring) : (c.engRing n f).slot = c.slot := rfl
@[simp] theorem Core.engRing_row (n : Nat) (f : Ring → Ring) : (c.engRing n f).row = c.row := rfl
@[simp] theorem Core.engRing_col (n : Nat) (f : Ring → Ring) : (c.engRing n f).col = c.col := rfl
@[simp] theorem Core.engRing_run (n : Nat) (f : Ring → Ring) : (c.engRing n f).run = c.run := rfl
@[simp] theorem Core.engRing_pc (n : Nat) (f : Ring → Ring) : (c.engRing n f).pc = c.pc := rfl
@[simp] theorem Core.engRing_arch (n : Nat) (f : Ring → Ring) : (c.engRing n f).arch = c.arch := rfl
@[simp] theorem Core.engRing_ckpt (n : Nat) (f : Ring → Ring) : (c.engRing n f).ckpt = c.ckpt := rfl
@[simp] theorem Core.engRing_cause (n : Nat) (f : Ring → Ring) : (c.engRing n f).cause = c.cause := rfl
@[simp] theorem Core.engRing_tval (n : Nat) (f : Ring → Ring) : (c.engRing n f).tval = c.tval := rfl
@[simp] theorem Core.engRing_epc (n : Nat) (f : Ring → Ring) : (c.engRing n f).epc = c.epc := rfl
@[simp] theorem Core.engRing_trapvec (n : Nat) (f : Ring → Ring) : (c.engRing n f).trapvec = c.trapvec := rfl
@[simp] theorem Core.engRing_regpc (n : Nat) (f : Ring → Ring) : (c.engRing n f).regpc = c.regpc := rfl
@[simp] theorem Core.engRing_iseq (n : Nat) (f : Ring → Ring) : (c.engRing n f).iseq = c.iseq := rfl
@[simp] theorem Core.engRing_nextIssue (n : Nat) (f : Ring → Ring) : (c.engRing n f).nextIssue = c.nextIssue := rfl
@[simp] theorem Core.engRing_flights (n : Nat) (f : Ring → Ring) : (c.engRing n f).flights = c.flights := rfl
@[simp] theorem Core.engRing_mem (n : Nat) (f : Ring → Ring) : (c.engRing n f).mem = c.mem := rfl
@[simp] theorem Core.engRing_code (n : Nat) (f : Ring → Ring) : (c.engRing n f).code = c.code := rfl
@[simp] theorem Core.engRing_gaps (n : Nat) (f : Ring → Ring) : (c.engRing n f).gaps = c.gaps := rfl
@[simp] theorem Core.engRing_sbuf (n : Nat) (f : Ring → Ring) : (c.engRing n f).sbuf = c.sbuf := rfl
@[simp] theorem Core.engRing_drainq (n : Nat) (f : Ring → Ring) : (c.engRing n f).drainq = c.drainq := rfl
@[simp] theorem Core.engRing_eseq (n : Nat) (f : Ring → Ring) : (c.engRing n f).eseq = c.eseq := rfl
@[simp] theorem Core.engRing_issued (n : Nat) (f : Ring → Ring) : (c.engRing n f).issued = c.issued := rfl
@[simp] theorem Core.engRing_stops (n : Nat) (f : Ring → Ring) : (c.engRing n f).stops = c.stops := rfl

end Sys2Proof.Machine
end

