-- ==== Sys2Proof/Laws/Cores.lean ====
section
/-! SUPPORT. What the shared updates of cores, launches, contexts, queues and slots leave to be read. -/

namespace Sys2Proof.Machine

/-! ### Keyed lists -/

theorem alGet_alSet {α : Type} (l : List (Nat × α)) (k j : Nat) (v : α) :
    alGet (alSet l k v) j = if k = j then some v else alGet l j := by
  induction l with
  | nil => simp [alSet, alGet]
  | cons p t ih =>
    obtain ⟨i, w⟩ := p
    unfold alSet
    split
    · simp [alGet]
    · split
      · subst_vars; simp only [alGet]; split <;> rfl
      · simp only [alGet, ih]
        split
        · subst_vars; simp_all
        · rfl

@[simp] theorem State.ctx_updCtx (s : State) (n m : Nat) (f : Ctx → Ctx) :
    (s.updCtx n f).ctx m = if n = m then f (s.ctx n) else s.ctx m := by
  simp only [State.ctx, State.updCtx, alGet_alSet]; split <;> simp_all

@[simp] theorem State.queue_updQueue (s : State) (n m : Nat) (f : LQueue → LQueue) :
    (s.updQueue n f).queue m = if n = m then f (s.queue n) else s.queue m := by
  simp only [State.queue, State.updQueue, alGet_alSet]; split <;> simp_all

@[simp] theorem State.slotRec_updSlot (s : State) (n m : Nat) (f : SlotRec → SlotRec) :
    (s.updSlot n f).slotRec m = if n = m then f (s.slotRec n) else s.slotRec m := by
  simp only [State.slotRec, State.updSlot, alGet_alSet]; split <;> simp_all

/-! ### Cores -/

theorem find_mapIf (l : List Core) (p : Core → Bool) (f : Core → Core) (id : CoreId) (hf : ∀ c, (f c).id = c.id) :
    (l.map (fun c => if p c then f c else c)).find? (fun c => c.id == id) =
      (l.find? (fun c => c.id == id)).map (fun c => if p c then f c else c) := by
  induction l with
  | nil => rfl
  | cons a t ih =>
    have : (if p a then f a else a).id = a.id := by split <;> simp [hf]
    simp only [List.map_cons, List.find?_cons, this]
    split <;> simp [ih]

theorem State.cores_mapCores (s : State) (p : Core → Bool) (f : Core → Core) :
    (s.mapCores p f).cores = s.cores.map (fun c => if p c then f c else c) := rfl

/-- A change of cores that keeps identities is seen by each core it names. -/
theorem State.core?_mapCores (s : State) (p : Core → Bool) (f : Core → Core) (id : CoreId) (hf : ∀ c, (f c).id = c.id) :
    (s.mapCores p f).core? id = (s.core? id).map (fun c => if p c then f c else c) := by
  rw [State.core?, State.cores_mapCores, find_mapIf _ _ _ _ hf]; rfl

theorem State.id_of_core? {s : State} {id : CoreId} {c : Core} (h : s.core? id = some c) : c.id = id := by
  have := List.find?_some h; simpa using this

theorem State.core?_updCore_self (s : State) (id : CoreId) (f : Core → Core) (hf : ∀ c, (f c).id = c.id) {c : Core}
    (h : s.core? id = some c) : (s.updCore id f).core? id = some (f c) := by
  rw [State.updCore, State.core?_mapCores _ _ _ _ hf, h]; simp [State.id_of_core? h]

theorem State.core?_updCore_other (s : State) (id j : CoreId) (f : Core → Core) (hf : ∀ c, (f c).id = c.id) (hj : j ≠ id) :
    (s.updCore id f).core? j = s.core? j := by
  rw [State.updCore, State.core?_mapCores _ _ _ _ hf]
  cases h : s.core? j with
  | none => rfl
  | some c => simp [State.id_of_core? h, hj]

/-- A core brought forward is the core that issues. -/
theorem State.focus_core (s : State) (id : CoreId) {c : Core} (h : s.core? id = some c) : (s.focus id).core = c := by
  unfold State.focus
  split
  · rename_i he
    simp only [State.core?, State.cores, List.find?_cons, he, BEq.rfl] at h
    simpa using h
  · rename_i he
    have : s.others.find? (fun c => c.id == id) = some c := by
      simp only [State.core?, State.cores, List.find?_cons] at h
      have hne : (s.core.id == id) = false := by simpa using he
      simpa [hne] using h
    rw [this]

/-! ### Launches -/

theorem State.launch?_updLaunch (s : State) (h k : Nat) (f : Launch → Launch) (hf : ∀ l, (f l).h = l.h) :
    (s.updLaunch h f).launch? k = (s.launch? k).map (fun l => if l.h == h then f l else l) := by
  show (s.launches.map (fun l => if l.h == h then f l else l)).find? (fun l => l.h == k) =
    (s.launches.find? (fun l => l.h == k)).map (fun l => if l.h == h then f l else l)
  induction s.launches with
  | nil => rfl
  | cons a t ih =>
    have : (if a.h == h then f a else a).h = a.h := by split <;> simp [hf]
    simp only [List.map_cons, List.find?_cons, this]
    split
    · rfl
    · exact ih

end Sys2Proof.Machine
end

