-- ==== Sys2Proof/Laws/Mem.lean ====
section
/-! SUPPORT. Sparse memory: what reads see behind a write, and that every memory operation keeps the canonical form. -/

namespace Sys2Proof.Machine

/-! ### The canonical form -/

theorem Mem.wfFrom_mono {lo hi : Nat} {m : Mem} (h : lo ≤ hi) (w : Mem.wfFrom hi m = true) : Mem.wfFrom lo m = true := by
  cases m with
  | nil => rfl
  | cons p t =>
    simp only [Mem.wfFrom, Bool.and_eq_true, decide_eq_true_eq] at w ⊢
    exact ⟨⟨by omega, w.1.2⟩, w.2⟩

theorem Mem.dropIf_wfFrom {m : Mem} {lo : Nat} (p : Nat → Bool) (w : Mem.wfFrom lo m = true) :
    Mem.wfFrom lo (m.dropIf p) = true := by
  induction m generalizing lo with
  | nil => rfl
  | cons c t ih =>
    obtain ⟨k, v⟩ := c
    simp only [Mem.wfFrom, Bool.and_eq_true, decide_eq_true_eq] at w
    simp only [Mem.dropIf, List.filter_cons]
    split
    · simp only [Mem.wfFrom, Bool.and_eq_true, decide_eq_true_eq]
      exact ⟨⟨w.1.1, w.1.2⟩, ih w.2⟩
    · exact Mem.wfFrom_mono (by omega) (ih w.2)

/-- Dropping addresses keeps it. -/
theorem Mem.dropIf_wf {m : Mem} (p : Nat → Bool) (w : m.wf = true) : (m.dropIf p).wf = true := Mem.dropIf_wfFrom p w

theorem Mem.put_wfFrom {m : Mem} {lo a : Nat} {b : Byte} (w : Mem.wfFrom lo m = true) (h : lo ≤ a) (hb : b ≠ 0)
    (hn : ∀ c ∈ m, c.1 ≠ a) : Mem.wfFrom lo (m.put a b) = true := by
  induction m generalizing lo with
  | nil => simp_all [Mem.wfFrom, Mem.put]
  | cons p t ih =>
    obtain ⟨k, v⟩ := p
    simp only [Mem.wfFrom, Bool.and_eq_true, decide_eq_true_eq] at w
    have hk : k ≠ a := hn (k, v) (by simp)
    simp only [Mem.put]
    split
    · simp only [Mem.wfFrom, Bool.and_eq_true, decide_eq_true_eq, bne_iff_ne, ne_eq]
      exact ⟨⟨h, hb⟩, ⟨by omega, by simpa using w.1.2⟩, w.2⟩
    · simp only [Mem.wfFrom, Bool.and_eq_true, decide_eq_true_eq]
      exact ⟨w.1, ih w.2 (by omega) (fun c hc => hn c (by simp [hc]))⟩

/-- A write of one byte keeps the canonical form. -/
theorem Mem.set_wf {m : Mem} (a : Nat) (b : Byte) (w : m.wf = true) : (m.set a b).wf = true := by
  unfold Mem.set
  split
  · exact Mem.dropIf_wf _ w
  · rename_i hb
    exact Mem.put_wfFrom (Mem.dropIf_wf _ w) (Nat.zero_le a) hb (by simp [Mem.dropIf])

/-- A write of a run of bytes keeps it. -/
theorem Mem.setN_wf {m : Mem} (a : Nat) (bs : List Byte) (w : m.wf = true) : (m.setN a bs).wf = true := by
  induction bs generalizing m a with
  | nil => exact w
  | cons b t ih => exact ih (a + 1) (Mem.set_wf a b w)

/-- A write of listed bytes keeps it. -/
theorem Mem.setCells_wf {m : Mem} (cs : List Host.Cell) (w : m.wf = true) : (m.setCells cs).wf = true := by
  induction cs generalizing m with
  | nil => exact w
  | cons c t ih => exact ih (Mem.set_wf c.1 c.2 w)

/-- An empty memory has it. -/
@[simp] theorem Mem.wf_nil : Mem.wf [] = true := rfl

/-! ### Reads behind a write -/

theorem Mem.get_dropIf (m : Mem) (p : Nat → Bool) (x : Nat) : (m.dropIf p).get x = if p x then 0 else m.get x := by
  induction m with
  | nil => simp [Mem.dropIf, Mem.get]
  | cons c t ih =>
    obtain ⟨k, v⟩ := c
    simp only [Mem.dropIf, List.filter_cons] at ih ⊢
    by_cases hk : x = k
    · subst hk
      cases hp : p x <;> simp_all [Mem.get]
    · cases hp : p k <;> simp_all [Mem.get]

theorem Mem.get_put (m : Mem) (a x : Nat) (b : Byte) (hn : ∀ c ∈ m, c.1 ≠ a) :
    (m.put a b).get x = if x = a then b else m.get x := by
  induction m with
  | nil => simp [Mem.put, Mem.get]
  | cons c t ih =>
    obtain ⟨k, v⟩ := c
    have hk : k ≠ a := hn (k, v) (by simp)
    have := ih (fun c hc => hn c (by simp [hc]))
    simp only [Mem.put]
    split
    · simp [Mem.get]
    · simp only [Mem.get, this]
      by_cases hx : x = k
      · subst hx; simp [hk]
      · simp [hx]

/-- A read of the byte written gives it, and a read of any other byte what it gave before. -/
theorem Mem.get_set (m : Mem) (a x : Nat) (b : Byte) : (m.set a b).get x = if x = a then b else m.get x := by
  unfold Mem.set
  split
  · rename_i hb
    rw [Mem.get_dropIf]
    by_cases hx : x = a <;> simp [hx, hb]
  · rw [Mem.get_put _ _ _ _ (by simp [Mem.dropIf]), Mem.get_dropIf]
    by_cases hx : x = a <;> simp [hx]

theorem Mem.get_set_self (m : Mem) (a : Nat) (b : Byte) : (m.set a b).get a = b := by simp [Mem.get_set]
theorem Mem.get_set_other (m : Mem) {a x : Nat} (b : Byte) (h : x ≠ a) : (m.set a b).get x = m.get x := by
  simp [Mem.get_set, h]

/-- The last value of a list of cells at an address, from one read earlier on. -/
theorem lastCell_cons (c : Host.Cell) (t : List Host.Cell) (x : Nat) :
    lastCell (c :: t) x = (lastCell t x).orElse (fun _ => if c.1 = x then some c.2 else none) := by
  have key : ∀ (l : List Host.Cell) (r : Option Byte), l.foldl (fun r (y : Host.Cell) => if y.1 = x then some y.2 else r) r =
      (l.foldl (fun r (y : Host.Cell) => if y.1 = x then some y.2 else r) none).orElse (fun _ => r) := by
    intro l
    induction l with
    | nil => intro r; rfl
    | cons y l ih =>
      intro r
      simp only [List.foldl_cons]
      by_cases hy : y.1 = x
      · rw [if_pos hy, if_pos hy, ih (some y.2)]
        cases l.foldl (fun r (y : Host.Cell) => if y.1 = x then some y.2 else r) none <;> rfl
      · rw [if_neg hy, if_neg hy, ih r]
  exact key t _

/-- Behind a write of listed bytes, a read gives the last byte listed for the address, or what it gave before. -/
theorem Mem.get_setCells (m : Mem) (cs : List Host.Cell) (x : Nat) :
    (m.setCells cs).get x = (lastCell cs x).getD (m.get x) := by
  induction cs generalizing m with
  | nil => rfl
  | cons c t ih =>
    have e : m.setCells (c :: t) = (m.set c.1 c.2).setCells t := rfl
    rw [e, ih, Mem.get_set, lastCell_cons]
    cases lastCell t x with
    | some b => rfl
    | none => by_cases hx : x = c.1 <;> simp [hx, eq_comm]

/-- Behind a write of listed bytes, an address that is not listed reads as before. -/
theorem Mem.get_setCells_other (m : Mem) {cs : List Host.Cell} {x : Nat} (h : ∀ c ∈ cs, c.1 ≠ x) :
    (m.setCells cs).get x = m.get x := by
  rw [Mem.get_setCells]
  have : lastCell cs x = none := by
    induction cs with
    | nil => rfl
    | cons c t ih => rw [lastCell_cons, ih (fun d hd => h d (by simp [hd]))]; simp [h c (by simp)]
  rw [this]; rfl

/-! ### The operations of a core and of the package -/

/-- Scratchpad bytes written keep the canonical form. -/
theorem Core.poke_mem_wf {c : Core} (umbra : Bool) (cs : List Host.Cell) (w : c.mem.wf = true) : (c.poke umbra cs).mem.wf = true :=
  Mem.setCells_wf cs w

/-- Device memory written keeps it. -/
theorem State.hbmWrite_wf {s : State} (pa : Nat) (bs : List Byte) (w : s.hbm.wf = true) : (s.hbmWrite pa bs).hbm.wf = true :=
  Mem.setN_wf pa bs w

/-- A store of a core, buffered or performed at issue, keeps it. -/
theorem Core.store_mem_wf {c d : Core} {now code : Nat} {umbra : Bool} {cs : List Host.Cell} (w : c.mem.wf = true)
    (h : c.store now code umbra cs = .ok d) : d.mem.wf = true := by
  have one : ∀ (d e : Core) (l : Nat), d.storeClaim c now code l = .ok e → e.mem = d.mem := by
    intro d e l h
    unfold Core.storeClaim at h
    split at h
    · cases h
    · cases h; split <;> rfl
  have claims : ∀ (l : List Nat) (d e : Core),
      l.foldlM (m := Except Stop) (fun (d : Core) l => d.storeClaim c now code l) d = .ok e → e.mem = d.mem := by
    intro l
    induction l with
    | nil => intro d e h; cases h; rfl
    | cons a t ih =>
      intro d e h
      simp only [List.foldlM_cons, bind, Except.bind] at h
      split at h
      · contradiction
      · rename_i f hf
        exact (ih f e h).trans (one d f a hf)
  unfold Core.store at h
  split at h
  · simp only [bind, Except.bind, needIdle] at h
    split at h
    · contradiction
    · split at h
      · contradiction
      · split at h
        · contradiction
        · rename_i e he
          cases h
          exact Core.poke_mem_wf _ _ (by rw [claims _ _ _ he]; exact w)
  · simp only [bind, Except.bind] at h
    split at h
    · contradiction
    · cases h; exact w

/-- After power-on, device memory and the scratchpad have the canonical form. -/
theorem State.reset_hbm_wf : State.reset.hbm.wf = true := rfl
theorem State.reset_mem_wf : State.reset.core.mem.wf = true := rfl

end Sys2Proof.Machine
end

