-- ==== Sys2Proof/Laws/Canonical.lean ====
section
/-! SUPPORT. The canonical form of device memory and of every scratchpad through the shared operations: the few that write a memory keep it, and
every other one leaves the memories alone. -/

namespace Sys2Proof.Machine

/-- Device memory and every core's scratchpad have their canonical form. -/
def State.memOk (s : State) : Prop := s.hbm.wf = true ∧ ∀ c ∈ s.cores, c.mem.wf = true

/-- After power-on they have it. -/
theorem State.memOk_reset : State.reset.memOk := ⟨rfl, fun c hc => by simp only [State.cores, State.reset, List.mem_singleton] at hc; subst hc; rfl⟩

/-- A state whose device memory is in form, and each of whose cores is in form or has the scratchpad of a core of a state that is, is. -/
theorem State.memOk_of {s t : State} (w : s.memOk) (hh : t.hbm.wf = true)
    (hc : ∀ c ∈ t.cores, c.mem.wf = true ∨ ∃ d ∈ s.cores, c.mem = d.mem) : t.memOk :=
  ⟨hh, fun c h => (hc c h).elim id fun ⟨d, hd, e⟩ => e ▸ w.2 d hd⟩

/-- A state with the same device memory and cores. -/
theorem State.memOk_congr {s t : State} (w : s.memOk) (hh : t.hbm = s.hbm) (hc : t.cores = s.cores) : t.memOk :=
  ⟨hh ▸ w.1, hc ▸ w.2⟩

theorem State.memOk_withCore {s : State} {c : Core} (w : s.memOk) (hc : c.mem.wf = true) : (s.withCore c).memOk :=
  ⟨w.1, fun d hd => (List.mem_cons.mp hd).elim (fun e => e ▸ hc) (fun h => w.2 d (List.mem_cons_of_mem _ h))⟩

/-- A change of cores that keeps the form of each. -/
theorem State.memOk_mapCores {s : State} (w : s.memOk) (p : Core → Bool) (f : Core → Core)
    (hf : ∀ c ∈ s.cores, c.mem.wf = true → (f c).mem.wf = true) : (s.mapCores p f).memOk := by
  refine ⟨w.1, fun c hc => ?_⟩
  rw [State.cores_mapCores] at hc
  obtain ⟨d, hd, rfl⟩ := List.mem_map.mp hc
  split
  · exact hf d hd (w.2 d hd)
  · exact w.2 d hd

theorem State.memOk_updCore {s : State} (w : s.memOk) (id : CoreId) (f : Core → Core)
    (hf : ∀ c ∈ s.cores, c.mem.wf = true → (f c).mem.wf = true) : (s.updCore id f).memOk := State.memOk_mapCores w _ f hf

theorem State.memOk_focus {s : State} (w : s.memOk) (id : CoreId) : (s.focus id).memOk := by
  unfold State.focus
  split
  · exact w
  · split
    · rename_i c hc
      refine State.memOk_of w w.1 fun d hd => Or.inr ⟨d, ?_, rfl⟩
      simp only [State.cores, List.mem_cons, List.mem_append, List.mem_filter, List.not_mem_nil, or_false] at hd ⊢
      obtain rfl | ⟨h, -⟩ | rfl := hd
      · exact Or.inr (List.mem_of_find?_eq_some hc)
      · exact Or.inr h
      · exact Or.inl rfl
    · exact w

theorem State.memOk_hbmWrite {s : State} (w : s.memOk) (pa : Nat) (bs : List Byte) : (s.hbmWrite pa bs).memOk := ⟨Mem.setN_wf pa bs w.1, w.2⟩
theorem State.memOk_updLaunch {s : State} (w : s.memOk) (h : Nat) (f : Launch → Launch) : (s.updLaunch h f).memOk := State.memOk_congr w rfl rfl
theorem State.memOk_updCtx {s : State} (w : s.memOk) (n : Nat) (f : Ctx → Ctx) : (s.updCtx n f).memOk := State.memOk_congr w rfl rfl
theorem State.memOk_updQueue {s : State} (w : s.memOk) (q : Nat) (f : LQueue → LQueue) : (s.updQueue q f).memOk := State.memOk_congr w rfl rfl
theorem State.memOk_updSlot {s : State} (w : s.memOk) (i : Nat) (f : SlotRec → SlotRec) : (s.updSlot i f).memOk := State.memOk_congr w rfl rfl
theorem State.memOk_updMgmt {s : State} (w : s.memOk) (f : Mgmt → Mgmt) : (s.updMgmt f).memOk := State.memOk_congr w rfl rfl

/-- A core bound keeps the form of the others. -/
theorem State.memOk_addCore {s : State} {c : Core} (w : s.memOk) (hc : c.mem.wf = true) : (s.addCore c).memOk := by
  unfold State.addCore
  split
  · exact State.memOk_withCore w hc
  · refine ⟨w.1, fun d hd => ?_⟩
    simp only [State.cores, List.mem_cons, List.mem_append, List.not_mem_nil, or_false] at hd
    obtain rfl | h | rfl := hd
    · exact w.2 _ (List.mem_cons_self ..)
    · exact w.2 _ (List.mem_cons_of_mem _ h)
    · exact hc

/-! ### The operations that give a core another scratchpad -/

/-- Pieces written one after another. -/
theorem Mem.foldl_setN_wf {α : Type} (l : List α) (at_ : α → Nat) (bs : α → List Byte) {m : Mem} (w : m.wf = true) :
    (l.foldl (fun m p => m.setN (at_ p) (bs p)) m).wf = true := by
  induction l generalizing m with
  | nil => exact w
  | cons a t ih => exact ih (Mem.setN_wf _ _ w)

/-- The scratchpad at entry, R33. -/
theorem entryCore_mem_wf (l : Launch) (id : CoreId) (ix : Nat) (pos : Nat × Nat) (now : Nat) : (entryCore l id ix pos now).mem.wf = true := by
  simp only [entryCore, apply_ite Core.mem, ite_self]
  generalize launchPage l id.lc = page
  exact Mem.setN_wf (m := l.kern.lmem.foldl (fun (m : Mem) p => m.setN p.1 p.2) []) _ page
    (Mem.foldl_setN_wf l.kern.lmem (fun p => p.1) (fun p => p.2) Mem.wf_nil)

/-- The scratchpad after a rollback, R360. -/
theorem Core.rolledBack_mem_wf {c : Core} (w : c.mem.wf = true) : c.rolledBack.mem.wf = true := by
  unfold Core.rolledBack
  split
  · exact w
  · exact Mem.foldl_setN_wf _ _ _ w

/-- One run of lines restored, R342, R345. -/
theorem Core.setLines_mem_wf {c : Core} (p : List Byte) (w : c.mem.wf = true) : (c.setLines p).mem.wf = true := Mem.setN_wf _ _ w

end Sys2Proof.Machine
end

