-- ==== Sys2Proof/Laws/Cycle.lean ====
section
/-! SUPPORT. What a cycle that a die loses leaves alone, and which cores act in a cycle (spec/20_attachment.md R385, R386). -/

namespace Sys2Proof.Machine

/-! ### The cores that act -/

theorem firstOf_some {α : Type} {f : Core → Option α} {l : List Core} {a : α} (h : firstOf f l = some a) :
    ∃ c ∈ l, f c = some a := by
  induction l with
  | nil => simp [firstOf] at h
  | cons c t ih =>
    unfold firstOf at h
    split at h
    · rename_i b hb; cases h; exact ⟨c, by simp, hb⟩
    · obtain ⟨d, hd, hf⟩ := ih h; exact ⟨d, by simp [hd], hf⟩

theorem State.mem_live {s : State} {c : Core} : c ∈ s.live ↔ c ∈ s.cores ∧ s.withheld c.die = false := by
  simp [live]

/-- A core found among the live ones has an identity in the package, and its die keeps the cycle. -/
theorem State.live_found {s : State} {p : Core → Bool} {id : CoreId}
    (h : firstOf (fun c => if p c then some c.id else none) s.live = some id) :
    ∃ c ∈ s.cores, c.id = id ∧ p c = true ∧ s.withheld c.die = false := by
  obtain ⟨c, hc, hf⟩ := firstOf_some h
  split at hf
  · rename_i hp
    exact ⟨c, (mem_live.mp hc).1, by simpa using hf, hp, (mem_live.mp hc).2⟩
  · cases hf

/-- The firmware's steps are events, kills and rollbacks, and no issues. -/
theorem State.firmware_l3_ne {id : CoreId} {f : Launch → Option Todo} (hf : ∀ l, f l ≠ some (.issue id)) :
    ∀ l, State.firmware.l3 l f ≠ some (.issue id)
  | [] => by simp [State.firmware.l3]
  | l :: t => by
    unfold State.firmware.l3
    split
    · rename_i x hx; intro h; cases h; exact hf _ hx
    · exact State.firmware_l3_ne hf t
theorem State.firmware_ne {s : State} {id : CoreId} : s.firmware ≠ some (.issue id) := by
  intro h
  unfold State.firmware at h
  split at h
  · cases h
  · refine State.firmware_l3_ne (fun l hl => ?_) _ h
    dsimp only at hl
    repeat' (split at hl <;> try cases hl)

/-! ### A lost cycle -/

variable (now : Nat) (c : Core)

@[simp] theorem Core.delay_id : (c.delay now).id = c.id := rfl
@[simp] theorem Core.delay_run : (c.delay now).run = c.run := rfl
@[simp] theorem Core.delay_pc : (c.delay now).pc = c.pc := rfl
@[simp] theorem Core.delay_arch : (c.delay now).arch = c.arch := rfl
@[simp] theorem Core.delay_ckpt : (c.delay now).ckpt = c.ckpt := rfl
@[simp] theorem Core.delay_regpc : (c.delay now).regpc = c.regpc := rfl
@[simp] theorem Core.delay_mem : (c.delay now).mem = c.mem := rfl
@[simp] theorem Core.delay_rings : (c.delay now).rings = c.rings := rfl
@[simp] theorem Core.delay_erings : (c.delay now).erings = c.erings := rfl
@[simp] theorem Core.delay_sbuf : (c.delay now).sbuf = c.sbuf := rfl
@[simp] theorem Core.delay_cycles : (c.delay now).cycles = c.cycles := rfl
@[simp] theorem Core.delay_eseq : (c.delay now).eseq = c.eseq := rfl
@[simp] theorem Core.delay_issued : (c.delay now).issued = c.issued := rfl

theorem putOff_gt (t : Nat) : now < putOff now t ∨ putOff now t = t ∧ t < now := by
  unfold putOff; split <;> omega

/-- A cycle that no die loses puts nothing off. -/
theorem State.loseCycle_none {s : State} (h : s.mgmt.lost = 0) : s.loseCycle = s := by
  unfold loseCycle; rw [if_pos h]

end Sys2Proof.Machine
end

