-- ==== Sys2Proof/Laws/Encoding.lean ====
section
/-! SUPPORT. Reading a field of an encoded word gives the field that was encoded: one lemma per format and field. -/

set_option linter.unusedSimpArgs false

namespace Sys2Proof

/-- A field above the low part of a concatenation. -/
theorem extract_hi {w v : Nat} (s k : Nat) (x : BitVec w) (y : BitVec v) (h : v ≤ s) :
    (x ++ y).extractLsb' s k = x.extractLsb' (s - v) k := by
  apply BitVec.eq_of_getLsbD_eq
  intro i hi
  simp [BitVec.getLsbD_append, show ¬ (s + i < v) by omega, show s + i - v = s - v + i by omega]

/-- A field inside the low part of a concatenation. -/
theorem extract_lo {w v : Nat} (s k : Nat) (x : BitVec w) (y : BitVec v) (h : s + k ≤ v) :
    (x ++ y).extractLsb' s k = y.extractLsb' s k := by
  apply BitVec.eq_of_getLsbD_eq
  intro i hi
  simp [BitVec.getLsbD_append, show (s + i < v) by omega]

/-- A bit above the low part of a concatenation. -/
theorem bit_hi {w v : Nat} (s : Nat) (x : BitVec w) (y : BitVec v) (h : v ≤ s) :
    (x ++ y).getLsbD s = x.getLsbD (s - v) := by
  simp [BitVec.getLsbD_append, show ¬ (s < v) by omega]

/-- A bit inside the low part of a concatenation. -/
theorem bit_lo {w v : Nat} (s : Nat) (x : BitVec w) (y : BitVec v) (h : s < v) :
    (x ++ y).getLsbD s = y.getLsbD s := by
  simp [BitVec.getLsbD_append, h]


/-! ### The R format -/

@[simp] theorem word_encR (maj : BitVec 6) (sel : BitVec 5) (m3 : BitVec 3) (lb la : Bool) (b a d : XReg) : (encR maj sel m3 lb la b a d).getLsbD 0 = true := by
  change @BitVec.getLsbD (5+3+1+1+5+5+5+6+1) _ 0 = _
  simp (disch := decide) only [encR, bit_hi, bit_lo]
  try simp

@[simp] theorem majW_encR (maj : BitVec 6) (sel : BitVec 5) (m3 : BitVec 3) (lb la : Bool) (b a d : XReg) : majW (encR maj sel m3 lb la b a d) = maj := by
  change @BitVec.extractLsb' (5+3+1+1+5+5+5+6+1) 1 6 _ = _
  simp (disch := decide) only [encR, extract_hi, extract_lo]
  try simp

@[simp] theorem selR_encR (maj : BitVec 6) (sel : BitVec 5) (m3 : BitVec 3) (lb la : Bool) (b a d : XReg) : selR (encR maj sel m3 lb la b a d) = sel := by
  change @BitVec.extractLsb' (5+3+1+1+5+5+5+6+1) 27 5 _ = _
  simp (disch := decide) only [encR, extract_hi, extract_lo]
  try simp

@[simp] theorem m3R_encR (maj : BitVec 6) (sel : BitVec 5) (m3 : BitVec 3) (lb la : Bool) (b a d : XReg) : m3R (encR maj sel m3 lb la b a d) = m3 := by
  change @BitVec.extractLsb' (5+3+1+1+5+5+5+6+1) 24 3 _ = _
  simp (disch := decide) only [encR, extract_hi, extract_lo]
  try simp

@[simp] theorem lbR_encR (maj : BitVec 6) (sel : BitVec 5) (m3 : BitVec 3) (lb la : Bool) (b a d : XReg) : lbR (encR maj sel m3 lb la b a d) = lb := by
  change @BitVec.getLsbD (5+3+1+1+5+5+5+6+1) _ 23 = _
  simp (disch := decide) only [encR, bit_hi, bit_lo]
  try simp

@[simp] theorem laR_encR (maj : BitVec 6) (sel : BitVec 5) (m3 : BitVec 3) (lb la : Bool) (b a d : XReg) : laR (encR maj sel m3 lb la b a d) = la := by
  change @BitVec.getLsbD (5+3+1+1+5+5+5+6+1) _ 22 = _
  simp (disch := decide) only [encR, bit_hi, bit_lo]
  try simp

@[simp] theorem bR_encR (maj : BitVec 6) (sel : BitVec 5) (m3 : BitVec 3) (lb la : Bool) (b a d : XReg) : bR (encR maj sel m3 lb la b a d) = b := by
  change (@BitVec.extractLsb' (5+3+1+1+5+5+5+6+1) 17 5 _).toFin = _
  simp (disch := decide) only [encR, extract_hi, extract_lo]
  try simp

@[simp] theorem aR_encR (maj : BitVec 6) (sel : BitVec 5) (m3 : BitVec 3) (lb la : Bool) (b a d : XReg) : aR (encR maj sel m3 lb la b a d) = a := by
  change (@BitVec.extractLsb' (5+3+1+1+5+5+5+6+1) 12 5 _).toFin = _
  simp (disch := decide) only [encR, extract_hi, extract_lo]
  try simp

@[simp] theorem dR_encR (maj : BitVec 6) (sel : BitVec 5) (m3 : BitVec 3) (lb la : Bool) (b a d : XReg) : dR (encR maj sel m3 lb la b a d) = d := by
  change (@BitVec.extractLsb' (5+3+1+1+5+5+5+6+1) 7 5 _).toFin = _
  simp (disch := decide) only [encR, extract_hi, extract_lo]
  try simp

@[simp] theorem m3hi_encR (maj : BitVec 6) (sel : BitVec 5) (m3 : BitVec 3) (lb la : Bool) (b a d : XReg) : (encR maj sel m3 lb la b a d).extractLsb' 25 2 = m3.extractLsb' 1 2 := by
  change @BitVec.extractLsb' (5+3+1+1+5+5+5+6+1) 25 2 _ = _
  simp (disch := decide) only [encR, extract_hi, extract_lo]
  try simp

@[simp] theorem m3bit_encR (maj : BitVec 6) (sel : BitVec 5) (m3 : BitVec 3) (lb la : Bool) (b a d : XReg) : (encR maj sel m3 lb la b a d).getLsbD 24 = m3.getLsbD 0 := by
  change @BitVec.getLsbD (5+3+1+1+5+5+5+6+1) _ 24 = _
  simp (disch := decide) only [encR, bit_hi, bit_lo]
  try simp

@[simp] theorem d0_encR (maj : BitVec 6) (sel : BitVec 5) (m3 : BitVec 3) (lb la : Bool) (b a d : XReg) : (encR maj sel m3 lb la b a d).extractLsb' 7 1 = (BitVec.ofFin (w := 5) d).extractLsb' 0 1 := by
  change @BitVec.extractLsb' (5+3+1+1+5+5+5+6+1) 7 1 _ = _
  simp (disch := decide) only [encR, extract_hi, extract_lo]
  try simp

@[simp] theorem d0x3_encR (maj : BitVec 6) (sel : BitVec 5) (m3 : BitVec 3) (lb la : Bool) (b a d : XReg) : (encR maj sel m3 lb la b a d).extractLsb' 7 3 = (BitVec.ofFin (w := 5) d).extractLsb' 0 3 := by
  change @BitVec.extractLsb' (5+3+1+1+5+5+5+6+1) 7 3 _ = _
  simp (disch := decide) only [encR, extract_hi, extract_lo]
  try simp

@[simp] theorem d3x2_encR (maj : BitVec 6) (sel : BitVec 5) (m3 : BitVec 3) (lb la : Bool) (b a d : XReg) : (encR maj sel m3 lb la b a d).extractLsb' 10 2 = (BitVec.ofFin (w := 5) d).extractLsb' 3 2 := by
  change @BitVec.extractLsb' (5+3+1+1+5+5+5+6+1) 10 2 _ = _
  simp (disch := decide) only [encR, extract_hi, extract_lo]
  try simp

@[simp] theorem d1x4_encR (maj : BitVec 6) (sel : BitVec 5) (m3 : BitVec 3) (lb la : Bool) (b a d : XReg) : (encR maj sel m3 lb la b a d).extractLsb' 8 4 = (BitVec.ofFin (w := 5) d).extractLsb' 1 4 := by
  change @BitVec.extractLsb' (5+3+1+1+5+5+5+6+1) 8 4 _ = _
  simp (disch := decide) only [encR, extract_hi, extract_lo]
  try simp

@[simp] theorem a0x3_encR (maj : BitVec 6) (sel : BitVec 5) (m3 : BitVec 3) (lb la : Bool) (b a d : XReg) : (encR maj sel m3 lb la b a d).extractLsb' 12 3 = (BitVec.ofFin (w := 5) a).extractLsb' 0 3 := by
  change @BitVec.extractLsb' (5+3+1+1+5+5+5+6+1) 12 3 _ = _
  simp (disch := decide) only [encR, extract_hi, extract_lo]
  try simp

@[simp] theorem a3x2_encR (maj : BitVec 6) (sel : BitVec 5) (m3 : BitVec 3) (lb la : Bool) (b a d : XReg) : (encR maj sel m3 lb la b a d).extractLsb' 15 2 = (BitVec.ofFin (w := 5) a).extractLsb' 3 2 := by
  change @BitVec.extractLsb' (5+3+1+1+5+5+5+6+1) 15 2 _ = _
  simp (disch := decide) only [encR, extract_hi, extract_lo]
  try simp

@[simp] theorem b0x3_encR (maj : BitVec 6) (sel : BitVec 5) (m3 : BitVec 3) (lb la : Bool) (b a d : XReg) : (encR maj sel m3 lb la b a d).extractLsb' 17 3 = (BitVec.ofFin (w := 5) b).extractLsb' 0 3 := by
  change @BitVec.extractLsb' (5+3+1+1+5+5+5+6+1) 17 3 _ = _
  simp (disch := decide) only [encR, extract_hi, extract_lo]
  try simp

@[simp] theorem b3x2_encR (maj : BitVec 6) (sel : BitVec 5) (m3 : BitVec 3) (lb la : Bool) (b a d : XReg) : (encR maj sel m3 lb la b a d).extractLsb' 20 2 = (BitVec.ofFin (w := 5) b).extractLsb' 3 2 := by
  change @BitVec.extractLsb' (5+3+1+1+5+5+5+6+1) 20 2 _ = _
  simp (disch := decide) only [encR, extract_hi, extract_lo]
  try simp

@[simp] theorem bAll_encR (maj : BitVec 6) (sel : BitVec 5) (m3 : BitVec 3) (lb la : Bool) (b a d : XReg) : (encR maj sel m3 lb la b a d).extractLsb' 17 5 = (BitVec.ofFin (w := 5) b).extractLsb' 0 5 := by
  change @BitVec.extractLsb' (5+3+1+1+5+5+5+6+1) 17 5 _ = _
  simp (disch := decide) only [encR, extract_hi, extract_lo]
  try simp

@[simp] theorem dbit_encR (maj : BitVec 6) (sel : BitVec 5) (m3 : BitVec 3) (lb la : Bool) (b a d : XReg) : (encR maj sel m3 lb la b a d).getLsbD 7 = (BitVec.ofFin (w := 5) d).getLsbD 0 := by
  change @BitVec.getLsbD (5+3+1+1+5+5+5+6+1) _ 7 = _
  simp (disch := decide) only [encR, bit_hi, bit_lo]
  try simp

/-! ### The E format -/

@[simp] theorem word_encE (sel eng : BitVec 4) (lb la : Bool) (b a d : XReg) : (encE sel eng lb la b a d).getLsbD 0 = true := by
  change @BitVec.getLsbD (4+4+1+1+5+5+5+6+1) _ 0 = _
  simp (disch := decide) only [encE, bit_hi, bit_lo]
  try simp

@[simp] theorem majW_encE (sel eng : BitVec 4) (lb la : Bool) (b a d : XReg) : majW (encE sel eng lb la b a d) = 0x17#6 := by
  change @BitVec.extractLsb' (4+4+1+1+5+5+5+6+1) 1 6 _ = _
  simp (disch := decide) only [encE, extract_hi, extract_lo]
  try simp

@[simp] theorem selE_encE (sel eng : BitVec 4) (lb la : Bool) (b a d : XReg) : selE (encE sel eng lb la b a d) = sel := by
  change @BitVec.extractLsb' (4+4+1+1+5+5+5+6+1) 28 4 _ = _
  simp (disch := decide) only [encE, extract_hi, extract_lo]
  try simp

@[simp] theorem engE_encE (sel eng : BitVec 4) (lb la : Bool) (b a d : XReg) : engE (encE sel eng lb la b a d) = eng := by
  change @BitVec.extractLsb' (4+4+1+1+5+5+5+6+1) 24 4 _ = _
  simp (disch := decide) only [encE, extract_hi, extract_lo]
  try simp

@[simp] theorem lbR_encE (sel eng : BitVec 4) (lb la : Bool) (b a d : XReg) : lbR (encE sel eng lb la b a d) = lb := by
  change @BitVec.getLsbD (4+4+1+1+5+5+5+6+1) _ 23 = _
  simp (disch := decide) only [encE, bit_hi, bit_lo]
  try simp

@[simp] theorem laR_encE (sel eng : BitVec 4) (lb la : Bool) (b a d : XReg) : laR (encE sel eng lb la b a d) = la := by
  change @BitVec.getLsbD (4+4+1+1+5+5+5+6+1) _ 22 = _
  simp (disch := decide) only [encE, bit_hi, bit_lo]
  try simp

@[simp] theorem bR_encE (sel eng : BitVec 4) (lb la : Bool) (b a d : XReg) : bR (encE sel eng lb la b a d) = b := by
  change (@BitVec.extractLsb' (4+4+1+1+5+5+5+6+1) 17 5 _).toFin = _
  simp (disch := decide) only [encE, extract_hi, extract_lo]
  try simp

@[simp] theorem aR_encE (sel eng : BitVec 4) (lb la : Bool) (b a d : XReg) : aR (encE sel eng lb la b a d) = a := by
  change (@BitVec.extractLsb' (4+4+1+1+5+5+5+6+1) 12 5 _).toFin = _
  simp (disch := decide) only [encE, extract_hi, extract_lo]
  try simp

@[simp] theorem dR_encE (sel eng : BitVec 4) (lb la : Bool) (b a d : XReg) : dR (encE sel eng lb la b a d) = d := by
  change (@BitVec.extractLsb' (4+4+1+1+5+5+5+6+1) 7 5 _).toFin = _
  simp (disch := decide) only [encE, extract_hi, extract_lo]
  try simp

/-! ### The I format -/

@[simp] theorem word_encI (maj : BitVec 6) (sel : BitVec 3) (imm : BitVec 11) (la : Bool) (a d : XReg) : (encI maj sel imm la a d).getLsbD 0 = true := by
  change @BitVec.getLsbD (11+3+1+5+5+6+1) _ 0 = _
  simp (disch := decide) only [encI, bit_hi, bit_lo]
  try simp

@[simp] theorem majW_encI (maj : BitVec 6) (sel : BitVec 3) (imm : BitVec 11) (la : Bool) (a d : XReg) : majW (encI maj sel imm la a d) = maj := by
  change @BitVec.extractLsb' (11+3+1+5+5+6+1) 1 6 _ = _
  simp (disch := decide) only [encI, extract_hi, extract_lo]
  try simp

@[simp] theorem selI_encI (maj : BitVec 6) (sel : BitVec 3) (imm : BitVec 11) (la : Bool) (a d : XReg) : selI (encI maj sel imm la a d) = sel := by
  change @BitVec.extractLsb' (11+3+1+5+5+6+1) 18 3 _ = _
  simp (disch := decide) only [encI, extract_hi, extract_lo]
  try simp

@[simp] theorem imm11_encI (maj : BitVec 6) (sel : BitVec 3) (imm : BitVec 11) (la : Bool) (a d : XReg) : imm11 (encI maj sel imm la a d) = imm := by
  change @BitVec.extractLsb' (11+3+1+5+5+6+1) 21 11 _ = _
  simp (disch := decide) only [encI, extract_hi, extract_lo]
  try simp

@[simp] theorem laI_encI (maj : BitVec 6) (sel : BitVec 3) (imm : BitVec 11) (la : Bool) (a d : XReg) : laI (encI maj sel imm la a d) = la := by
  change @BitVec.getLsbD (11+3+1+5+5+6+1) _ 17 = _
  simp (disch := decide) only [encI, bit_hi, bit_lo]
  try simp

@[simp] theorem aR_encI (maj : BitVec 6) (sel : BitVec 3) (imm : BitVec 11) (la : Bool) (a d : XReg) : aR (encI maj sel imm la a d) = a := by
  change (@BitVec.extractLsb' (11+3+1+5+5+6+1) 12 5 _).toFin = _
  simp (disch := decide) only [encI, extract_hi, extract_lo]
  try simp

@[simp] theorem dR_encI (maj : BitVec 6) (sel : BitVec 3) (imm : BitVec 11) (la : Bool) (a d : XReg) : dR (encI maj sel imm la a d) = d := by
  change (@BitVec.extractLsb' (11+3+1+5+5+6+1) 7 5 _).toFin = _
  simp (disch := decide) only [encI, extract_hi, extract_lo]
  try simp

@[simp] theorem sh6_encI (maj : BitVec 6) (sel : BitVec 3) (imm : BitVec 11) (la : Bool) (a d : XReg) : (encI maj sel imm la a d).extractLsb' 21 6 = imm.extractLsb' 0 6 := by
  change @BitVec.extractLsb' (11+3+1+5+5+6+1) 21 6 _ = _
  simp (disch := decide) only [encI, extract_hi, extract_lo]
  try simp

@[simp] theorem sh5_encI (maj : BitVec 6) (sel : BitVec 3) (imm : BitVec 11) (la : Bool) (a d : XReg) : (encI maj sel imm la a d).extractLsb' 21 5 = imm.extractLsb' 0 5 := by
  change @BitVec.extractLsb' (11+3+1+5+5+6+1) 21 5 _ = _
  simp (disch := decide) only [encI, extract_hi, extract_lo]
  try simp

@[simp] theorem shHi5_encI (maj : BitVec 6) (sel : BitVec 3) (imm : BitVec 11) (la : Bool) (a d : XReg) : (encI maj sel imm la a d).extractLsb' 27 5 = imm.extractLsb' 6 5 := by
  change @BitVec.extractLsb' (11+3+1+5+5+6+1) 27 5 _ = _
  simp (disch := decide) only [encI, extract_hi, extract_lo]
  try simp

@[simp] theorem shHi6_encI (maj : BitVec 6) (sel : BitVec 3) (imm : BitVec 11) (la : Bool) (a d : XReg) : (encI maj sel imm la a d).extractLsb' 26 6 = imm.extractLsb' 5 6 := by
  change @BitVec.extractLsb' (11+3+1+5+5+6+1) 26 6 _ = _
  simp (disch := decide) only [encI, extract_hi, extract_lo]
  try simp

@[simp] theorem lim8_encI (maj : BitVec 6) (sel : BitVec 3) (imm : BitVec 11) (la : Bool) (a d : XReg) : (encI maj sel imm la a d).extractLsb' 21 8 = imm.extractLsb' 0 8 := by
  change @BitVec.extractLsb' (11+3+1+5+5+6+1) 21 8 _ = _
  simp (disch := decide) only [encI, extract_hi, extract_lo]
  try simp

@[simp] theorem limHi_encI (maj : BitVec 6) (sel : BitVec 3) (imm : BitVec 11) (la : Bool) (a d : XReg) : (encI maj sel imm la a d).extractLsb' 29 3 = imm.extractLsb' 8 3 := by
  change @BitVec.extractLsb' (11+3+1+5+5+6+1) 29 3 _ = _
  simp (disch := decide) only [encI, extract_hi, extract_lo]
  try simp

@[simp] theorem d1x4_encI (maj : BitVec 6) (sel : BitVec 3) (imm : BitVec 11) (la : Bool) (a d : XReg) : (encI maj sel imm la a d).extractLsb' 8 4 = (BitVec.ofFin (w := 5) d).extractLsb' 1 4 := by
  change @BitVec.extractLsb' (11+3+1+5+5+6+1) 8 4 _ = _
  simp (disch := decide) only [encI, extract_hi, extract_lo]
  try simp

@[simp] theorem d0_encI (maj : BitVec 6) (sel : BitVec 3) (imm : BitVec 11) (la : Bool) (a d : XReg) : (encI maj sel imm la a d).extractLsb' 7 1 = (BitVec.ofFin (w := 5) d).extractLsb' 0 1 := by
  change @BitVec.extractLsb' (11+3+1+5+5+6+1) 7 1 _ = _
  simp (disch := decide) only [encI, extract_hi, extract_lo]
  try simp

@[simp] theorem aAll_encI (maj : BitVec 6) (sel : BitVec 3) (imm : BitVec 11) (la : Bool) (a d : XReg) : (encI maj sel imm la a d).extractLsb' 12 5 = BitVec.ofFin (w := 5) a := by
  change @BitVec.extractLsb' (11+3+1+5+5+6+1) 12 5 _ = _
  simp (disch := decide) only [encI, extract_hi, extract_lo]
  try simp

/-! ### The S and B formats -/

@[simp] theorem word_encS (sel : BitVec 2) (r : SOp) : (encS sel r).getLsbD 0 = true := by
  change @BitVec.getLsbD (6+2+1+1+5+5+5+6+1) _ 0 = _
  simp (disch := decide) only [encS, bit_hi, bit_lo]
  try simp

@[simp] theorem majW_encS (sel : BitVec 2) (r : SOp) : majW (encS sel r) = 0x09#6 := by
  change @BitVec.extractLsb' (6+2+1+1+5+5+5+6+1) 1 6 _ = _
  simp (disch := decide) only [encS, extract_hi, extract_lo]
  try simp

@[simp] theorem selS_encS (sel : BitVec 2) (r : SOp) : selS (encS sel r) = sel := by
  change @BitVec.extractLsb' (6+2+1+1+5+5+5+6+1) 24 2 _ = _
  simp (disch := decide) only [encS, extract_hi, extract_lo]
  try simp

@[simp] theorem lbR_encS (sel : BitVec 2) (r : SOp) : lbR (encS sel r) = r.lb := by
  change @BitVec.getLsbD (6+2+1+1+5+5+5+6+1) _ 23 = _
  simp (disch := decide) only [encS, bit_hi, bit_lo]
  try simp

@[simp] theorem laR_encS (sel : BitVec 2) (r : SOp) : laR (encS sel r) = r.la := by
  change @BitVec.getLsbD (6+2+1+1+5+5+5+6+1) _ 22 = _
  simp (disch := decide) only [encS, bit_hi, bit_lo]
  try simp

@[simp] theorem bR_encS (sel : BitVec 2) (r : SOp) : bR (encS sel r) = r.b := by
  change (@BitVec.extractLsb' (6+2+1+1+5+5+5+6+1) 17 5 _).toFin = _
  simp (disch := decide) only [encS, extract_hi, extract_lo]
  try simp

@[simp] theorem aR_encS (sel : BitVec 2) (r : SOp) : aR (encS sel r) = r.a := by
  change (@BitVec.extractLsb' (6+2+1+1+5+5+5+6+1) 12 5 _).toFin = _
  simp (disch := decide) only [encS, extract_hi, extract_lo]
  try simp

@[simp] theorem immLo_encS (sel : BitVec 2) (r : SOp) : (encS sel r).extractLsb' 7 5 = r.imm.extractLsb' 0 5 := by
  change @BitVec.extractLsb' (6+2+1+1+5+5+5+6+1) 7 5 _ = _
  simp (disch := decide) only [encS, extract_hi, extract_lo]
  try simp

@[simp] theorem immHi_encS (sel : BitVec 2) (r : SOp) : (encS sel r).extractLsb' 26 6 = r.imm.extractLsb' 5 6 := by
  change @BitVec.extractLsb' (6+2+1+1+5+5+5+6+1) 26 6 _ = _
  simp (disch := decide) only [encS, extract_hi, extract_lo]
  try simp

@[simp] theorem word_encB (sel : BitVec 3) (r : BOp) : (encB sel r).getLsbD 0 = true := by
  change @BitVec.getLsbD (5+3+1+1+5+5+5+6+1) _ 0 = _
  simp (disch := decide) only [encB, bit_hi, bit_lo]
  try simp

@[simp] theorem majW_encB (sel : BitVec 3) (r : BOp) : majW (encB sel r) = 0x10#6 := by
  change @BitVec.extractLsb' (5+3+1+1+5+5+5+6+1) 1 6 _ = _
  simp (disch := decide) only [encB, extract_hi, extract_lo]
  try simp

@[simp] theorem selB_encB (sel : BitVec 3) (r : BOp) : selB (encB sel r) = sel := by
  change @BitVec.extractLsb' (5+3+1+1+5+5+5+6+1) 24 3 _ = _
  simp (disch := decide) only [encB, extract_hi, extract_lo]
  try simp

@[simp] theorem lbR_encB (sel : BitVec 3) (r : BOp) : lbR (encB sel r) = r.lb := by
  change @BitVec.getLsbD (5+3+1+1+5+5+5+6+1) _ 23 = _
  simp (disch := decide) only [encB, bit_hi, bit_lo]
  try simp

@[simp] theorem laR_encB (sel : BitVec 3) (r : BOp) : laR (encB sel r) = r.la := by
  change @BitVec.getLsbD (5+3+1+1+5+5+5+6+1) _ 22 = _
  simp (disch := decide) only [encB, bit_hi, bit_lo]
  try simp

@[simp] theorem bR_encB (sel : BitVec 3) (r : BOp) : bR (encB sel r) = r.b := by
  change (@BitVec.extractLsb' (5+3+1+1+5+5+5+6+1) 17 5 _).toFin = _
  simp (disch := decide) only [encB, extract_hi, extract_lo]
  try simp

@[simp] theorem aR_encB (sel : BitVec 3) (r : BOp) : aR (encB sel r) = r.a := by
  change (@BitVec.extractLsb' (5+3+1+1+5+5+5+6+1) 12 5 _).toFin = _
  simp (disch := decide) only [encB, extract_hi, extract_lo]
  try simp

@[simp] theorem immLo_encB (sel : BitVec 3) (r : BOp) : (encB sel r).extractLsb' 7 5 = r.off.extractLsb' 0 5 := by
  change @BitVec.extractLsb' (5+3+1+1+5+5+5+6+1) 7 5 _ = _
  simp (disch := decide) only [encB, extract_hi, extract_lo]
  try simp

@[simp] theorem immHi_encB (sel : BitVec 3) (r : BOp) : (encB sel r).extractLsb' 27 5 = r.off.extractLsb' 5 5 := by
  change @BitVec.extractLsb' (5+3+1+1+5+5+5+6+1) 27 5 _ = _
  simp (disch := decide) only [encB, extract_hi, extract_lo]
  try simp

/-! ### The U and J formats -/

@[simp] theorem word_encU (maj : BitVec 6) (r : UOp) : (encU maj r).getLsbD 0 = true := by
  change @BitVec.getLsbD (20+5+6+1) _ 0 = _
  simp (disch := decide) only [encU, bit_hi, bit_lo]
  try simp

@[simp] theorem majW_encU (maj : BitVec 6) (r : UOp) : majW (encU maj r) = maj := by
  change @BitVec.extractLsb' (20+5+6+1) 1 6 _ = _
  simp (disch := decide) only [encU, extract_hi, extract_lo]
  try simp

@[simp] theorem dR_encU (maj : BitVec 6) (r : UOp) : dR (encU maj r) = r.d := by
  change (@BitVec.extractLsb' (20+5+6+1) 7 5 _).toFin = _
  simp (disch := decide) only [encU, extract_hi, extract_lo]
  try simp

@[simp] theorem imm20_encU (maj : BitVec 6) (r : UOp) : (encU maj r).extractLsb' 12 20 = r.imm := by
  change @BitVec.extractLsb' (20+5+6+1) 12 20 _ = _
  simp (disch := decide) only [encU, extract_hi, extract_lo]
  try simp

/-! ### The L format -/

@[simp] theorem word_encL (maj sel : BitVec 6) (es : Fin 4) (km : KReg) (lb la : Bool) (vb va vd : VReg) : (encL maj sel es km lb la vb va vd).getLsbD 0 = true := by
  change @BitVec.getLsbD (6+2+3+1+1+4+4+4+6+1) _ 0 = _
  simp (disch := decide) only [encL, bit_hi, bit_lo]
  try simp

@[simp] theorem majW_encL (maj sel : BitVec 6) (es : Fin 4) (km : KReg) (lb la : Bool) (vb va vd : VReg) : majW (encL maj sel es km lb la vb va vd) = maj := by
  change @BitVec.extractLsb' (6+2+3+1+1+4+4+4+6+1) 1 6 _ = _
  simp (disch := decide) only [encL, extract_hi, extract_lo]
  try simp

@[simp] theorem selL_encL (maj sel : BitVec 6) (es : Fin 4) (km : KReg) (lb la : Bool) (vb va vd : VReg) : selL (encL maj sel es km lb la vb va vd) = sel := by
  change @BitVec.extractLsb' (6+2+3+1+1+4+4+4+6+1) 26 6 _ = _
  simp (disch := decide) only [encL, extract_hi, extract_lo]
  try simp

@[simp] theorem esL_encL (maj sel : BitVec 6) (es : Fin 4) (km : KReg) (lb la : Bool) (vb va vd : VReg) : esL (encL maj sel es km lb la vb va vd) = es := by
  change (@BitVec.extractLsb' (6+2+3+1+1+4+4+4+6+1) 24 2 _).toFin = _
  simp (disch := decide) only [encL, extract_hi, extract_lo]
  try simp

@[simp] theorem kmL_encL (maj sel : BitVec 6) (es : Fin 4) (km : KReg) (lb la : Bool) (vb va vd : VReg) : kmL (encL maj sel es km lb la vb va vd) = km := by
  change (@BitVec.extractLsb' (6+2+3+1+1+4+4+4+6+1) 21 3 _).toFin = _
  simp (disch := decide) only [encL, extract_hi, extract_lo]
  try simp

@[simp] theorem lbL_encL (maj sel : BitVec 6) (es : Fin 4) (km : KReg) (lb la : Bool) (vb va vd : VReg) : lbL (encL maj sel es km lb la vb va vd) = lb := by
  change @BitVec.getLsbD (6+2+3+1+1+4+4+4+6+1) _ 20 = _
  simp (disch := decide) only [encL, bit_hi, bit_lo]
  try simp

@[simp] theorem laL_encL (maj sel : BitVec 6) (es : Fin 4) (km : KReg) (lb la : Bool) (vb va vd : VReg) : laL (encL maj sel es km lb la vb va vd) = la := by
  change @BitVec.getLsbD (6+2+3+1+1+4+4+4+6+1) _ 19 = _
  simp (disch := decide) only [encL, bit_hi, bit_lo]
  try simp

@[simp] theorem vbL_encL (maj sel : BitVec 6) (es : Fin 4) (km : KReg) (lb la : Bool) (vb va vd : VReg) : vbL (encL maj sel es km lb la vb va vd) = vb := by
  change (@BitVec.extractLsb' (6+2+3+1+1+4+4+4+6+1) 15 4 _).toFin = _
  simp (disch := decide) only [encL, extract_hi, extract_lo]
  try simp

@[simp] theorem vaL_encL (maj sel : BitVec 6) (es : Fin 4) (km : KReg) (lb la : Bool) (vb va vd : VReg) : vaL (encL maj sel es km lb la vb va vd) = va := by
  change (@BitVec.extractLsb' (6+2+3+1+1+4+4+4+6+1) 11 4 _).toFin = _
  simp (disch := decide) only [encL, extract_hi, extract_lo]
  try simp

@[simp] theorem vdL_encL (maj sel : BitVec 6) (es : Fin 4) (km : KReg) (lb la : Bool) (vb va vd : VReg) : vdL (encL maj sel es km lb la vb va vd) = vd := by
  change (@BitVec.extractLsb' (6+2+3+1+1+4+4+4+6+1) 7 4 _).toFin = _
  simp (disch := decide) only [encL, extract_hi, extract_lo]
  try simp

@[simp] theorem vd0x3_encL (maj sel : BitVec 6) (es : Fin 4) (km : KReg) (lb la : Bool) (vb va vd : VReg) : (encL maj sel es km lb la vb va vd).extractLsb' 7 3 = (BitVec.ofFin (w := 4) vd).extractLsb' 0 3 := by
  change @BitVec.extractLsb' (6+2+3+1+1+4+4+4+6+1) 7 3 _ = _
  simp (disch := decide) only [encL, extract_hi, extract_lo]
  try simp

@[simp] theorem vd3_encL (maj sel : BitVec 6) (es : Fin 4) (km : KReg) (lb la : Bool) (vb va vd : VReg) : (encL maj sel es km lb la vb va vd).getLsbD 10 = (BitVec.ofFin (w := 4) vd).getLsbD 3 := by
  change @BitVec.getLsbD (6+2+3+1+1+4+4+4+6+1) _ 10 = _
  simp (disch := decide) only [encL, bit_hi, bit_lo]
  try simp

@[simp] theorem va0x3_encL (maj sel : BitVec 6) (es : Fin 4) (km : KReg) (lb la : Bool) (vb va vd : VReg) : (encL maj sel es km lb la vb va vd).extractLsb' 11 3 = (BitVec.ofFin (w := 4) va).extractLsb' 0 3 := by
  change @BitVec.extractLsb' (6+2+3+1+1+4+4+4+6+1) 11 3 _ = _
  simp (disch := decide) only [encL, extract_hi, extract_lo]
  try simp

@[simp] theorem va3_encL (maj sel : BitVec 6) (es : Fin 4) (km : KReg) (lb la : Bool) (vb va vd : VReg) : (encL maj sel es km lb la vb va vd).getLsbD 14 = (BitVec.ofFin (w := 4) va).getLsbD 3 := by
  change @BitVec.getLsbD (6+2+3+1+1+4+4+4+6+1) _ 14 = _
  simp (disch := decide) only [encL, bit_hi, bit_lo]
  try simp

@[simp] theorem vb0x3_encL (maj sel : BitVec 6) (es : Fin 4) (km : KReg) (lb la : Bool) (vb va vd : VReg) : (encL maj sel es km lb la vb va vd).extractLsb' 15 3 = (BitVec.ofFin (w := 4) vb).extractLsb' 0 3 := by
  change @BitVec.extractLsb' (6+2+3+1+1+4+4+4+6+1) 15 3 _ = _
  simp (disch := decide) only [encL, extract_hi, extract_lo]
  try simp

@[simp] theorem vb1x3_encL (maj sel : BitVec 6) (es : Fin 4) (km : KReg) (lb la : Bool) (vb va vd : VReg) : (encL maj sel es km lb la vb va vd).extractLsb' 16 3 = (BitVec.ofFin (w := 4) vb).extractLsb' 1 3 := by
  change @BitVec.extractLsb' (6+2+3+1+1+4+4+4+6+1) 16 3 _ = _
  simp (disch := decide) only [encL, extract_hi, extract_lo]
  try simp

@[simp] theorem vb0_encL (maj sel : BitVec 6) (es : Fin 4) (km : KReg) (lb la : Bool) (vb va vd : VReg) : (encL maj sel es km lb la vb va vd).getLsbD 15 = (BitVec.ofFin (w := 4) vb).getLsbD 0 := by
  change @BitVec.getLsbD (6+2+3+1+1+4+4+4+6+1) _ 15 = _
  simp (disch := decide) only [encL, bit_hi, bit_lo]
  try simp

@[simp] theorem vbAll_encL (maj sel : BitVec 6) (es : Fin 4) (km : KReg) (lb la : Bool) (vb va vd : VReg) : (encL maj sel es km lb la vb va vd).extractLsb' 15 4 = BitVec.ofFin (w := 4) vb := by
  change @BitVec.extractLsb' (6+2+3+1+1+4+4+4+6+1) 15 4 _ = _
  simp (disch := decide) only [encL, extract_hi, extract_lo]
  try simp

@[simp] theorem vd0x2_encL (maj sel : BitVec 6) (es : Fin 4) (km : KReg) (lb la : Bool) (vb va vd : VReg) : (encL maj sel es km lb la vb va vd).extractLsb' 7 2 = (BitVec.ofFin (w := 4) vd).extractLsb' 0 2 := by
  change @BitVec.extractLsb' (6+2+3+1+1+4+4+4+6+1) 7 2 _ = _
  simp (disch := decide) only [encL, extract_hi, extract_lo]
  try simp

@[simp] theorem vd2x2_encL (maj sel : BitVec 6) (es : Fin 4) (km : KReg) (lb la : Bool) (vb va vd : VReg) : (encL maj sel es km lb la vb va vd).extractLsb' 9 2 = (BitVec.ofFin (w := 4) vd).extractLsb' 2 2 := by
  change @BitVec.extractLsb' (6+2+3+1+1+4+4+4+6+1) 9 2 _ = _
  simp (disch := decide) only [encL, extract_hi, extract_lo]
  try simp

@[simp] theorem va0x2_encL (maj sel : BitVec 6) (es : Fin 4) (km : KReg) (lb la : Bool) (vb va vd : VReg) : (encL maj sel es km lb la vb va vd).extractLsb' 11 2 = (BitVec.ofFin (w := 4) va).extractLsb' 0 2 := by
  change @BitVec.extractLsb' (6+2+3+1+1+4+4+4+6+1) 11 2 _ = _
  simp (disch := decide) only [encL, extract_hi, extract_lo]
  try simp

@[simp] theorem es0_encL (maj sel : BitVec 6) (es : Fin 4) (km : KReg) (lb la : Bool) (vb va vd : VReg) : (encL maj sel es km lb la vb va vd).getLsbD 24 = (BitVec.ofFin (w := 2) es).getLsbD 0 := by
  change @BitVec.getLsbD (6+2+3+1+1+4+4+4+6+1) _ 24 = _
  simp (disch := decide) only [encL, bit_hi, bit_lo]
  try simp

@[simp] theorem es1_encL (maj sel : BitVec 6) (es : Fin 4) (km : KReg) (lb la : Bool) (vb va vd : VReg) : (encL maj sel es km lb la vb va vd).getLsbD 25 = (BitVec.ofFin (w := 2) es).getLsbD 1 := by
  change @BitVec.getLsbD (6+2+3+1+1+4+4+4+6+1) _ 25 = _
  simp (disch := decide) only [encL, bit_hi, bit_lo]
  try simp

/-! ### The compact formats -/

@[simp] theorem bit0_encCl (sel : BitVec 4) (r : ClOp) : (encCl sel r).getLsbD 0 = false := by
  change @BitVec.getLsbD (1+1+4+4+4+2) _ 0 = _
  simp (disch := decide) only [encCl, bit_hi, bit_lo]
  try simp

@[simp] theorem bit1_encCl (sel : BitVec 4) (r : ClOp) : (encCl sel r).getLsbD 1 = false := by
  change @BitVec.getLsbD (1+1+4+4+4+2) _ 1 = _
  simp (disch := decide) only [encCl, bit_hi, bit_lo]
  try simp

@[simp] theorem selCL_encCl (sel : BitVec 4) (r : ClOp) : selCL (encCl sel r) = sel := by
  change @BitVec.extractLsb' (1+1+4+4+4+2) 2 4 _ = _
  simp (disch := decide) only [encCl, extract_hi, extract_lo]
  try simp

@[simp] theorem clop_encCl (sel : BitVec 4) (r : ClOp) : clop (encCl sel r) = r := by
  have h1 : ((encCl sel r).extractLsb' 6 4).toFin = r.vd := by
    change (@BitVec.extractLsb' (1+1+4+4+4+2) 6 4 _).toFin = _
    simp (disch := decide) only [encCl, extract_hi, extract_lo]
    simp
  have h2 : ((encCl sel r).extractLsb' 10 4).toFin = r.vs := by
    change (@BitVec.extractLsb' (1+1+4+4+4+2) 10 4 _).toFin = _
    simp (disch := decide) only [encCl, extract_hi, extract_lo]
    simp
  have h3 : (encCl sel r).getLsbD 14 = r.ls := by
    change @BitVec.getLsbD (1+1+4+4+4+2) _ 14 = _
    simp (disch := decide) only [encCl, bit_hi, bit_lo]
    simp
  have h4 : (encCl sel r).getLsbD 15 = r.sz := by
    change @BitVec.getLsbD (1+1+4+4+4+2) _ 15 = _
    simp (disch := decide) only [encCl, bit_hi, bit_lo]
    simp
  simp only [clop, h1, h2, h3, h4]

/-- Only the word of CL.VADD with every field 0 is the halfword 0. -/
theorem encCl_eq_zero (sel : BitVec 4) (r : ClOp) (h : encCl sel r = 0) : sel = 0 ∧ r = ⟨0, 0, false, false⟩ := by
  constructor
  · rw [← selCL_encCl sel r, h]; decide
  · rw [← clop_encCl sel r, h]; decide


@[simp] theorem bit0_encCs (sel : BitVec 3) (imm : BitVec 6) (d : XReg) : (encCs sel imm d).getLsbD 0 = false := by
  change @BitVec.getLsbD (6+5+3+2) _ 0 = _
  simp (disch := decide) only [encCs, bit_hi, bit_lo]
  try simp

@[simp] theorem bit1_encCs (sel : BitVec 3) (imm : BitVec 6) (d : XReg) : (encCs sel imm d).getLsbD 1 = true := by
  change @BitVec.getLsbD (6+5+3+2) _ 1 = _
  simp (disch := decide) only [encCs, bit_hi, bit_lo]
  try simp

@[simp] theorem selCS_encCs (sel : BitVec 3) (imm : BitVec 6) (d : XReg) : selCS (encCs sel imm d) = sel := by
  change @BitVec.extractLsb' (6+5+3+2) 2 3 _ = _
  simp (disch := decide) only [encCs, extract_hi, extract_lo]
  try simp

@[simp] theorem dC_encCs (sel : BitVec 3) (imm : BitVec 6) (d : XReg) : dC (encCs sel imm d) = d := by
  change (@BitVec.extractLsb' (6+5+3+2) 5 5 _).toFin = _
  simp (disch := decide) only [encCs, extract_hi, extract_lo]
  try simp

@[simp] theorem immC_encCs (sel : BitVec 3) (imm : BitVec 6) (d : XReg) : immC (encCs sel imm d) = imm := by
  change @BitVec.extractLsb' (6+5+3+2) 10 6 _ = _
  simp (disch := decide) only [encCs, extract_hi, extract_lo]
  try simp

@[simp] theorem top_encCs (sel : BitVec 3) (imm : BitVec 6) (d : XReg) : (encCs sel imm d).getLsbD 15 = imm.getLsbD 5 := by
  change @BitVec.getLsbD (6+5+3+2) _ 15 = _
  simp (disch := decide) only [encCs, bit_hi, bit_lo]
  try simp

@[simp] theorem aC_encCs (sel : BitVec 3) (imm : BitVec 6) (d : XReg) : aC (encCs sel imm d) = (imm.extractLsb' 0 5).toFin := by
  change (@BitVec.extractLsb' (6+5+3+2) 10 5 _).toFin = _
  simp (disch := decide) only [encCs, extract_hi, extract_lo]
  try simp

/-! ### The constant codes, and unused fields -/

theorem immS_join (x : BitVec 11) : x.extractLsb' 5 6 ++ x.extractLsb' 0 5 = x := by
  apply BitVec.eq_of_getLsbD_eq; intro i hi
  simp only [BitVec.getLsbD_append, BitVec.getLsbD_extractLsb']
  by_cases h1 : i < 5
  · simp [h1]
  · simp [h1, show i - 5 < 6 by omega, show 5 + (i - 5) = i by omega]

theorem offB_join (x : BitVec 10) : x.extractLsb' 5 5 ++ x.extractLsb' 0 5 = x := by
  apply BitVec.eq_of_getLsbD_eq; intro i hi
  simp only [BitVec.getLsbD_append, BitVec.getLsbD_extractLsb']
  by_cases h1 : i < 5
  · simp [h1]
  · simp [h1, show i - 5 < 5 by omega, show 5 + (i - 5) = i by omega]

@[simp] theorem sop_encS (s r) : sop (encS s r) = r := by simp [sop, immS_join]

@[simp] theorem bop_encB (s r) : bop (encB s r) = r := by simp [bop, offB_join]

@[simp] theorem scopeOf_scopeCode (s : Scope) : scopeOf (scopeCode s).val = some s := by cases s <;> rfl

@[simp] theorem pathOf_pathCode (s : Path) : pathOf (pathCode s).val = some s := by cases s <;> rfl

@[simp] theorem classOf_classCode (s : EngClass) : classOf (classCode s).val = some s := by cases s <;> rfl

@[simp] theorem laneFmtOf_fmtCode (s : LaneFmt) : laneFmtOf (fmtCode s).val = some s := by cases s <;> rfl

theorem sysHi_sysLo (n : SysReg) : (sysHi n ++ (BitVec.ofFin (w := 5) (sysLo n))) = sysCode n := by
  simp only [sysHi, sysLo]
  generalize sysCode n = x
  revert x; decide

@[simp] theorem sysRegOf_sysCode (n : SysReg) : sysRegOf (sysHi n ++ (BitVec.ofFin (w := 5) (sysLo n))).toNat = some n := by
  rw [sysHi_sysLo]
  cases n with
  | lc i => revert i; decide
  | ls i => revert i; decide
  | le i => revert i; decide
  | eseq p => cases p <;> decide
  | seed i => revert i; decide
  | ringhead i => revert i; decide
  | ringtail i => revert i; decide
  | _ => rfl

@[simp] theorem shift_amount (c x) : (BitVec.extractLsb' 0 6 (((c : BitVec 5) ++ (x : BitVec 6)) : BitVec 11)) = x := by
  change @BitVec.extractLsb' (5+6) 0 6 _ = _
  simp (disch := decide) only [extract_hi, extract_lo]; simp

@[simp] theorem shift_code (c x) : (BitVec.extractLsb' 6 5 (((c : BitVec 5) ++ (x : BitVec 6)) : BitVec 11)) = c := by
  change @BitVec.extractLsb' (5+6) 6 5 _ = _
  simp (disch := decide) only [extract_hi, extract_lo]; simp

@[simp] theorem shiftw_amount (c x) : (BitVec.extractLsb' 0 5 (((c : BitVec 6) ++ (x : BitVec 5)) : BitVec 11)) = x := by
  change @BitVec.extractLsb' (6+5) 0 5 _ = _
  simp (disch := decide) only [extract_hi, extract_lo]; simp

@[simp] theorem shiftw_code (c x) : (BitVec.extractLsb' 5 6 (((c : BitVec 6) ++ (x : BitVec 5)) : BitVec 11)) = c := by
  change @BitVec.extractLsb' (6+5) 5 6 _ = _
  simp (disch := decide) only [extract_hi, extract_lo]; simp

@[simp] theorem limit_low (x) : (BitVec.extractLsb' 0 8 (((0 : BitVec 3) ++ (x : BitVec 8)) : BitVec 11)) = x := by
  change @BitVec.extractLsb' (3+8) 0 8 _ = _
  simp (disch := decide) only [extract_hi, extract_lo]; simp

@[simp] theorem limit_high (x) : (BitVec.extractLsb' 8 3 (((0 : BitVec 3) ++ (x : BitVec 8)) : BitVec 11)) = 0 := by
  change @BitVec.extractLsb' (3+8) 8 3 _ = _
  simp (disch := decide) only [extract_hi, extract_lo]; simp

@[simp] theorem kv_low (k : KReg) : (BitVec.extractLsb' 0 3 (BitVec.ofFin (w := 4) (kv k))).toFin = k := by revert k; decide

@[simp] theorem kv_bit3 (k : KReg) : (BitVec.ofFin (w := 4) (kv k)).getLsbD 3 = false := by revert k; decide

theorem extract_zero_split {w : Nat} (x : BitVec w) (s k1 k2 : Nat) (h1 : x.extractLsb' s k1 = 0)
    (h2 : x.extractLsb' (s + k1) k2 = 0) : x.extractLsb' s (k1 + k2) = 0 := by
  apply BitVec.eq_of_getLsbD_eq
  intro i hi
  simp only [BitVec.getLsbD_extractLsb', hi]
  by_cases h : i < k1
  · have := congrArg (·.getLsbD i) h1
    simpa [h] using this
  · have := congrArg (·.getLsbD (i - k1)) h2
    simpa [show i - k1 < k2 by omega, show s + k1 + (i - k1) = s + i by omega] using this

@[simp] theorem encL_free15 (maj s) (va vd : VReg) : (encL maj s 0 0 false false 0 va vd).extractLsb' 15 11 = 0 := by
  refine extract_zero_split _ 15 4 7 ?_ (extract_zero_split _ 19 1 6 ?_ (extract_zero_split _ 20 1 5 ?_ (extract_zero_split _ 21 3 2 ?_ ?_)))
  all_goals
   change @BitVec.extractLsb' (6+2+3+1+1+4+4+4+6+1) _ _ _ = _
   simp (disch := decide) only [encL, extract_hi, extract_lo]
   try decide

@[simp] theorem kv_top (k : KReg) : BitVec.extractLsb' 3 1 (BitVec.ofFin (w := 4) (kv k)) = 0#1 := by revert k; decide

@[simp] theorem encL_free18 (maj s) (kb ka kd : KReg) : (encL maj s 0 0 false false (kv kb) (kv ka) (kv kd)).extractLsb' 18 8 = 0 := by
  refine extract_zero_split _ 18 1 7 ?_ (extract_zero_split _ 19 1 6 ?_ (extract_zero_split _ 20 1 5 ?_ (extract_zero_split _ 21 3 2 ?_ ?_)))
  all_goals
   change @BitVec.extractLsb' (6+2+3+1+1+4+4+4+6+1) _ _ _ = _
   simp (disch := decide) only [encL, extract_hi, extract_lo]
   try simp [kv_top]

@[simp] theorem encR_free12 (maj s m) (d : XReg) : (encR maj s m false false 0 0 d).extractLsb' 12 12 = 0 := by
  refine extract_zero_split _ 12 5 7 ?_ (extract_zero_split _ 17 5 2 ?_ (extract_zero_split _ 22 1 1 ?_ ?_))
  all_goals
   change @BitVec.extractLsb' (5+3+1+1+5+5+5+6+1) _ _ _ = _
   simp (disch := decide) only [encR, extract_hi, extract_lo]
   try decide

@[simp] theorem low8_high (k : Fin 8) : (BitVec.extractLsb' 3 2 (BitVec.ofFin (w := 5) (low8 k))) = 0 := by revert k; decide

@[simp] theorem low4_high (k : Fin 4) : (BitVec.extractLsb' 2 2 (BitVec.ofFin (w := 4) (low4 k))) = 0 := by revert k; decide

@[simp] theorem encR_free10 (maj s) (d : Fin 8) : (encR maj s 0 false false 0 0 (low8 d)).extractLsb' 10 17 = 0 := by
  refine extract_zero_split _ 10 2 15 ?_ (extract_zero_split _ 12 12 3 (encR_free12 ..) ?_)
  all_goals
   change @BitVec.extractLsb' (5+3+1+1+5+5+5+6+1) _ _ _ = _
   simp (disch := decide) only [encR, extract_hi, extract_lo]
   try simp

@[simp] theorem encL_free9 (maj s) (d : Fin 4) : (encL maj s 0 0 false false 0 0 (low4 d)).extractLsb' 9 17 = 0 := by
  refine extract_zero_split _ 9 2 15 ?_ (extract_zero_split _ 11 4 11 ?_ (encL_free15 ..))
  all_goals
   change @BitVec.extractLsb' (6+2+3+1+1+4+4+4+6+1) _ _ _ = _
   simp (disch := decide) only [encL, extract_hi, extract_lo]
   try simp

@[simp] theorem encL_free13 (maj s) (vd : VReg) (d : Fin 4) : (encL maj s 0 0 false false 0 (low4 d) vd).extractLsb' 13 13 = 0 := by
  refine extract_zero_split _ 13 2 11 ?_ (encL_free15 ..)
  all_goals
   change @BitVec.extractLsb' (6+2+3+1+1+4+4+4+6+1) _ _ _ = _
   simp (disch := decide) only [encL, extract_hi, extract_lo]
   try simp

@[simp] theorem encL_free20 (maj s la) (va vd : VReg) : (encL maj s 0 0 false la 0 va vd).extractLsb' 20 6 = 0 := by
  refine extract_zero_split _ 20 1 5 ?_ (extract_zero_split _ 21 3 2 ?_ ?_)
  all_goals
   change @BitVec.extractLsb' (6+2+3+1+1+4+4+4+6+1) _ _ _ = _
   simp (disch := decide) only [encL, extract_hi, extract_lo]
   try simp

@[simp] theorem msgN_pos (w) (pos : Fin 8) : (BitVec.extractLsb' 0 3 (BitVec.ofFin (w := 5) (msgNCode w pos))).toFin = pos := by cases w <;> revert pos <;> decide

@[simp] theorem msgN_four (pos : Fin 8) : (BitVec.extractLsb' 3 2 (BitVec.ofFin (w := 5) (msgNCode .four pos))) = 0#2 := by revert pos; decide

@[simp] theorem msgN_two (pos : Fin 8) : (BitVec.extractLsb' 3 2 (BitVec.ofFin (w := 5) (msgNCode .two pos))) = 1#2 := by revert pos; decide

@[simp] theorem msgN_one (pos : Fin 8) : (BitVec.extractLsb' 3 2 (BitVec.ofFin (w := 5) (msgNCode .one pos))) = 2#2 := by revert pos; decide

@[simp] theorem low2_low (k : Fin 2) : (BitVec.extractLsb' 0 1 (BitVec.ofFin (w := 5) (low2 k))).toFin = k := by revert k; decide

@[simp] theorem low2_high (k : Fin 2) : (BitVec.extractLsb' 1 4 (BitVec.ofFin (w := 5) (low2 k))) = 0 := by revert k; decide

@[simp] theorem low8_low (k : Fin 8) : (BitVec.extractLsb' 0 3 (BitVec.ofFin (w := 5) (low8 k))).toFin = k := by revert k; decide

@[simp] theorem low4_low (k : Fin 4) : (BitVec.extractLsb' 0 2 (BitVec.ofFin (w := 4) (low4 k))).toFin = k := by revert k; decide

@[simp] theorem ix5_low (k : BitVec 3) : (BitVec.extractLsb' 0 3 (BitVec.ofFin (w := 5) (ix5 k))) = k := by revert k; decide

@[simp] theorem ix5_high (k : BitVec 3) : (BitVec.extractLsb' 3 2 (BitVec.ofFin (w := 5) (ix5 k))) = 0 := by revert k; decide



/-! ### Bytes -/

/-- Fetching the bytes of a code whose bit 0 says its own length answers the code. -/
theorem fetchCode_half (h : BitVec 16) (rest : List Byte) (h0 : h.getLsbD 0 = false) :
    fetchCode ((Code.half h).bytes ++ rest) = some (.half h, rest) := by
  have e : h.extractLsb' 8 8 ++ h.extractLsb' 0 8 = h := by
    apply BitVec.eq_of_getLsbD_eq
    intro i hi
    simp only [BitVec.getLsbD_append, BitVec.getLsbD_extractLsb']
    by_cases h1 : i < 8
    · simp [h1]
    · simp [h1, show i - 8 < 8 by omega, show 8 + (i - 8) = i by omega]
  have b : (h.extractLsb' 0 8).getLsbD 0 = false := by simpa using h0
  simp only [Code.bytes, List.cons_append, List.nil_append, fetchCode, b, e]
  simp

/-- The same for a word. -/
theorem fetchCode_word (w : BitVec 32) (rest : List Byte) (h0 : w.getLsbD 0 = true) :
    fetchCode ((Code.word w).bytes ++ rest) = some (.word w, rest) := by
  have e : w.extractLsb' 24 8 ++ w.extractLsb' 16 8 ++ w.extractLsb' 8 8 ++ w.extractLsb' 0 8 = w := by
    apply BitVec.eq_of_getLsbD_eq
    intro i hi
    simp only [BitVec.getLsbD_append, BitVec.getLsbD_extractLsb']
    by_cases h1 : i < 8
    · simp [h1]
    by_cases h2 : i - 8 < 8
    · simp [h1, h2, show 8 + (i - 8) = i by omega]
    by_cases h3 : i - 8 - 8 < 8
    · simp only [h1, h2, h3, if_false, if_true, show 16 + (i - 8 - 8) = i by omega]
      simp
    · simp only [h1, h2, h3, if_false, show 24 + (i - 8 - 8 - 8) = i by omega, show i - 8 - 8 - 8 < 8 by omega]
      simp
  have b : (w.extractLsb' 0 8).getLsbD 0 = true := by simpa using h0
  simp only [Code.bytes, List.cons_append, List.nil_append, fetchCode, b, e]
  simp

end Sys2Proof
end

