-- ==== Sys2Proof/Laws/Issue.lean ====
section
/-! SUPPORT. What the shared operations of issue do: reads, last-use kills, queued writes and the next address. -/

namespace Sys2Proof.Machine

/-! ### Reads -/

theorem Core.readX_eq (c : Core) (r : XReg) :
    c.readX r = if !c.liveX r && c.dchk then .error (.trap ⟨.deadread, wd r.val⟩) else .ok (c.xval r) := rfl

theorem Core.readX_ok (c : Core) (r : XReg) (h : (c.liveX r || !c.dchk) = true) : c.readX r = .ok (c.xval r) := by
  rw [readX_eq, if_neg]
  cases hl : c.liveX r <;> cases hd : c.dchk <;> simp_all

theorem Core.readX_dead (c : Core) (r : XReg) (h : (c.liveX r || !c.dchk) = false) :
    c.readX r = .error (.trap ⟨.deadread, wd r.val⟩) := by
  rw [readX_eq, if_pos]
  cases hl : c.liveX r <;> cases hd : c.dchk <;> simp_all

/-! ### Kills -/

theorem Core.killX_eq (c : Core) (r : XReg) (l : Bool) :
    c.killX r l = { c with arch := { c.arch with
      livex := if l && r != 0 then c.arch.livex &&& ~~~(1#32 <<< r.val) else c.arch.livex } } := by
  unfold killX; split <;> rfl

theorem Core.killV_eq (c : Core) (r : VReg) (l : Bool) :
    c.killV r l = { c with arch := { c.arch with
      livev := if l && !c.bound r then c.arch.livev &&& ~~~(1#16 <<< r.val) else c.arch.livev } } := by
  unfold killV; split <;> rfl

/-! ### Queued writes -/

theorem Core.writeX_eq (c : Core) (now lat : Nat) (d : XReg) (v : Word) :
    c.writeX now lat d v = { c with
      flights := c.flights ++ if d = 0 then [] else [⟨c.iseq, now, now + lat, c.pc, .x d v, 0, false⟩] } := by
  unfold writeX write; split <;> simp

/-! ### The next address -/

/-- The loop counts and the next address, from what R264 lets them depend on. -/
def loopNext (inh : Bool) (lc ls le : Vector Word 2) (pc : Word) (size : Nat) : Vector Word 2 × Word :=
  if inh then (lc, pc + wd size) else
  let hit1 := lc[1] != 0 && pc == le[1]
  let lc1 := if hit1 then lc.set 1 (lc[1] - 1) else lc
  if hit1 && lc1[1] != 0 then (lc1, ls[1]) else
  let hit0 := lc1[0] != 0 && pc == le[0]
  let lc0 := if hit0 then lc1.set 0 (lc1[0] - 1) else lc1
  (lc0, if hit0 && lc0[0] != 0 then ls[0] else pc + wd size)

theorem Core.loopEnd_eq (c : Core) (size : Nat) :
    c.loopEnd size = ({ c.arch with lc := (loopNext c.inh c.arch.lc c.arch.ls c.arch.le c.pc size).1 },
      (loopNext c.inh c.arch.lc c.arch.ls c.arch.le c.pc size).2) := by
  unfold loopEnd loopNext
  split
  · rfl
  · by_cases h : (c.arch.lc[1] != 0 && c.pc == c.arch.le[1]) = true
    · simp only [h]
      repeat' split
      all_goals first | rfl | simp_all
    · simp only [h]
      repeat' split
      all_goals first | rfl | simp_all

/-- The loop registers and the next address depend on the loop registers, INH and the PC alone. -/
theorem Core.loopEnd_congr (c d : Core) (size : Nat) (h1 : d.arch.lc = c.arch.lc) (h2 : d.arch.ls = c.arch.ls)
    (h3 : d.arch.le = c.arch.le) (h4 : d.arch.status = c.arch.status) (h5 : d.pc = c.pc) :
    d.loopEnd size = ({ d.arch with lc := (c.loopEnd size).1.lc }, (c.loopEnd size).2) := by
  rw [loopEnd_eq, loopEnd_eq]
  simp only [inh, h1, h2, h3, h4, h5]

/-- The loop registers change nothing but LC. -/
theorem Core.loopEnd_fst (c : Core) (size : Nat) :
    (c.loopEnd size).1 = { c.arch with lc := (c.loopEnd size).1.lc } := by
  rw [loopEnd_eq]

theorem Core.advance_eq (c : Core) (now size : Nat) :
    c.advance now size = { c with
      arch := { c.arch with lc := (c.loopEnd size).1.lc }
      pc := (c.loopEnd size).2
      nextIssue := now + 1
      iseq := c.iseq + 1 } := by
  unfold advance; rw [loopEnd_fst]

end Sys2Proof.Machine
end

