-- ==== Sys2Proof/Laws/PerInstr.lean ====
section
/-! SUPPORT. The family Encoding: every well-formed instruction has an encoding (R35 to R50), one lemma per constructor. -/

namespace Sys2Proof

/-- A well-formed instruction has an encoding. -/
def Laws.Encoding.Statement (i : Instr) : Prop := i.wf = true → (encode i).isSome = true

theorem Laws.Encoding.add (r : R3) : Laws.Encoding.Statement (.add r) :=
  fun _ => rfl
theorem Laws.Encoding.sub (r : R3) : Laws.Encoding.Statement (.sub r) :=
  fun _ => rfl
theorem Laws.Encoding.and (r : R3) : Laws.Encoding.Statement (.and r) :=
  fun _ => rfl
theorem Laws.Encoding.or (r : R3) : Laws.Encoding.Statement (.or r) :=
  fun _ => rfl
theorem Laws.Encoding.xor (r : R3) : Laws.Encoding.Statement (.xor r) :=
  fun _ => rfl
theorem Laws.Encoding.andn (r : R3) : Laws.Encoding.Statement (.andn r) :=
  fun _ => rfl
theorem Laws.Encoding.orn (r : R3) : Laws.Encoding.Statement (.orn r) :=
  fun _ => rfl
theorem Laws.Encoding.sll (r : R3) : Laws.Encoding.Statement (.sll r) :=
  fun _ => rfl
theorem Laws.Encoding.srl (r : R3) : Laws.Encoding.Statement (.srl r) :=
  fun _ => rfl
theorem Laws.Encoding.sra (r : R3) : Laws.Encoding.Statement (.sra r) :=
  fun _ => rfl
theorem Laws.Encoding.slt (r : R3) : Laws.Encoding.Statement (.slt r) :=
  fun _ => rfl
theorem Laws.Encoding.sltu (r : R3) : Laws.Encoding.Statement (.sltu r) :=
  fun _ => rfl
theorem Laws.Encoding.min (r : R3) : Laws.Encoding.Statement (.min r) :=
  fun _ => rfl
theorem Laws.Encoding.max (r : R3) : Laws.Encoding.Statement (.max r) :=
  fun _ => rfl
theorem Laws.Encoding.minu (r : R3) : Laws.Encoding.Statement (.minu r) :=
  fun _ => rfl
theorem Laws.Encoding.maxu (r : R3) : Laws.Encoding.Statement (.maxu r) :=
  fun _ => rfl
theorem Laws.Encoding.addsat (r : R3) : Laws.Encoding.Statement (.addsat r) :=
  fun _ => rfl
theorem Laws.Encoding.subsat (r : R3) : Laws.Encoding.Statement (.subsat r) :=
  fun _ => rfl
theorem Laws.Encoding.selnz (r : R3) : Laws.Encoding.Statement (.selnz r) :=
  fun _ => rfl
theorem Laws.Encoding.addi (r : IOp) : Laws.Encoding.Statement (.addi r) :=
  fun _ => rfl
theorem Laws.Encoding.andi (r : IOp) : Laws.Encoding.Statement (.andi r) :=
  fun _ => rfl
theorem Laws.Encoding.ori (r : IOp) : Laws.Encoding.Statement (.ori r) :=
  fun _ => rfl
theorem Laws.Encoding.xori (r : IOp) : Laws.Encoding.Statement (.xori r) :=
  fun _ => rfl
theorem Laws.Encoding.slti (r : IOp) : Laws.Encoding.Statement (.slti r) :=
  fun _ => rfl
theorem Laws.Encoding.sltiu (r : IOp) : Laws.Encoding.Statement (.sltiu r) :=
  fun _ => rfl
theorem Laws.Encoding.slli (r : ShOp) : Laws.Encoding.Statement (.slli r) :=
  fun _ => rfl
theorem Laws.Encoding.srli (r : ShOp) : Laws.Encoding.Statement (.srli r) :=
  fun _ => rfl
theorem Laws.Encoding.srai (r : ShOp) : Laws.Encoding.Statement (.srai r) :=
  fun _ => rfl
theorem Laws.Encoding.addw (r : R3) : Laws.Encoding.Statement (.addw r) :=
  fun _ => rfl
theorem Laws.Encoding.subw (r : R3) : Laws.Encoding.Statement (.subw r) :=
  fun _ => rfl
theorem Laws.Encoding.sllw (r : R3) : Laws.Encoding.Statement (.sllw r) :=
  fun _ => rfl
theorem Laws.Encoding.srlw (r : R3) : Laws.Encoding.Statement (.srlw r) :=
  fun _ => rfl
theorem Laws.Encoding.sraw (r : R3) : Laws.Encoding.Statement (.sraw r) :=
  fun _ => rfl
theorem Laws.Encoding.mulw (r : R3) : Laws.Encoding.Statement (.mulw r) :=
  fun _ => rfl
theorem Laws.Encoding.addiw (r : IOp) : Laws.Encoding.Statement (.addiw r) :=
  fun _ => rfl
theorem Laws.Encoding.slliw (r : ShwOp) : Laws.Encoding.Statement (.slliw r) :=
  fun _ => rfl
theorem Laws.Encoding.srliw (r : ShwOp) : Laws.Encoding.Statement (.srliw r) :=
  fun _ => rfl
theorem Laws.Encoding.sraiw (r : ShwOp) : Laws.Encoding.Statement (.sraiw r) :=
  fun _ => rfl
theorem Laws.Encoding.lui (r : UOp) : Laws.Encoding.Statement (.lui r) :=
  fun _ => rfl
theorem Laws.Encoding.auipc (r : UOp) : Laws.Encoding.Statement (.auipc r) :=
  fun _ => rfl
theorem Laws.Encoding.mul (r : R3) : Laws.Encoding.Statement (.mul r) :=
  fun _ => rfl
theorem Laws.Encoding.mulh (r : R3) : Laws.Encoding.Statement (.mulh r) :=
  fun _ => rfl
theorem Laws.Encoding.mulhu (r : R3) : Laws.Encoding.Statement (.mulhu r) :=
  fun _ => rfl
theorem Laws.Encoding.mulhsu (r : R3) : Laws.Encoding.Statement (.mulhsu r) :=
  fun _ => rfl
theorem Laws.Encoding.div (r : R3) : Laws.Encoding.Statement (.div r) :=
  fun _ => rfl
theorem Laws.Encoding.divu (r : R3) : Laws.Encoding.Statement (.divu r) :=
  fun _ => rfl
theorem Laws.Encoding.rem (r : R3) : Laws.Encoding.Statement (.rem r) :=
  fun _ => rfl
theorem Laws.Encoding.remu (r : R3) : Laws.Encoding.Statement (.remu r) :=
  fun _ => rfl
theorem Laws.Encoding.clz (r : R2) : Laws.Encoding.Statement (.clz r) :=
  fun _ => rfl
theorem Laws.Encoding.ctz (r : R2) : Laws.Encoding.Statement (.ctz r) :=
  fun _ => rfl
theorem Laws.Encoding.popc (r : R2) : Laws.Encoding.Statement (.popc r) :=
  fun _ => rfl
theorem Laws.Encoding.rev8 (r : R2) : Laws.Encoding.Statement (.rev8 r) :=
  fun _ => rfl
theorem Laws.Encoding.brev (r : R2) : Laws.Encoding.Statement (.brev r) :=
  fun _ => rfl
theorem Laws.Encoding.extu (r : R3) : Laws.Encoding.Statement (.extu r) :=
  fun _ => rfl
theorem Laws.Encoding.exts (r : R3) : Laws.Encoding.Statement (.exts r) :=
  fun _ => rfl
theorem Laws.Encoding.ins (r : R3) : Laws.Encoding.Statement (.ins r) :=
  fun _ => rfl
theorem Laws.Encoding.rol (r : R3) : Laws.Encoding.Statement (.rol r) :=
  fun _ => rfl
theorem Laws.Encoding.ror (r : R3) : Laws.Encoding.Statement (.ror r) :=
  fun _ => rfl
theorem Laws.Encoding.ldB (r : IOp) : Laws.Encoding.Statement (.ldB r) :=
  fun _ => rfl
theorem Laws.Encoding.ldBu (r : IOp) : Laws.Encoding.Statement (.ldBu r) :=
  fun _ => rfl
theorem Laws.Encoding.ldH (r : IOp) : Laws.Encoding.Statement (.ldH r) :=
  fun _ => rfl
theorem Laws.Encoding.ldHu (r : IOp) : Laws.Encoding.Statement (.ldHu r) :=
  fun _ => rfl
theorem Laws.Encoding.ldW (r : IOp) : Laws.Encoding.Statement (.ldW r) :=
  fun _ => rfl
theorem Laws.Encoding.ldWu (r : IOp) : Laws.Encoding.Statement (.ldWu r) :=
  fun _ => rfl
theorem Laws.Encoding.ldD (r : IOp) : Laws.Encoding.Statement (.ldD r) :=
  fun _ => rfl
theorem Laws.Encoding.stB (r : SOp) : Laws.Encoding.Statement (.stB r) :=
  fun _ => rfl
theorem Laws.Encoding.stH (r : SOp) : Laws.Encoding.Statement (.stH r) :=
  fun _ => rfl
theorem Laws.Encoding.stW (r : SOp) : Laws.Encoding.Statement (.stW r) :=
  fun _ => rfl
theorem Laws.Encoding.stD (r : SOp) : Laws.Encoding.Statement (.stD r) :=
  fun _ => rfl
theorem Laws.Encoding.msgD (r : S2) : Laws.Encoding.Statement (.msgD r) :=
  fun _ => rfl
theorem Laws.Encoding.msgW (r : S2) : Laws.Encoding.Statement (.msgW r) :=
  fun _ => rfl
theorem Laws.Encoding.msgB (r : S2) : Laws.Encoding.Statement (.msgB r) :=
  fun _ => rfl
theorem Laws.Encoding.msgN (r : S2) (w : SubWidth) (pos : Fin 8) : Laws.Encoding.Statement (.msgN r w pos) :=
  fun _ => rfl
theorem Laws.Encoding.msgEv (r : S1) : Laws.Encoding.Statement (.msgEv r) :=
  fun _ => rfl
theorem Laws.Encoding.amoadd (wide : Bool) (r : R3) : Laws.Encoding.Statement (.amoadd wide r) :=
  fun _ => rfl
theorem Laws.Encoding.amomin (wide : Bool) (r : R3) : Laws.Encoding.Statement (.amomin wide r) :=
  fun _ => rfl
theorem Laws.Encoding.amomax (wide : Bool) (r : R3) : Laws.Encoding.Statement (.amomax wide r) :=
  fun _ => rfl
theorem Laws.Encoding.amominu (wide : Bool) (r : R3) : Laws.Encoding.Statement (.amominu wide r) :=
  fun _ => rfl
theorem Laws.Encoding.amomaxu (wide : Bool) (r : R3) : Laws.Encoding.Statement (.amomaxu wide r) :=
  fun _ => rfl
theorem Laws.Encoding.amoand (wide : Bool) (r : R3) : Laws.Encoding.Statement (.amoand wide r) :=
  fun _ => rfl
theorem Laws.Encoding.amoor (wide : Bool) (r : R3) : Laws.Encoding.Statement (.amoor wide r) :=
  fun _ => rfl
theorem Laws.Encoding.amoxor (wide : Bool) (r : R3) : Laws.Encoding.Statement (.amoxor wide r) :=
  fun _ => rfl
theorem Laws.Encoding.amoswap (wide : Bool) (r : R3) : Laws.Encoding.Statement (.amoswap wide r) :=
  fun _ => rfl
theorem Laws.Encoding.amocas (wide : Bool) (r : R3) : Laws.Encoding.Statement (.amocas wide r) :=
  fun _ => rfl
theorem Laws.Encoding.amofadd (wide : Bool) (r : R3) : Laws.Encoding.Statement (.amofadd wide r) :=
  fun _ => rfl
theorem Laws.Encoding.logAdd (narrow : Bool) (r : S2) : Laws.Encoding.Statement (.logAdd narrow r) :=
  fun _ => rfl
theorem Laws.Encoding.logMin (narrow : Bool) (r : S2) : Laws.Encoding.Statement (.logMin narrow r) :=
  fun _ => rfl
theorem Laws.Encoding.logMax (narrow : Bool) (r : S2) : Laws.Encoding.Statement (.logMax narrow r) :=
  fun _ => rfl
theorem Laws.Encoding.logOr (narrow : Bool) (r : S2) : Laws.Encoding.Statement (.logOr narrow r) :=
  fun _ => rfl
theorem Laws.Encoding.logFadd (narrow : Bool) (r : S2) : Laws.Encoding.Statement (.logFadd narrow r) :=
  fun _ => rfl
theorem Laws.Encoding.logMerge : Laws.Encoding.Statement (.logMerge) :=
  fun _ => rfl
theorem Laws.Encoding.fence (sc : Scope) (pred succ : BitVec 3) : Laws.Encoding.Statement (.fence sc pred succ) :=
  fun _ => rfl
theorem Laws.Encoding.fenceX (sc : Scope) (p c : Path) : Laws.Encoding.Statement (.fenceX sc p c) :=
  fun _ => rfl
theorem Laws.Encoding.fenceI : Laws.Encoding.Statement (.fenceI) :=
  fun _ => rfl
theorem Laws.Encoding.waita (r : R3) : Laws.Encoding.Statement (.waita r) :=
  fun _ => rfl
theorem Laws.Encoding.waitseq (p : EngClass) (r : S1) : Laws.Encoding.Statement (.waitseq p r) :=
  fun _ => rfl
theorem Laws.Encoding.waitbo (r : R2) : Laws.Encoding.Statement (.waitbo r) :=
  fun _ => rfl
theorem Laws.Encoding.time (d : XReg) : Laws.Encoding.Statement (.time d) :=
  fun _ => rfl
theorem Laws.Encoding.cycle (d : XReg) : Laws.Encoding.Statement (.cycle d) :=
  fun _ => rfl
theorem Laws.Encoding.sleepu (r : S1) : Laws.Encoding.Statement (.sleepu r) :=
  fun _ => rfl
theorem Laws.Encoding.realign (d : XReg) : Laws.Encoding.Statement (.realign d) :=
  fun _ => rfl
theorem Laws.Encoding.beq (r : BOp) : Laws.Encoding.Statement (.beq r) :=
  fun _ => rfl
theorem Laws.Encoding.bne (r : BOp) : Laws.Encoding.Statement (.bne r) :=
  fun _ => rfl
theorem Laws.Encoding.blt (r : BOp) : Laws.Encoding.Statement (.blt r) :=
  fun _ => rfl
theorem Laws.Encoding.bge (r : BOp) : Laws.Encoding.Statement (.bge r) :=
  fun _ => rfl
theorem Laws.Encoding.bltu (r : BOp) : Laws.Encoding.Statement (.bltu r) :=
  fun _ => rfl
theorem Laws.Encoding.bgeu (r : BOp) : Laws.Encoding.Statement (.bgeu r) :=
  fun _ => rfl
theorem Laws.Encoding.jal (r : UOp) : Laws.Encoding.Statement (.jal r) :=
  fun _ => rfl
theorem Laws.Encoding.jalr (r : IOp) : Laws.Encoding.Statement (.jalr r) :=
  fun _ => rfl
theorem Laws.Encoding.loopS (i : Fin 2) (r : S1) (imm : BitVec 11) : Laws.Encoding.Statement (.loopS i r imm) :=
  fun _ => rfl
theorem Laws.Encoding.loopSi (i : Fin 2) (n : BitVec 5) (imm : BitVec 11) : Laws.Encoding.Statement (.loopSi i n imm) :=
  fun _ => rfl
theorem Laws.Encoding.loopX (i : Fin 2) : Laws.Encoding.Statement (.loopX i) :=
  fun _ => rfl
theorem Laws.Encoding.rgnOpen : Laws.Encoding.Statement (.rgnOpen) :=
  fun _ => rfl
theorem Laws.Encoding.rgnCommit : Laws.Encoding.Statement (.rgnCommit) :=
  fun _ => rfl
theorem Laws.Encoding.rgnLimit (n : BitVec 8) : Laws.Encoding.Statement (.rgnLimit n) :=
  fun _ => rfl
theorem Laws.Encoding.rgnAbort : Laws.Encoding.Statement (.rgnAbort) :=
  fun _ => rfl
theorem Laws.Encoding.rgnQuery (d : XReg) : Laws.Encoding.Statement (.rgnQuery d) :=
  fun _ => rfl
theorem Laws.Encoding.snap (d : XReg) : Laws.Encoding.Statement (.snap d) :=
  fun _ => rfl
theorem Laws.Encoding.ecall : Laws.Encoding.Statement (.ecall) :=
  fun _ => rfl
theorem Laws.Encoding.ebreak : Laws.Encoding.Statement (.ebreak) :=
  fun _ => rfl
theorem Laws.Encoding.trap (r : S1) : Laws.Encoding.Statement (.trap r) :=
  fun _ => rfl
theorem Laws.Encoding.eret : Laws.Encoding.Statement (.eret) :=
  fun _ => rfl
theorem Laws.Encoding.sysr (d : XReg) (n : SysReg) : Laws.Encoding.Statement (.sysr d n) :=
  fun _ => rfl
theorem Laws.Encoding.sysw (n : SysReg) (r : S1) : Laws.Encoding.Statement (.sysw n r) :=
  fun _ => rfl
theorem Laws.Encoding.sysset (n : SysReg) (r : S1) : Laws.Encoding.Statement (.sysset n r) :=
  fun _ => rfl
theorem Laws.Encoding.sysclr (n : SysReg) (r : S1) : Laws.Encoding.Statement (.sysclr n r) :=
  fun _ => rfl
theorem Laws.Encoding.halt : Laws.Encoding.Statement (.halt) :=
  fun _ => rfl
theorem Laws.Encoding.inject (r : S1) : Laws.Encoding.Statement (.inject r) :=
  fun _ => rfl
theorem Laws.Encoding.grpid (r : R2) : Laws.Encoding.Statement (.grpid r) :=
  fun _ => rfl
theorem Laws.Encoding.grpsz (r : R2) : Laws.Encoding.Statement (.grpsz r) :=
  fun _ => rfl
theorem Laws.Encoding.gbar (r : R2) : Laws.Encoding.Statement (.gbar r) :=
  fun _ => rfl
theorem Laws.Encoding.garrive (r : R2) : Laws.Encoding.Statement (.garrive r) :=
  fun _ => rfl
theorem Laws.Encoding.gwaitb (r : R3) : Laws.Encoding.Statement (.gwaitb r) :=
  fun _ => rfl
theorem Laws.Encoding.follow : Laws.Encoding.Statement (.follow) :=
  fun _ => rfl
theorem Laws.Encoding.unfollow : Laws.Encoding.Statement (.unfollow) :=
  fun _ => rfl
theorem Laws.Encoding.lcore (r : R2) : Laws.Encoding.Statement (.lcore r) :=
  fun _ => rfl
theorem Laws.Encoding.copyin (r : R3) : Laws.Encoding.Statement (.copyin r) :=
  fun _ => rfl
theorem Laws.Encoding.copyout (r : R3) : Laws.Encoding.Statement (.copyout r) :=
  fun _ => rfl
theorem Laws.Encoding.gather (r : R3) : Laws.Encoding.Statement (.gather r) :=
  fun _ => rfl
theorem Laws.Encoding.mcast (r : R3) : Laws.Encoding.Statement (.mcast r) :=
  fun _ => rfl
theorem Laws.Encoding.copyloc (r : R3) : Laws.Encoding.Statement (.copyloc r) :=
  fun _ => rfl
theorem Laws.Encoding.shfItin (r : R3) : Laws.Encoding.Statement (.shfItin r) :=
  fun _ => rfl
theorem Laws.Encoding.shfRead (r : R3) : Laws.Encoding.Statement (.shfRead r) :=
  fun _ => rfl
theorem Laws.Encoding.shfTake (r : R2) : Laws.Encoding.Statement (.shfTake r) :=
  fun _ => rfl
theorem Laws.Encoding.shfRel (r : R2) : Laws.Encoding.Statement (.shfRel r) :=
  fun _ => rfl
theorem Laws.Encoding.shfHold (r : R3) : Laws.Encoding.Statement (.shfHold r) :=
  fun _ => rfl
theorem Laws.Encoding.shfStat (r : R2) : Laws.Encoding.Statement (.shfStat r) :=
  fun _ => rfl
theorem Laws.Encoding.shfReread (r : R2) : Laws.Encoding.Statement (.shfReread r) :=
  fun _ => rfl
theorem Laws.Encoding.scnCfg (r : R2) : Laws.Encoding.Statement (.scnCfg r) :=
  fun _ => rfl
theorem Laws.Encoding.scnRun (r : R2) : Laws.Encoding.Statement (.scnRun r) :=
  fun _ => rfl
theorem Laws.Encoding.scnRed (r : R2) : Laws.Encoding.Statement (.scnRed r) :=
  fun _ => rfl
theorem Laws.Encoding.scnApply (r : R2) : Laws.Encoding.Statement (.scnApply r) :=
  fun _ => rfl
theorem Laws.Encoding.scnClose (d : XReg) : Laws.Encoding.Statement (.scnClose d) :=
  fun _ => rfl
theorem Laws.Encoding.scnStat (d : XReg) : Laws.Encoding.Statement (.scnStat d) :=
  fun _ => rfl
theorem Laws.Encoding.cagrp (r : R2) : Laws.Encoding.Statement (.cagrp r) :=
  fun _ => rfl
theorem Laws.Encoding.cldred (r : R2) : Laws.Encoding.Statement (.cldred r) :=
  fun _ => rfl
theorem Laws.Encoding.cstred (r : R2) : Laws.Encoding.Statement (.cstred r) :=
  fun _ => rfl
theorem Laws.Encoding.cgraph (r : R3) : Laws.Encoding.Statement (.cgraph r) :=
  fun _ => rfl
theorem Laws.Encoding.crun (r : R3) : Laws.Encoding.Statement (.crun r) :=
  fun _ => rfl
theorem Laws.Encoding.cabort (r : R2) : Laws.Encoding.Statement (.cabort r) :=
  fun _ => rfl
theorem Laws.Encoding.boset (r : R3) : Laws.Encoding.Statement (.boset r) :=
  fun _ => rfl
theorem Laws.Encoding.boq (r : R3) : Laws.Encoding.Statement (.boq r) :=
  fun _ => rfl
theorem Laws.Encoding.trcEmit (r : R3) : Laws.Encoding.Statement (.trcEmit r) :=
  fun _ => rfl
theorem Laws.Encoding.trcCfg (r : R3) : Laws.Encoding.Statement (.trcCfg r) :=
  fun _ => rfl
theorem Laws.Encoding.vadd (r : L3) : Laws.Encoding.Statement (.vadd r) :=
  fun _ => rfl
theorem Laws.Encoding.vsub (r : L3) : Laws.Encoding.Statement (.vsub r) :=
  fun _ => rfl
theorem Laws.Encoding.vaddsat (r : L3) : Laws.Encoding.Statement (.vaddsat r) :=
  fun _ => rfl
theorem Laws.Encoding.vsubsat (r : L3) : Laws.Encoding.Statement (.vsubsat r) :=
  fun _ => rfl
theorem Laws.Encoding.vmin (r : L3) : Laws.Encoding.Statement (.vmin r) :=
  fun _ => rfl
theorem Laws.Encoding.vmax (r : L3) : Laws.Encoding.Statement (.vmax r) :=
  fun _ => rfl
theorem Laws.Encoding.vminu (r : L3) : Laws.Encoding.Statement (.vminu r) :=
  fun _ => rfl
theorem Laws.Encoding.vmaxu (r : L3) : Laws.Encoding.Statement (.vmaxu r) :=
  fun _ => rfl
theorem Laws.Encoding.vand (r : L3) : Laws.Encoding.Statement (.vand r) :=
  fun _ => rfl
theorem Laws.Encoding.vor (r : L3) : Laws.Encoding.Statement (.vor r) :=
  fun _ => rfl
theorem Laws.Encoding.vxor (r : L3) : Laws.Encoding.Statement (.vxor r) :=
  fun _ => rfl
theorem Laws.Encoding.vsll (r : L3) : Laws.Encoding.Statement (.vsll r) :=
  fun _ => rfl
theorem Laws.Encoding.vsrl (r : L3) : Laws.Encoding.Statement (.vsrl r) :=
  fun _ => rfl
theorem Laws.Encoding.vsra (r : L3) : Laws.Encoding.Statement (.vsra r) :=
  fun _ => rfl
theorem Laws.Encoding.vmul (r : L3) : Laws.Encoding.Statement (.vmul r) :=
  fun _ => rfl
theorem Laws.Encoding.vmulh (r : L3) : Laws.Encoding.Statement (.vmulh r) :=
  fun _ => rfl
theorem Laws.Encoding.vcmpeq (r : LCmp) : Laws.Encoding.Statement (.vcmpeq r) :=
  fun _ => rfl
theorem Laws.Encoding.vcmplt (r : LCmp) : Laws.Encoding.Statement (.vcmplt r) :=
  fun _ => rfl
theorem Laws.Encoding.vcmpltu (r : LCmp) : Laws.Encoding.Statement (.vcmpltu r) :=
  fun _ => rfl
theorem Laws.Encoding.vsel (r : L3) : Laws.Encoding.Statement (.vsel r) :=
  fun _ => rfl
theorem Laws.Encoding.vmov (r : L2) : Laws.Encoding.Statement (.vmov r) :=
  fun _ => rfl
theorem Laws.Encoding.vbcast (r : L2) : Laws.Encoding.Statement (.vbcast r) :=
  fun _ => rfl
theorem Laws.Encoding.vextr (r : L3) : Laws.Encoding.Statement (.vextr r) :=
  fun _ => rfl
theorem Laws.Encoding.vins (r : L3) : Laws.Encoding.Statement (.vins r) :=
  fun _ => rfl
theorem Laws.Encoding.vfadd (r : L3) : Laws.Encoding.Statement (.vfadd r) :=
  fun _ => rfl
theorem Laws.Encoding.vfsub (r : L3) : Laws.Encoding.Statement (.vfsub r) :=
  fun _ => rfl
theorem Laws.Encoding.vfmul (r : L3) : Laws.Encoding.Statement (.vfmul r) :=
  fun _ => rfl
theorem Laws.Encoding.vfma (r : L3) : Laws.Encoding.Statement (.vfma r) :=
  fun _ => rfl
theorem Laws.Encoding.vfms (r : L3) : Laws.Encoding.Statement (.vfms r) :=
  fun _ => rfl
theorem Laws.Encoding.vfnma (r : L3) : Laws.Encoding.Statement (.vfnma r) :=
  fun _ => rfl
theorem Laws.Encoding.vfmin (r : L3) : Laws.Encoding.Statement (.vfmin r) :=
  fun _ => rfl
theorem Laws.Encoding.vfmax (r : L3) : Laws.Encoding.Statement (.vfmax r) :=
  fun _ => rfl
theorem Laws.Encoding.vfabs (r : L2) : Laws.Encoding.Statement (.vfabs r) :=
  fun _ => rfl
theorem Laws.Encoding.vfneg (r : L2) : Laws.Encoding.Statement (.vfneg r) :=
  fun _ => rfl
theorem Laws.Encoding.vfcmpeq (r : LCmp) : Laws.Encoding.Statement (.vfcmpeq r) :=
  fun _ => rfl
theorem Laws.Encoding.vfcmplt (r : LCmp) : Laws.Encoding.Statement (.vfcmplt r) :=
  fun _ => rfl
theorem Laws.Encoding.vfcmple (r : LCmp) : Laws.Encoding.Statement (.vfcmple r) :=
  fun _ => rfl
theorem Laws.Encoding.vfclass (r : L2) : Laws.Encoding.Statement (.vfclass r) :=
  fun _ => rfl
theorem Laws.Encoding.vcvtn (r : LCvt) : Laws.Encoding.Statement (.vcvtn r) :=
  fun _ => rfl
theorem Laws.Encoding.vcvtw (r : LCvt) : Laws.Encoding.Statement (.vcvtw r) :=
  fun _ => rfl
theorem Laws.Encoding.vcvtsr (r : LCvt) : Laws.Encoding.Statement (.vcvtsr r) :=
  fun _ => rfl
theorem Laws.Encoding.vcvti (r : L2) : Laws.Encoding.Statement (.vcvti r) :=
  fun _ => rfl
theorem Laws.Encoding.vcvtf (r : L2) : Laws.Encoding.Statement (.vcvtf r) :=
  fun _ => rfl
theorem Laws.Encoding.vqscale (r : LCvt) : Laws.Encoding.Statement (.vqscale r) :=
  fun _ => rfl
theorem Laws.Encoding.vquant (r : LCvt) : Laws.Encoding.Statement (.vquant r) :=
  fun _ => rfl
theorem Laws.Encoding.vdeq (r : LCvt) : Laws.Encoding.Statement (.vdeq r) :=
  fun _ => rfl
theorem Laws.Encoding.vredadd (r : L2) : Laws.Encoding.Statement (.vredadd r) :=
  fun _ => rfl
theorem Laws.Encoding.vredmax (r : L2) : Laws.Encoding.Statement (.vredmax r) :=
  fun _ => rfl
theorem Laws.Encoding.vredmin (r : L2) : Laws.Encoding.Statement (.vredmin r) :=
  fun _ => rfl
theorem Laws.Encoding.vfredadd (r : L2) : Laws.Encoding.Statement (.vfredadd r) :=
  fun _ => rfl
theorem Laws.Encoding.vfredmax (r : L2) : Laws.Encoding.Statement (.vfredmax r) :=
  fun _ => rfl
theorem Laws.Encoding.vperm (r : L3) : Laws.Encoding.Statement (.vperm r) :=
  fun _ => rfl
theorem Laws.Encoding.vrot (r : L3) : Laws.Encoding.Statement (.vrot r) :=
  fun _ => rfl
theorem Laws.Encoding.vslide (r : L3) : Laws.Encoding.Statement (.vslide r) :=
  fun _ => rfl
theorem Laws.Encoding.vexp2 (r : LSfu) : Laws.Encoding.Statement (.vexp2 r) :=
  fun _ => rfl
theorem Laws.Encoding.vlog2 (r : LSfu) : Laws.Encoding.Statement (.vlog2 r) :=
  fun _ => rfl
theorem Laws.Encoding.vrcp (r : LSfu) : Laws.Encoding.Statement (.vrcp r) :=
  fun _ => rfl
theorem Laws.Encoding.vrsqrt (r : LSfu) : Laws.Encoding.Statement (.vrsqrt r) :=
  fun _ => rfl
theorem Laws.Encoding.vsigm (r : LSfu) : Laws.Encoding.Statement (.vsigm r) :=
  fun _ => rfl
theorem Laws.Encoding.vtanh (r : LSfu) : Laws.Encoding.Statement (.vtanh r) :=
  fun _ => rfl
theorem Laws.Encoding.verf (r : LSfu) : Laws.Encoding.Statement (.verf r) :=
  fun _ => rfl
theorem Laws.Encoding.kand (kd ka kb : KReg) : Laws.Encoding.Statement (.kand kd ka kb) :=
  fun _ => rfl
theorem Laws.Encoding.kor (kd ka kb : KReg) : Laws.Encoding.Statement (.kor kd ka kb) :=
  fun _ => rfl
theorem Laws.Encoding.kxor (kd ka kb : KReg) : Laws.Encoding.Statement (.kxor kd ka kb) :=
  fun _ => rfl
theorem Laws.Encoding.knot (kd ka : KReg) : Laws.Encoding.Statement (.knot kd ka) :=
  fun _ => rfl
theorem Laws.Encoding.kmovx (kd ka kb : KReg) : Laws.Encoding.Statement (.kmovx kd ka kb) :=
  fun _ => rfl
theorem Laws.Encoding.kmovk (kd ka : KReg) : Laws.Encoding.Statement (.kmovk kd ka) :=
  fun _ => rfl
theorem Laws.Encoding.kpopc (kd ka : KReg) : Laws.Encoding.Statement (.kpopc kd ka) :=
  fun _ => rfl
theorem Laws.Encoding.kfirst (kd ka : KReg) : Laws.Encoding.Statement (.kfirst kd ka) :=
  fun _ => rfl
theorem Laws.Encoding.strmBind (n : Fin 4) : Laws.Encoding.Statement (.strmBind n) :=
  fun _ => rfl
theorem Laws.Encoding.strmCfg (n : Fin 4) (va : VReg) (la : Bool) : Laws.Encoding.Statement (.strmCfg n va la) :=
  fun _ => rfl
theorem Laws.Encoding.strmFree (n : Fin 4) : Laws.Encoding.Statement (.strmFree n) :=
  fun _ => rfl
theorem Laws.Encoding.strmStat (vd : VReg) (n : Fin 4) : Laws.Encoding.Statement (.strmStat vd n) :=
  fun _ => rfl
theorem Laws.Encoding.vld (r : LMem) : Laws.Encoding.Statement (.vld r) :=
  fun _ => rfl
theorem Laws.Encoding.vst (r : LMem) : Laws.Encoding.Statement (.vst r) :=
  fun _ => rfl
theorem Laws.Encoding.vlds (r : LMem) : Laws.Encoding.Statement (.vlds r) :=
  fun _ => rfl
theorem Laws.Encoding.vsts (r : LMem) : Laws.Encoding.Statement (.vsts r) :=
  fun _ => rfl
theorem Laws.Encoding.vldg (r : LMemG) : Laws.Encoding.Statement (.vldg r) :=
  fun _ => rfl
theorem Laws.Encoding.vstsc (r : LMemG) : Laws.Encoding.Statement (.vstsc r) :=
  fun _ => rfl
theorem Laws.Encoding.vldb (r : LMem) : Laws.Encoding.Statement (.vldb r) :=
  fun _ => rfl
theorem Laws.Encoding.vldacc (r : LAcc) : Laws.Encoding.Statement (.vldacc r) :=
  fun _ => rfl
theorem Laws.Encoding.mma (r : R3) : Laws.Encoding.Statement (.mma r) :=
  fun _ => rfl
theorem Laws.Encoding.mmaz (r : R3) : Laws.Encoding.Statement (.mmaz r) :=
  fun _ => rfl
theorem Laws.Encoding.mmaq (d : XReg) : Laws.Encoding.Statement (.mmaq d) :=
  fun _ => rfl
theorem Laws.Encoding.mmaqC (d : XReg) : Laws.Encoding.Statement (.mmaqC d) :=
  fun _ => rfl
theorem Laws.Encoding.ringset (n : Fin 8) (r : S2) : Laws.Encoding.Statement (.ringset n r) :=
  fun _ => rfl
theorem Laws.Encoding.ringpush (n : Fin 8) (r : S1) : Laws.Encoding.Statement (.ringpush n r) :=
  fun _ => rfl
theorem Laws.Encoding.ringpop (n : Fin 8) (r : S1) : Laws.Encoding.Statement (.ringpop n r) :=
  fun _ => rfl
theorem Laws.Encoding.ringstat (d : XReg) (n : Fin 8) : Laws.Encoding.Statement (.ringstat d n) :=
  fun _ => rfl
theorem Laws.Encoding.ringclr (n : Fin 8) : Laws.Encoding.Statement (.ringclr n) :=
  fun _ => rfl
theorem Laws.Encoding.tiddef (r : S2) : Laws.Encoding.Statement (.tiddef r) :=
  fun _ => rfl
theorem Laws.Encoding.tidget (r : R3) : Laws.Encoding.Statement (.tidget r) :=
  fun _ => rfl
theorem Laws.Encoding.tidswap (r : S2) : Laws.Encoding.Statement (.tidswap r) :=
  fun _ => rfl
theorem Laws.Encoding.tidinv (r : S1) : Laws.Encoding.Statement (.tidinv r) :=
  fun _ => rfl
theorem Laws.Encoding.tsend (r : S2) : Laws.Encoding.Statement (.tsend r) :=
  fun _ => rfl
theorem Laws.Encoding.tslotcfg (r : S2) : Laws.Encoding.Statement (.tslotcfg r) :=
  fun _ => rfl
theorem Laws.Encoding.tslotq (d : XReg) : Laws.Encoding.Statement (.tslotq d) :=
  fun _ => rfl
theorem Laws.Encoding.clVadd (r : ClOp) : Laws.Encoding.Statement (.clVadd r) :=
  fun _ => rfl
theorem Laws.Encoding.clVsub (r : ClOp) : Laws.Encoding.Statement (.clVsub r) :=
  fun _ => rfl
theorem Laws.Encoding.clVmax (r : ClOp) : Laws.Encoding.Statement (.clVmax r) :=
  fun _ => rfl
theorem Laws.Encoding.clVmin (r : ClOp) : Laws.Encoding.Statement (.clVmin r) :=
  fun _ => rfl
theorem Laws.Encoding.clVand (r : ClOp) : Laws.Encoding.Statement (.clVand r) :=
  fun _ => rfl
theorem Laws.Encoding.clVor (r : ClOp) : Laws.Encoding.Statement (.clVor r) :=
  fun _ => rfl
theorem Laws.Encoding.clVxor (r : ClOp) : Laws.Encoding.Statement (.clVxor r) :=
  fun _ => rfl
theorem Laws.Encoding.clVmov (r : ClOp) : Laws.Encoding.Statement (.clVmov r) :=
  fun _ => rfl
theorem Laws.Encoding.clVfadd (r : ClOp) : Laws.Encoding.Statement (.clVfadd r) :=
  fun _ => rfl
theorem Laws.Encoding.clVfsub (r : ClOp) : Laws.Encoding.Statement (.clVfsub r) :=
  fun _ => rfl
theorem Laws.Encoding.clVfmul (r : ClOp) : Laws.Encoding.Statement (.clVfmul r) :=
  fun _ => rfl
theorem Laws.Encoding.clVfmax (r : ClOp) : Laws.Encoding.Statement (.clVfmax r) :=
  fun _ => rfl
theorem Laws.Encoding.clVfmin (r : ClOp) : Laws.Encoding.Statement (.clVfmin r) :=
  fun _ => rfl
theorem Laws.Encoding.clVfmacv (r : ClOp) : Laws.Encoding.Statement (.clVfmacv r) :=
  fun _ => rfl
theorem Laws.Encoding.vabs (r : ClOp) : Laws.Encoding.Statement (.vabs r) :=
  fun _ => rfl
theorem Laws.Encoding.clVfabs (r : ClOp) : Laws.Encoding.Statement (.clVfabs r) :=
  fun _ => rfl
theorem Laws.Encoding.cAddi (d : XReg) (imm : BitVec 6) : Laws.Encoding.Statement (.cAddi d imm) :=
  fun _ => rfl
theorem Laws.Encoding.cMv (d a : XReg) : Laws.Encoding.Statement (.cMv d a) :=
  fun _ => rfl
theorem Laws.Encoding.cLi (d : XReg) (imm : BitVec 6) : Laws.Encoding.Statement (.cLi d imm) :=
  fun _ => rfl
theorem Laws.Encoding.cLdl (d : XReg) (imm : BitVec 6) : Laws.Encoding.Statement (.cLdl d imm) :=
  fun _ => rfl
theorem Laws.Encoding.cStl (d : XReg) (imm : BitVec 6) : Laws.Encoding.Statement (.cStl d imm) :=
  fun _ => rfl
theorem Laws.Encoding.cBeqz (d : XReg) (imm : BitVec 6) : Laws.Encoding.Statement (.cBeqz d imm) :=
  fun _ => rfl
theorem Laws.Encoding.cBnez (d : XReg) (imm : BitVec 6) : Laws.Encoding.Statement (.cBnez d imm) :=
  fun _ => rfl
theorem Laws.Encoding.cRgn : Laws.Encoding.Statement (.cRgn) :=
  fun _ => rfl
theorem Laws.Encoding.illegal (w : BitVec 32) : Laws.Encoding.Statement (.illegal w) :=
  fun h => nomatch (show false = true from h)
theorem Laws.Encoding.registerWriteLanding (c : CoreId) : Laws.Encoding.Statement (.registerWriteLanding c) :=
  fun h => nomatch (show false = true from h)
theorem Laws.Encoding.storeLineDrain (c : CoreId) : Laws.Encoding.Statement (.storeLineDrain c) :=
  fun h => nomatch (show false = true from h)
theorem Laws.Encoding.commandDrain (c : CoreId) : Laws.Encoding.Statement (.commandDrain c) :=
  fun h => nomatch (show false = true from h)
theorem Laws.Encoding.dynamicLineLanding (id : Nat) : Laws.Encoding.Statement (.dynamicLineLanding id) :=
  fun h => nomatch (show false = true from h)
theorem Laws.Encoding.messageArrival (id : Nat) : Laws.Encoding.Statement (.messageArrival id) :=
  fun h => nomatch (show false = true from h)
theorem Laws.Encoding.logEntryArrival (id : Nat) : Laws.Encoding.Statement (.logEntryArrival id) :=
  fun h => nomatch (show false = true from h)
theorem Laws.Encoding.tsendLanding (id : Nat) : Laws.Encoding.Statement (.tsendLanding id) :=
  fun h => nomatch (show false = true from h)
theorem Laws.Encoding.tick (lh : Nat) : Laws.Encoding.Statement (.tick lh) :=
  fun h => nomatch (show false = true from h)
theorem Laws.Encoding.sleepuExpiry (c : CoreId) : Laws.Encoding.Statement (.sleepuExpiry c) :=
  fun h => nomatch (show false = true from h)
theorem Laws.Encoding.waitaDeadline (c : CoreId) : Laws.Encoding.Statement (.waitaDeadline c) :=
  fun h => nomatch (show false = true from h)
theorem Laws.Encoding.mmaGangStart (lh gang n : Nat) : Laws.Encoding.Statement (.mmaGangStart lh gang n) :=
  fun h => nomatch (show false = true from h)
theorem Laws.Encoding.mmaCompletion (lh gang n : Nat) : Laws.Encoding.Statement (.mmaCompletion lh gang n) :=
  fun h => nomatch (show false = true from h)
theorem Laws.Encoding.copyCompletion (c : CoreId) (ticket : Nat) : Laws.Encoding.Statement (.copyCompletion c ticket) :=
  fun h => nomatch (show false = true from h)
theorem Laws.Encoding.mcastDelivery (id : Nat) : Laws.Encoding.Statement (.mcastDelivery id) :=
  fun h => nomatch (show false = true from h)
theorem Laws.Encoding.scanCommandCompletion (c : CoreId) : Laws.Encoding.Statement (.scanCommandCompletion c) :=
  fun h => nomatch (show false = true from h)
theorem Laws.Encoding.carryDelivery (c : CoreId) : Laws.Encoding.Statement (.carryDelivery c) :=
  fun h => nomatch (show false = true from h)
theorem Laws.Encoding.groupBarrierFire (lh g : Nat) : Laws.Encoding.Statement (.groupBarrierFire lh g) :=
  fun h => nomatch (show false = true from h)
theorem Laws.Encoding.snapFire (lh : Nat) : Laws.Encoding.Statement (.snapFire lh) :=
  fun h => nomatch (show false = true from h)
theorem Laws.Encoding.tourReadStart (id : Nat) : Laws.Encoding.Statement (.tourReadStart id) :=
  fun h => nomatch (show false = true from h)
theorem Laws.Encoding.tileArrival (id stop : Nat) : Laws.Encoding.Statement (.tileArrival id stop) :=
  fun h => nomatch (show false = true from h)
theorem Laws.Encoding.holdLimitExpiry (id stop : Nat) : Laws.Encoding.Statement (.holdLimitExpiry id stop) :=
  fun h => nomatch (show false = true from h)
theorem Laws.Encoding.gleaningDelivery (id stop : Nat) : Laws.Encoding.Statement (.gleaningDelivery id stop) :=
  fun h => nomatch (show false = true from h)
theorem Laws.Encoding.gleaningBoundExpiry (id : Nat) : Laws.Encoding.Statement (.gleaningBoundExpiry id) :=
  fun h => nomatch (show false = true from h)
theorem Laws.Encoding.tourEnd (id : Nat) : Laws.Encoding.Statement (.tourEnd id) :=
  fun h => nomatch (show false = true from h)
theorem Laws.Encoding.cagrpCompletion (c : CoreId) (ticket : Nat) : Laws.Encoding.Statement (.cagrpCompletion c ticket) :=
  fun h => nomatch (show false = true from h)
theorem Laws.Encoding.cagrpDrainExpiry (c : CoreId) (ticket : Nat) : Laws.Encoding.Statement (.cagrpDrainExpiry c ticket) :=
  fun h => nomatch (show false = true from h)
theorem Laws.Encoding.reductionStart (c : CoreId) (ticket : Nat) (peers : List RedPeer) : Laws.Encoding.Statement (.reductionStart c ticket peers) :=
  fun h => nomatch (show false = true from h)
theorem Laws.Encoding.chunkWrite (c : CoreId) (ticket k : Nat) : Laws.Encoding.Statement (.chunkWrite c ticket k) :=
  fun h => nomatch (show false = true from h)
theorem Laws.Encoding.collCompletion (c : CoreId) (ticket : Nat) : Laws.Encoding.Statement (.collCompletion c ticket) :=
  fun h => nomatch (show false = true from h)
theorem Laws.Encoding.memberAbsent (c : CoreId) (ticket : Nat) (mask : BitVec 512) : Laws.Encoding.Statement (.memberAbsent c ticket mask) :=
  fun h => nomatch (show false = true from h)
theorem Laws.Encoding.stalePacketArrival (ctx agid gen : Nat) : Laws.Encoding.Statement (.stalePacketArrival ctx agid gen) :=
  fun h => nomatch (show false = true from h)
theorem Laws.Encoding.apertureAccess (pkg pa len : Nat) (wr : Option (List Byte)) : Laws.Encoding.Statement (.apertureAccess pkg pa len wr) :=
  fun h => nomatch (show false = true from h)
theorem Laws.Encoding.detectedError (c : CoreId) (u : ErrUnit) : Laws.Encoding.Statement (.detectedError c u) :=
  fun h => nomatch (show false = true from h)
theorem Laws.Encoding.regionReentry (c : CoreId) : Laws.Encoding.Statement (.regionReentry c) :=
  fun h => nomatch (show false = true from h)
theorem Laws.Encoding.consumedUncorrectableError (e : UncErr) : Laws.Encoding.Statement (.consumedUncorrectableError e) :=
  fun h => nomatch (show false = true from h)
theorem Laws.Encoding.headerUncorrectableError (part : Nat) : Laws.Encoding.Statement (.headerUncorrectableError part) :=
  fun h => nomatch (show false = true from h)
theorem Laws.Encoding.partitionRebringupComplete (part : Nat) : Laws.Encoding.Statement (.partitionRebringupComplete part) :=
  fun h => nomatch (show false = true from h)
theorem Laws.Encoding.mirrorItemCompare (lh lc : Nat) : Laws.Encoding.Statement (.mirrorItemCompare lh lc) :=
  fun h => nomatch (show false = true from h)
theorem Laws.Encoding.mirrorHashMismatch (lh lc : Nat) : Laws.Encoding.Statement (.mirrorHashMismatch lh lc) :=
  fun h => nomatch (show false = true from h)
theorem Laws.Encoding.mirrorHashTimeout (lh lc : Nat) : Laws.Encoding.Statement (.mirrorHashTimeout lh lc) :=
  fun h => nomatch (show false = true from h)
theorem Laws.Encoding.triageDecision (lh lc : Nat) (t : Triage) : Laws.Encoding.Statement (.triageDecision lh lc t) :=
  fun h => nomatch (show false = true from h)
theorem Laws.Encoding.mirrorResyncComplete (lh lc : Nat) : Laws.Encoding.Statement (.mirrorResyncComplete lh lc) :=
  fun h => nomatch (show false = true from h)
theorem Laws.Encoding.lqtailWrite (q : Nat) (v : Word) : Laws.Encoding.Statement (.lqtailWrite q v) :=
  fun h => nomatch (show false = true from h)
theorem Laws.Encoding.queueEnable (q : Nat) : Laws.Encoding.Statement (.queueEnable q) :=
  fun h => nomatch (show false = true from h)
theorem Laws.Encoding.queueDisable (q : Nat) : Laws.Encoding.Statement (.queueDisable q) :=
  fun h => nomatch (show false = true from h)
theorem Laws.Encoding.queueCancel (q : Nat) : Laws.Encoding.Statement (.queueCancel q) :=
  fun h => nomatch (show false = true from h)
theorem Laws.Encoding.launchRecordTake (q : Nat) : Laws.Encoding.Statement (.launchRecordTake q) :=
  fun h => nomatch (show false = true from h)
theorem Laws.Encoding.launchEligible (lh : Nat) : Laws.Encoding.Statement (.launchEligible lh) :=
  fun h => nomatch (show false = true from h)
theorem Laws.Encoding.priorityAging (lh : Nat) : Laws.Encoding.Statement (.priorityAging lh) :=
  fun h => nomatch (show false = true from h)
theorem Laws.Encoding.slotBind (ix lh lc : Nat) : Laws.Encoding.Statement (.slotBind ix lh lc) :=
  fun h => nomatch (show false = true from h)
theorem Laws.Encoding.dispatch (ix : Nat) : Laws.Encoding.Statement (.dispatch ix) :=
  fun h => nomatch (show false = true from h)
theorem Laws.Encoding.slotVacate (ix : Nat) : Laws.Encoding.Statement (.slotVacate ix) :=
  fun h => nomatch (show false = true from h)
theorem Laws.Encoding.coreStop (ix : Nat) : Laws.Encoding.Statement (.coreStop ix) :=
  fun h => nomatch (show false = true from h)
theorem Laws.Encoding.saveComplete (ix : Nat) : Laws.Encoding.Statement (.saveComplete ix) :=
  fun h => nomatch (show false = true from h)
theorem Laws.Encoding.watchdogLimit1 (lh : Nat) : Laws.Encoding.Statement (.watchdogLimit1 lh) :=
  fun h => nomatch (show false = true from h)
theorem Laws.Encoding.watchdogLimit2 (lh : Nat) : Laws.Encoding.Statement (.watchdogLimit2 lh) :=
  fun h => nomatch (show false = true from h)
theorem Laws.Encoding.watchdogLimit3 (lh : Nat) : Laws.Encoding.Statement (.watchdogLimit3 lh) :=
  fun h => nomatch (show false = true from h)
theorem Laws.Encoding.quantumExpiry (lh : Nat) : Laws.Encoding.Statement (.quantumExpiry lh) :=
  fun h => nomatch (show false = true from h)
theorem Laws.Encoding.kernelCompletion (lh : Nat) : Laws.Encoding.Statement (.kernelCompletion lh) :=
  fun h => nomatch (show false = true from h)
theorem Laws.Encoding.contextEnable (ctx part : Nat) : Laws.Encoding.Statement (.contextEnable ctx part) :=
  fun h => nomatch (show false = true from h)
theorem Laws.Encoding.contextDisable (ctx : Nat) : Laws.Encoding.Statement (.contextDisable ctx) :=
  fun h => nomatch (show false = true from h)
theorem Laws.Encoding.fqresumeRetry (ctx fseq : Nat) : Laws.Encoding.Statement (.fqresumeRetry ctx fseq) :=
  fun h => nomatch (show false = true from h)
theorem Laws.Encoding.fqresumeDeny (ctx fseq : Nat) : Laws.Encoding.Statement (.fqresumeDeny ctx fseq) :=
  fun h => nomatch (show false = true from h)
theorem Laws.Encoding.rewalk (c : CoreId) (ticket : Nat) : Laws.Encoding.Statement (.rewalk c ticket) :=
  fun h => nomatch (show false = true from h)
theorem Laws.Encoding.faultQueueSpace (ctx : Nat) : Laws.Encoding.Statement (.faultQueueSpace ctx) :=
  fun h => nomatch (show false = true from h)
theorem Laws.Encoding.tlbinvPage (ctx : Nat) (va : Word) (size : Nat) : Laws.Encoding.Statement (.tlbinvPage ctx va size) :=
  fun h => nomatch (show false = true from h)
theorem Laws.Encoding.tlbinvAll (ctx : Nat) : Laws.Encoding.Statement (.tlbinvAll ctx) :=
  fun h => nomatch (show false = true from h)
theorem Laws.Encoding.tlbinvstAdvance (ctx : Nat) : Laws.Encoding.Statement (.tlbinvstAdvance ctx) :=
  fun h => nomatch (show false = true from h)
theorem Laws.Encoding.registerWrite (win : Window) (off : Nat) (v : Word) : Laws.Encoding.Statement (.registerWrite win off v) :=
  fun h => nomatch (show false = true from h)
theorem Laws.Encoding.timectlWrite (v : Word) : Laws.Encoding.Statement (.timectlWrite v) :=
  fun h => nomatch (show false = true from h)
theorem Laws.Encoding.pwrctlWrite (v : Word) : Laws.Encoding.Statement (.pwrctlWrite v) :=
  fun h => nomatch (show false = true from h)
theorem Laws.Encoding.ptpMessage (off : Int) (port : Nat) : Laws.Encoding.Statement (.ptpMessage off port) :=
  fun h => nomatch (show false = true from h)
theorem Laws.Encoding.ptmMessage (off : Int) : Laws.Encoding.Statement (.ptmMessage off) :=
  fun h => nomatch (show false = true from h)
theorem Laws.Encoding.timeReferenceLoss : Laws.Encoding.Statement (.timeReferenceLoss) :=
  fun h => nomatch (show false = true from h)
theorem Laws.Encoding.timeokExpiry : Laws.Encoding.Statement (.timeokExpiry) :=
  fun h => nomatch (show false = true from h)
theorem Laws.Encoding.powerControlPeriod (watts : Nat) (withhold : List (Fin 4 × Nat)) : Laws.Encoding.Statement (.powerControlPeriod watts withhold) :=
  fun h => nomatch (show false = true from h)
theorem Laws.Encoding.thermalThrottle (die : Fin 4) : Laws.Encoding.Statement (.thermalThrottle die) :=
  fun h => nomatch (show false = true from h)
theorem Laws.Encoding.thermalShutdown (die : Fin 4) : Laws.Encoding.Statement (.thermalShutdown die) :=
  fun h => nomatch (show false = true from h)
theorem Laws.Encoding.sensorRefresh (vals : List Nat) : Laws.Encoding.Statement (.sensorRefresh vals) :=
  fun h => nomatch (show false = true from h)
theorem Laws.Encoding.hbmCorrectedError (ch bank row col : Nat) : Laws.Encoding.Statement (.hbmCorrectedError ch bank row col) :=
  fun h => nomatch (show false = true from h)
theorem Laws.Encoding.hbmBankCopyComplete (ch bank : Nat) : Laws.Encoding.Statement (.hbmBankCopyComplete ch bank) :=
  fun h => nomatch (show false = true from h)
theorem Laws.Encoding.correctedErrorAging (ch : Nat) : Laws.Encoding.Statement (.correctedErrorAging ch) :=
  fun h => nomatch (show false = true from h)
theorem Laws.Encoding.powerOn : Laws.Encoding.Statement (.powerOn) :=
  fun h => nomatch (show false = true from h)
theorem Laws.Encoding.hbmStackReady (n : Fin 8) : Laws.Encoding.Statement (.hbmStackReady n) :=
  fun h => nomatch (show false = true from h)
theorem Laws.Encoding.dieReady (die : Fin 4) : Laws.Encoding.Statement (.dieReady die) :=
  fun h => nomatch (show false = true from h)
theorem Laws.Encoding.engineReady (n : Fin 8) : Laws.Encoding.Statement (.engineReady n) :=
  fun h => nomatch (show false = true from h)
theorem Laws.Encoding.appdieReady : Laws.Encoding.Statement (.appdieReady) :=
  fun h => nomatch (show false = true from h)
theorem Laws.Encoding.pcieLinkUp (n : Fin 5) : Laws.Encoding.Statement (.pcieLinkUp n) :=
  fun h => nomatch (show false = true from h)
theorem Laws.Encoding.scaleoutLinkUp (n : Fin 8) : Laws.Encoding.Statement (.scaleoutLinkUp n) :=
  fun h => nomatch (show false = true from h)
theorem Laws.Encoding.linkDown (scaleOut : Bool) (n : Fin 8) : Laws.Encoding.Statement (.linkDown scaleOut n) :=
  fun h => nomatch (show false = true from h)
theorem Laws.Encoding.firmwareUpdate (image sig : List Byte) (key : Fin 16) : Laws.Encoding.Statement (.firmwareUpdate image sig key) :=
  fun h => nomatch (show false = true from h)
theorem Laws.Encoding.getVersion : Laws.Encoding.Statement (.getVersion) :=
  fun h => nomatch (show false = true from h)
theorem Laws.Encoding.getCapabilities : Laws.Encoding.Statement (.getCapabilities) :=
  fun h => nomatch (show false = true from h)
theorem Laws.Encoding.negotiateAlgorithms (asym hash : BitVec 32) : Laws.Encoding.Statement (.negotiateAlgorithms asym hash) :=
  fun h => nomatch (show false = true from h)
theorem Laws.Encoding.getDigests : Laws.Encoding.Statement (.getDigests) :=
  fun h => nomatch (show false = true from h)
theorem Laws.Encoding.getCertificate (slot : Nat) (off len : Nat) : Laws.Encoding.Statement (.getCertificate slot off len) :=
  fun h => nomatch (show false = true from h)
theorem Laws.Encoding.challenge (slot : Nat) (nonce : List Byte) : Laws.Encoding.Statement (.challenge slot nonce) :=
  fun h => nomatch (show false = true from h)
theorem Laws.Encoding.getMeasurements (ix : Nat) : Laws.Encoding.Statement (.getMeasurements ix) :=
  fun h => nomatch (show false = true from h)
theorem Laws.Encoding.sheafCommandCompletion (c : CoreId) (ticket : Nat) : Laws.Encoding.Statement (.sheafCommandCompletion c ticket) :=
  fun h => nomatch (show false = true from h)
theorem Laws.Encoding.scopeAcknowledgement (c : CoreId) : Laws.Encoding.Statement (.scopeAcknowledgement c) :=
  fun h => nomatch (show false = true from h)
theorem Laws.Encoding.hostPathAccess (h : HostAccess) : Laws.Encoding.Statement (.hostPathAccess h) :=
  fun h => nomatch (show false = true from h)
theorem Laws.Encoding.ctxEcmd (w : BitVec 32) : Laws.Encoding.Statement (.ctxEcmd w) :=
  fun _ => rfl
theorem Laws.Encoding.outsideLoadedText : Laws.Encoding.Statement (.outsideLoadedText) :=
  fun h => nomatch (show false = true from h)
theorem Laws.Encoding.shutdown : Laws.Encoding.Statement (.shutdown) :=
  fun h => nomatch (show false = true from h)
theorem Laws.Encoding.configurationUpdate (u : ConfigUpdate) : Laws.Encoding.Statement (.configurationUpdate u) :=
  fun h => nomatch (show false = true from h)
theorem Laws.Encoding.dieCooled (die : Fin 4) : Laws.Encoding.Statement (.dieCooled die) :=
  fun h => nomatch (show false = true from h)

end Sys2Proof
end

