-- ==== Sys2Proof/Laws/Results.lean ====
section
/-! SUPPORT. What the shared operations of issue answer, in the vocabulary of the statements: operand forms, commands, waits, and the
outcome of a meaning. -/

namespace Sys2Proof.Claims

open Sys2Proof.Machine

/-! ### The outcome of a meaning -/

theorem run_ok (s t : State) : s.run (.ok t) = .next t := rfl
theorem run_trap (s : State) (t : Trap) : s.run (.error (.trap t)) = .next (s.takeTrap t s.core.pc) := rfl
theorem run_hold (s : State) : s.run (.error .hold) = .next s.held := rfl
theorem run_copy (s : State) (l : List Nat) : s.run (.error (.copy l)) = .next (s.copying l) := rfl
theorem run_goto (s t : State) : s.run (.error (.goto t)) = .next t := rfl
theorem runCore_ok (s : State) (c : Core) : s.runCore (.ok c) = .next (withC s c) := rfl
theorem runCore_trap (s : State) (t : Trap) : s.runCore (.error (.trap t)) = .next (s.takeTrap t s.core.pc) := rfl
theorem runCore_hold (s : State) : s.runCore (.error .hold) = .next s.held := rfl
theorem runCore_copy (s : State) (l : List Nat) : s.runCore (.error (.copy l)) = .next (s.copying l) := rfl

/-- A meaning answers a next state, whatever it comes to. -/
theorem run_next (s : State) (r : Res State) : ∃ t, s.run r = .next t := by
  rcases r with (_ | _ | _ | _) | _ <;> exact ⟨_, rfl⟩
theorem runCore_next (s : State) (r : Res Core) : ∃ t, s.runCore r = .next t := run_next s _

theorem need_true {p : Bool} (h : p = true) (k : Cause) (v : Word) : need p k v = .ok () := by simp [need, h]
theorem need_false {p : Bool} (h : p = false) (k : Cause) (v : Word) : need p k v = .error (.trap ⟨k, v⟩) := by simp [need, h]; rfl
theorem needIdle_true {p : Bool} (h : p = true) : needIdle p = .ok () := by simp [needIdle, h]
theorem needIdle_false {p : Bool} (h : p = false) : needIdle p = .error .hold := by simp [needIdle, h]; rfl
theorem notInHandler_ok {c : Core} (h : c.inh = false) : c.notInHandler = .ok () := by simp [Core.notInHandler, need, h]
theorem notInHandler_trap {c : Core} (h : c.inh = true) : c.notInHandler = .error (.trap ⟨.access, 0xE0⟩) := by
  simp [Core.notInHandler, need, h]; rfl

/-! ### Operand forms -/

theorem advance_done (c d : Core) (live : BitVec 32) (fl : List Flight) (now size : Nat)
    (h : d = { c with arch := { c.arch with livex := live }, flights := c.flights ++ fl }) : d.advance now size = done c now size live fl := by
  rw [Core.advance_eq, Core.loopEnd_congr c d size (by rw [h]) (by rw [h]) (by rw [h]) (by rw [h]) (by rw [h]), h]; rfl

theorem srcAB_ok (c : Core) (a b : XReg) (la lb : Bool) (ha : readable c a = true) (hb : readable c b = true) :
    c.srcAB a b la lb = .ok ((c.killX a la).killX b lb, c.xval a, c.xval b) := by
  unfold Core.srcAB; rw [Core.readX_ok _ _ ha, Core.readX_ok _ _ hb]; rfl

theorem srcA_ok (c : Core) (a : XReg) (la : Bool) (ha : readable c a = true) : c.srcA a la = .ok (c.killX a la, c.xval a) := by
  unfold Core.srcA; rw [Core.readX_ok _ _ ha]; rfl

theorem opAB_done (c : Core) (now lat : Nat) (r : R3) (f : Word → Word → Word) (ha : readable c r.a = true) (hb : readable c r.b = true) :
    c.opAB now lat r f =
      .ok (done c now 4 (killed c [(r.a, r.la), (r.b, r.lb)]) (xwrite c now lat r.d (f (c.xval r.a) (c.xval r.b)))) := by
  unfold Core.opAB
  rw [Core.readX_ok c r.a ha, Core.readX_ok c r.b hb]
  change Except.ok _ = Except.ok _
  congr 1
  apply advance_done
  simp only [Core.writeX_eq, Core.killX_eq, killed, xwrite, List.foldl]

theorem opA_done (c : Core) (now lat : Nat) (r : R2) (f : Word → Word) (ha : readable c r.a = true) :
    c.opA now lat r f = .ok (done c now 4 (killed c [(r.a, r.la)]) (xwrite c now lat r.d (f (c.xval r.a)))) := by
  unfold Core.opA
  rw [Core.readX_ok c r.a ha]
  change Except.ok _ = Except.ok _
  congr 1
  apply advance_done
  simp only [Core.writeX_eq, Core.killX_eq, killed, xwrite, List.foldl]

theorem opD_done (c : Core) (now lat size : Nat) (d : XReg) (v : Word) :
    c.opD now lat size d v = .ok (done c now size c.arch.livex (xwrite c now lat d v)) := by
  unfold Core.opD
  congr 1
  apply advance_done
  simp only [Core.writeX_eq, xwrite]

/-! ### Commands -/

theorem buf_done (c d : Core) (now : Nat) (live : BitVec 32) (b : Buf)
    (h : d = { c with arch := { c.arch with livex := live }, sbuf := c.sbuf ++ [b] }) : d.advance now 4 = buffered c now live b := by
  rw [Core.advance_eq, Core.loopEnd_congr c d 4 (by rw [h]) (by rw [h]) (by rw [h]) (by rw [h]) (by rw [h]), h]; simp [buffered, done]

theorem command_ok (c : Core) (d : XReg) (cmd : Cmd) (h : cmdsOf c.sbuf < 16) :
    c.command d cmd = .ok { c with sbuf := c.sbuf ++ [.cmd c.iseq d cmd] } := by
  unfold Core.command; rw [if_neg (by omega)]

theorem command_full (c : Core) (d : XReg) (cmd : Cmd) (h : 16 ≤ cmdsOf c.sbuf) :
    c.command d cmd = .error (.trap ⟨.regionOvf, 1 <<< 63⟩) := by
  unfold Core.command; rw [if_pos h]; rfl

/-- An engine command whose checks accept is buffered with what they read. -/
theorem ecmd_buffers (s : State) (r : R3) (f : Core → Word → Word → Res Cmd) (cmd : Cmd) (h : canIssue s [r.a, r.b])
    (hf : f ((s.core.killX r.a r.la).killX r.b r.lb) (s.core.xval r.a) (s.core.xval r.b) = .ok cmd) :
    s.ecmd r f = .next (withC s (buffered s.core s.now (killed s.core [(r.a, r.la), (r.b, r.lb)]) (.cmd s.core.iseq r.d cmd))) := by
  obtain ⟨h1, h2, h3⟩ := h
  have ha := h2 r.a (by simp)
  have hb := h2 r.b (by simp)
  unfold State.ecmd
  rw [notInHandler_ok h1]
  simp only [srcAB_ok _ _ _ _ _ ha hb, bind, Except.bind, hf]
  have hs : cmdsOf ((s.core.killX r.a r.la).killX r.b r.lb).sbuf < 16 := by
    have : cmdsOf ((s.core.killX r.a r.la).killX r.b r.lb).sbuf = cmdsOf s.core.sbuf := by simp [Core.killX_eq]
    omega
  rw [command_ok _ _ _ hs]
  simp only [State.runCore, Except.map, State.run]
  unfold withC
  congr 2
  apply buf_done
  simp [Core.killX_eq, killed]

/-! ### Waits -/

theorem wake_returned (c : Core) (now : Nat) (d : XReg) (v : Word) : c.wake now d v = returned c now d v := by
  have e : ({ c with run := .ready } : Core).setX d v = { c.setX d v with run := .ready } := by
    unfold Core.setX Core.remember; repeat' split
    all_goals first | rfl | simp_all
  unfold Core.wake Core.wakeN returned done
  rw [e, Core.advance_eq, Core.loopEnd_congr (c.setX d v) { c.setX d v with run := .ready } wordSize rfl rfl rfl rfl rfl]
  simp [wordSize]

/-- A wait whose region has committed goes on from the committed state. -/
theorem runWait_ok (s t : State) (body : State → Res State) (h : s.beginWait = .ok t) : s.runWait body = t.run (body t) := by
  unfold State.runWait; rw [h]

/-- A commit point whose region has committed goes on from the committed state. -/
theorem runCommitted_ok (s t : State) (body : State → Res State) (hi : s.core.inh = false) (h : s.commitAt s.core.pc = .ok t) :
    s.runCommitted body = t.run (body t) := by
  unfold State.runCommitted; rw [notInHandler_ok hi]; simp only [bind, Except.bind, h]

/-- A wait sleeps while its condition does not hold. -/
theorem sleep_asleep (s : State) (w : Wait) (h : (withC s (asleep s.core w)).due (asleep s.core w) w = false) :
    s.sleep w = .ok (withC s (asleep s.core w)) := by
  unfold State.sleep; simp only [withC, asleep] at h ⊢; rw [if_neg (by simp [h])]

/-! ### Umbra -/

/-- Nothing is held for an undo line outside an Umbra launch. -/
theorem undoHold_plain (s : State) (lh : Nat) (p : Core → Bool) (l : List Nat) (h : (s.recOf lh).umbra = false) :
    s.undoHold lh p l = none := by
  simp [State.undoHold, State.umbra, h]

end Sys2Proof.Claims
end

