-- ==== Sys2Proof/Tests/Slice0.lean ====
section
/-! SUPPORT. Tests of the model on small states: ill-formed terms, words written out from the spec's encodings, single steps with
results from the spec's own examples or calculated by hand, and a witness for the hypotheses of every statement. -/

set_option linter.unusedVariables false

namespace Sys2Proof.Tests

set_option Elab.async false

open Sys2Proof Sys2Proof.Machine Sys2Proof.Claims

/-! ### Small states -/

/-- A started launch of two logical cores that form its group 0. -/
def l0 : Launch :=
  { newLaunch 1 0 1 1 { LaunchRec.zero with kind := 1, grid := 2 } with
    status := .started
    kern := { Kernel.zero with groups := [[0, 1]] } }
/-- Logical core 0 of that launch, about to issue at 0x40. -/
def c0 : Core :=
  { Core.empty with id := ⟨1, 0, false⟩, ctx := 1, run := .ready, pc := 0x40, regpc := 0x40, slot := 5 }
/-- The package with that core alone. -/
def s0 : State := { State.reset with core := c0, launches := [l0] }
/-- The issuing core changed. -/
def up (f : Core → Core) (s : State) : State := { s with core := f s.core }
/-- Integer registers set. -/
def xs (l : List (XReg × Word)) (s : State) : State :=
  up (fun c => { c with arch := { c.arch with x := l.foldl (fun v p => v.set p.1 p.2) c.arch.x } }) s
/-- STATUS set. -/
def st (w : Word) (s : State) : State := up (fun c => { c with arch := { c.arch with status := w } }) s
/-- In the trap handler. -/
def inHandler (s : State) : State := st 0x1000 s
/-- An integer register dead, with STATUS.DCHK set. -/
def dead (r : XReg) (s : State) : State :=
  up (fun c => { c with arch := { c.arch with status := 4, livex := c.arch.livex &&& ~~~(1#32 <<< r.val) } }) s
/-- A property of the next state of an instruction. -/
def after (o : Out) (p : State → Bool) : Bool :=
  match o with
  | .next t => p t
  | _ => false
/-- A property of the state that an internal operation answers. -/
def okAnd (o : Except Stop State) (p : State → Bool) : Bool :=
  match o with
  | .ok t => p t
  | .error _ => false

/-! ### Ill-formed terms: one for each check of WellFormed -/

/-- R193: MSG.N's position is a multiple of its width. -/
theorem test_wf_msgN : (Instr.msgN ⟨8, 9, false, false⟩ .four 2).wf = false ∧ (Instr.msgN ⟨8, 9, false, false⟩ .four 4).wf = true := by decide
/-- R168: a fence names at least one kind on each side. -/
theorem test_wf_fence : (Instr.fence .device 0 4).wf = false ∧ (Instr.fence .device 4 0).wf = false ∧ (Instr.fence .device 4 4).wf = true := by decide
/-- R263: a loop's end lies at least two halfwords on. -/
theorem test_wf_loops : (Instr.loopS 0 ⟨5, false⟩ 1).wf = false ∧ (Instr.loopSi 1 3 0).wf = false ∧ (Instr.loopS 0 ⟨5, false⟩ 2).wf = true := by decide
/-- R349: RGN.LIMIT 0 is no instruction. -/
theorem test_wf_limit : (Instr.rgnLimit 0).wf = false ∧ (Instr.rgnLimit 255).wf = true := by decide
/-- R118, R119: formats that the conversions do not take. -/
theorem test_wf_conversions :
    (Instr.vcvtn ⟨1, 2, .bfp8, 2, 0, false⟩).wf = false ∧ (Instr.vcvtw ⟨1, 2, .fp16, 0, 0, false⟩).wf = false ∧
    (Instr.vcvtsr ⟨1, 2, .sc8, 2, 0, false⟩).wf = false ∧ (Instr.vcvtn ⟨1, 2, .fp8a, 2, 0, false⟩).wf = true := by decide
/-- R121: UINT8 is no block format. -/
theorem test_wf_blocks :
    (Instr.vqscale ⟨5, 3, .uint8, 2, 0, false⟩).wf = false ∧ (Instr.vquant ⟨5, 3, .uint8, 2, 0, false⟩).wf = false ∧
    (Instr.vdeq ⟨5, 3, .uint8, 2, 0, false⟩).wf = false ∧ (Instr.vquant ⟨5, 3, .fp8a, 2, 0, false⟩).wf = true := by decide
/-- R39, R40: the halfword 0, and sz on the forms without elements. -/
theorem test_wf_compact :
    (Instr.clVadd ⟨0, 0, false, false⟩).wf = false ∧ (Instr.clVand ⟨1, 2, false, true⟩).wf = false ∧
    (Instr.clVor ⟨1, 2, false, true⟩).wf = false ∧ (Instr.clVxor ⟨1, 2, false, true⟩).wf = false ∧
    (Instr.clVmov ⟨1, 2, false, true⟩).wf = false ∧ (Instr.clVadd ⟨0, 0, false, true⟩).wf = true := by decide
/-- R48: only a word of major 0x17 with ENG 6 is a management command, and an event has no encoding. -/
theorem test_wf_events :
    (Instr.ctxEcmd 0).wf = false ∧ (Instr.ctxEcmd 0x0600002F).wf = true ∧ (Instr.tick 1).wf = false ∧
    encode (.tick 1) = none := by decide +kernel

/-! ### Words of the spec, and words built from its encoding tables -/

/-- What bytes decode to. -/
noncomputable def readsAs (bs : List Byte) (i : Instr) : Bool :=
  match decode bs with
  | .ok (j, rest) => decide (j = i) && rest.isEmpty
  | .error _ => false
/-- Why bytes do not decode. -/
noncomputable def refuses (bs : List Byte) (e : DecodeError) : Bool :=
  match decode bs with
  | .ok _ => false
  | .error r => decide (r = e)
/-- A 32-bit word stands for an instruction, its bytes stored low byte first. -/
noncomputable def reads (w : BitVec 32) (i : Instr) : Bool := readsAs (bytesOfWord w) i
/-- The same of a halfword. -/
noncomputable def readsC (h : BitVec 16) (i : Instr) : Bool := readsAs (bytesOfHalf h) i

/-- OP, OPI, OPW, OPIW, LUI and AUIPC: the words of R103, R104 and "Six words decoded"; the rest bit by bit from R37 and R47. -/
theorem test_decode_integer :
    (reads 0x008A4181 (.add ⟨3, 4, 5, false, true⟩) && reads 0x88949401 (.subsat ⟨8, 9, 10, false, true⟩) &&
    reads 0xFFA07383 (.addi ⟨7, 7, false, 0x7FD⟩) && reads 0x10786283 (.srai ⟨5, 6, false, 3⟩) &&
    reads 0b00101_000_0_1_00111_00110_00101_000010_1#32 (.mulw ⟨5, 6, 7, true, false⟩) &&
    reads 0b11111111110_000_1_00110_00101_000011_1#32 (.addiw ⟨5, 6, true, 0x7FE⟩) &&
    reads 0b000_01_011111_001_0_00110_00101_000011_1#32 (.srliw ⟨5, 6, false, 31⟩) &&
    reads 0b10000000000000000001_00101_000100_1#32 (.lui ⟨5, 0x80001⟩) &&
    reads 0b00000000000000000001_00101_000101_1#32 (.auipc ⟨5, 1⟩)) = true := by decide +kernel
/-- MULDIV and BIT, bit by bit from R37, R107 and R108. -/
theorem test_decode_muldiv_bit :
    (reads 0b00111_000_1_0_00111_00110_00101_000110_1#32 (.remu ⟨5, 6, 7, false, true⟩) &&
    reads 0b00010_000_0_1_00000_00110_00101_000111_1#32 (.popc ⟨5, 6, true⟩) &&
    reads 0b00111_000_0_0_00111_00110_00101_000111_1#32 (.ins ⟨5, 6, 7, false, false⟩)) = true := by decide +kernel
/-- LDL, STL, MSG, ATOM, LOGA, FENCE and WAIT: the words of R57, R188, R193, R195, R197, R199, R204 and of the allreduce program. -/
theorem test_decode_memory :
    (reads 0x0110A291 (.ldW ⟨5, 10, false, 8⟩) && reads 0x020C2613 (.stW ⟨2, 6, false, false, 12⟩) &&
    reads 0x18128215 (.msgN ⟨8, 9, false, false⟩ .four 4) && reads 0x010E6297 (.amoadd true ⟨5, 6, 7, false, false⟩) &&
    reads 0x20128019 (.logFadd false ⟨8, 9, false, false⟩) && reads 0x0008429B (.fence .device 4 4) &&
    reads 0x0800101B (.fenceX .core .mma .core) && reads 0x0800911D (.waitseq .copy ⟨9, false⟩) &&
    reads 0x0000C69D (.waita ⟨13, 12, 0, false, false⟩)) = true := by decide +kernel
/-- TIME, BR, JAL, JALR, LOOP, REGION, SYS and GROUP: the words of R260, R261, R263, R267, R274, R328 and R349. -/
theorem test_decode_control :
    (reads 0x0000029F (.time 5) && reads 0x1000701F (.sleepu ⟨7, false⟩) && reads 0x1800031F (.realign 6) &&
    reads 0xF9004E21 (.bne ⟨4, 0, false, false, 0b1111111100⟩) && reads 0x000200A3 (.jal ⟨1, 0x20⟩) &&
    reads 0x01805027 (.loopS 0 ⟨5, false⟩ 12) && reads 0x00080027 (.loopX 0) &&
    reads 0x00680029 (.rgnLimit 3) && reads 0x00140329 (.snap 6)) = true := by decide +kernel
/-- The same families, and JALR bit by bit from R37. -/
theorem test_decode_system :
    (reads 0b11111111100_000_1_00011_00001_010010_1#32 (.jalr ⟨1, 3, true, 0x7FC⟩) &&
    reads 0x200202AB (.sysr 5 .fflags) && reads 0x210603AB (.sysr 7 (.seed 3)) && reads 0x3000602B (.sysset .status ⟨6, false⟩) &&
    reads 0x1000502B (.trap ⟨5, false⟩) && reads 0x4800802B (.inject ⟨8, false⟩) && reads 0x100062AD (.gbar ⟨5, 6, false⟩) &&
    refuses (bytesOfWord 0x018A4181) (.illegal 0x018A4181)) = true := by decide +kernel
/-- ECMD: the words of R206, R210, R220, R221, R284, R286, R292 and R343, and BOSET bit by bit. -/
theorem test_decode_engines :
    (reads 0x0296A4AF (.copyin ⟨9, 10, 11, false, true⟩) && reads 0x1216A4AF (.copyout ⟨9, 10, 11, false, false⟩) &&
    reads 0x230054AF (.shfTake ⟨9, 5, false⟩) && reads 0x530078AF (.shfStat ⟨17, 7, false⟩) &&
    reads 0x1400642F (.scnRun ⟨8, 6, false⟩) && reads 0x440003AF (.scnClose 7) && reads 0x0500242F (.cagrp ⟨8, 2, false⟩) &&
    reads 0x150095AF (.cldred ⟨11, 9, false⟩) && reads 0x090C502F (.trcEmit ⟨0, 5, 6, false, false⟩) &&
    reads 0b0000_1000_0_0_00111_00110_00101_010111_1#32 (.boset ⟨5, 6, 7, false, false⟩) &&
    reads 0b0000_0110_0_0_00000_00000_00000_010111_1#32 (.ctxEcmd 0x0600002F)) = true := by decide +kernel
/-- LFP, LCVT, LSTRM and LMEM: the words of R37, R118, R127 and R192; LALU, LRED, LSFU and LMASK bit by bit from R37. -/
theorem test_decode_lane :
    (reads 0x0E432A33 (.vfma ⟨4, 5, 6, 2, 2, false, false⟩) && reads 0x020190B5 (.vcvtn ⟨1, 2, .fp8a, 2, 0, false⟩) &&
    reads 0x040038BD (.strmCfg 1 7 false) && reads 0x1E0021BF (.vldacc ⟨3, 4, false, false, 0, false⟩) &&
    reads 0b001011_01_011_1_0_0111_0110_0101_011000_1#32 (.vsll ⟨5, 6, 7, 1, 3, false, true⟩) &&
    reads 0b000001_11_010_0_1_0000_0110_0101_011011_1#32 (.vredmax ⟨5, 6, 3, 2, true⟩) &&
    reads 0b000110_10_001_0_1_0000_0110_0101_011100_1#32 (.verf ⟨5, 6, 1, true⟩) &&
    reads 0b000100_00_000_0_0_0111_0110_0101_011101_1#32 (.kmovx 5 6 7)) = true := by decide +kernel
/-- MMA, RING and TNET: the words of R141, R145 and R277; TID bit by bit. -/
theorem test_decode_matrix :
    (reads 0x08AB44C1 (.mmaz ⟨9, 20, 21, false, true⟩) && reads 0x000C5143 (.ringset 2 ⟨5, 6, false, false⟩) &&
    reads 0x000C5047 (.tsend ⟨5, 6, false, false⟩) && reads 0b00010_001_0_0_00000_00000_00101_100000_1#32 (.mmaqC 5) &&
    reads 0b00001_000_1_0_00111_00110_00101_100010_1#32 (.tidget ⟨5, 6, 7, false, true⟩)) = true := by decide +kernel
/-- The halfwords of "Six words decoded" and R349, a compact load and branch, and a word cut short. -/
theorem test_decode_compact :
    (readsC 0xF4E2 (.cAddi 7 0b111101) && readsC 0x0CA0 (.clVfadd ⟨2, 3, false, false⟩) && readsC 0x4CA0 (.clVfadd ⟨2, 3, true, false⟩) &&
    readsC 0x001E .cRgn && readsC 0b111111_00101_011_10#16 (.cLdl 5 63) && readsC 0b100000_00101_110_10#16 (.cBnez 5 0b100000) &&
    readsC 0b0_00110_00101_001_10#16 (.cMv 5 6) && refuses [0x81, 0x41] .outsideText) = true := by decide +kernel

/-! ### Single steps -/

/-- A lane register from 32-bit elements, element 0 first. -/
def lane32 (l : List (BitVec 32)) : Lane := BitVec.ofNat 512 (l.foldr (fun w n => n * 2 ^ 32 + w.toNat) 0)
/-- Lane registers set. -/
def vs (l : List (VReg × Lane)) (s : State) : State :=
  up (fun c => { c with arch := { c.arch with v := l.foldl (fun v p => v.set p.1 p.2) c.arch.v } }) s
/-- Scratchpad bytes set. -/
def lm (l : List Host.Cell) (s : State) : State := up (fun c => { c with mem := l }) s
/-- The last write in flight is of an integer register, this one with this value. -/
def puts (d : XReg) (v : Word) (t : State) : Bool :=
  match t.core.flights.getLast? with
  | some f => f.dst == .x d v
  | none => false
/-- The last write in flight is of a lane register, this one with this value, and raises these flags. -/
def putsV (d : VReg) (v : Lane) (fl : Flags) (t : State) : Bool :=
  match t.core.flights.getLast? with
  | some f => (match f.dst with | .v r w _ => r == d && w == v | _ => false) && f.flags == fl
  | none => false
/-- The core has trapped with this cause and TVAL. -/
def trapped (c : Cause) (tval : Word) (t : State) : Bool := t.core.cause == wd c.code && t.core.tval == tval

/-- R103's example: SUBSAT holds at the most negative number, and x10 is dead. -/
theorem test_subsat : after (exec (.subsat ⟨8, 9, 10, false, true⟩) (xs [(9, 0x8000000000000005), (10, 6)] s0))
    (fun t => puts 8 0x8000000000000000 t && !t.core.arch.livex.getLsbD 10) = true := by decide +kernel
/-- R108's example: EXTS and EXTU of four bits at position 4. -/
theorem test_exts : after (exec (.exts ⟨5, 6, 7, false, false⟩) (xs [(6, 0xF0), (7, 0x404)] s0))
    (puts 5 0xFFFFFFFFFFFFFFFF) = true := by decide +kernel
theorem test_extu : after (exec (.extu ⟨5, 6, 7, false, false⟩) (xs [(6, 0xF0), (7, 0x404)] s0)) (puts 5 0xF) = true := by decide +kernel
/-- R107: MULHSU takes its first operand signed and its second unsigned: −1 × (2^64 − 1) has −1 above bit 64. -/
theorem test_mulhsu : after (exec (.mulhsu ⟨5, 6, 7, false, false⟩) (xs [(6, -1), (7, -1)] s0)) (puts 5 (-1)) = true := by decide +kernel
/-- R107: the most negative number over −1 is itself, and the remainder of a division by 0 is the dividend. -/
theorem test_div : after (exec (.div ⟨5, 6, 7, false, false⟩) (xs [(6, 1 <<< 63), (7, -1)] s0)) (puts 5 (1 <<< 63)) = true := by decide +kernel
theorem test_rem : after (exec (.rem ⟨5, 6, 7, false, false⟩) (xs [(6, -7), (7, 0)] s0)) (puts 5 (-7)) = true := by decide +kernel
/-- R105: SRAW of 0x80000000 by 31 is −1, whatever the upper half holds. -/
theorem test_sraw : after (exec (.sraw ⟨5, 6, 7, false, false⟩) (xs [(6, 0x7000000080000000), (7, 63)] s0)) (puts 5 (-1)) = true := by
  decide +kernel
/-- R187: LD.B extends the sign of its byte, LD.BU does not. -/
theorem test_ldB : after (exec (.ldB ⟨5, 6, false, 1⟩) (xs [(6, 0x3FF)] (lm [⟨0x400, 0x80⟩] s0))) (puts 5 0xFFFFFFFFFFFFFF80) = true := by
  decide +kernel
theorem test_ldBu : after (exec (.ldBu ⟨5, 6, false, 1⟩) (xs [(6, 0x3FF)] (lm [⟨0x400, 0x80⟩] s0))) (puts 5 0x80) = true := by
  decide +kernel
/-- R188, R348: ST.H takes one line of the store buffer, with the two low bytes, the low one at the lower address. -/
theorem test_stH : after (exec (.stH ⟨6, 7, false, false, 0x7FE⟩) (xs [(6, 0x44), (7, 0xABCD)] s0))
    (fun t => t.core.sbuf == [.line 1 [⟨0x42, 0xCD⟩, ⟨0x43, 0xAB⟩]] && t.core.mem == []) = true := by decide +kernel
/-- R187, R334: a load across its alignment traps MISALIGN with the address in TVAL. -/
theorem test_ldW_misaligned : after (exec (.ldW ⟨5, 6, false, 0⟩) (xs [(6, 0x102)] s0)) (trapped .misalign 0x102) = true := by decide +kernel
/-- R43: a dead lane register traps DEADREAD with bit 5 of TVAL set. -/
theorem test_dead_lane : after (exec (.vadd ⟨1, 2, 3, 2, 0, false, false⟩)
    (up (fun c => { c with arch := { c.arch with status := 4, livev := 0xFFF7 } }) s0)) (trapped .deadread 0x23) = true := by decide +kernel
/-- R260: BLT compares signed numbers; the offset counts halfwords. -/
theorem test_blt : after (exec (.blt ⟨7, 0, false, false, 0x3FC⟩) (xs [(7, -1)] s0)) (fun t => t.core.pc == 0x38) = true := by decide +kernel
/-- R264: an instruction at a loop's end goes back and lowers the count. -/
theorem test_loop_end : after (exec (.cLi 5 1) (up (fun c => { c with
      arch := { c.arch with lc := #v[3, 0], ls := #v[0x30, 0], le := #v[0x40, 0] } }) s0))
    (fun t => t.core.pc == 0x30 && t.core.arch.lc == #v[2, 0]) = true := by decide +kernel
/-- R118's example, the word 0x020190B5: 1.0, −0.5, 464.0 and −0.0 in FP8A, with NX alone. -/
theorem test_vcvtn : after (exec (.vcvtn ⟨1, 2, .fp8a, 2, 0, false⟩) (vs [(2, lane32 [0x3F800000, 0xBF000000, 0x43E80000, 0x80000000])] s0))
    (putsV 1 0x807EB038 1) = true := by decide +kernel
/-- R121's example: the scale of a block of amax 20 in FP8A. -/
theorem test_vqscale : after (exec (.vqscale ⟨5, 3, .fp8a, 2, 0, false⟩) (vs [(3, lane32 [0x41A00000])] s0))
    (fun t => match t.core.flights.getLast? with
      | some f => (match f.dst with | .v 5 w _ => w == 0x54 + (0x54 <<< 504) | _ => false)
      | none => false) = true := by decide +kernel
/-- R121's example: {20, −3, 0.25, 0, …} quantised against that scale. -/
theorem test_vquant : after (exec (.vquant ⟨5, 4, .fp8a, 2, 0, false⟩)
    (vs [(4, lane32 [0x41A00000, 0xC0400000, 0x3E800000]), (5, 0x54 + (0x54 <<< 504))] s0))
    (putsV 5 (0x4BE87D + (0x54 <<< 504)) 1) = true := by decide +kernel
/-- R121's example: the quantised values times 0.046875 are 19.5, −3.0 and 0.2578125. -/
theorem test_vdeq : after (exec (.vdeq ⟨6, 5, .fp8a, 2, 0, false⟩) (vs [(5, 0x4BE87D + (0x54 <<< 504))] s0))
    (putsV 6 (lane32 [0x419C0000, 0xC0400000, 0x3E840000]) 0) = true := by decide +kernel
/-- R126: KFIRST keeps the lowest set bit. -/
theorem test_kfirst : after (exec (.kfirst 1 2) (up (fun c => { c with arch := { c.arch with k := c.arch.k.set 2 0x18 } }) s0))
    (fun t => match t.core.flights.getLast? with | some f => f.dst == .k 1 8 | none => false) = true := by decide +kernel
/-- R196's example: a VLD.D of bank 5 while an atomic owns it in cycles 51 to 53 traps BANKCONF with TVAL 0x315. -/
theorem test_bankconf : after (exec (.vld ⟨1, 6, 0, 3, 0, false, false⟩)
    (xs [(6, 0x1140)] { up (fun c => { c with bankUse := [⟨5, 51, 53, 3⟩] }) s0 with now := 52 })) (trapped .bankconf 0x315) = true := by
  decide +kernel
/-- R195, R196: AMOADD.D returns the old doubleword after four cycles. -/
theorem test_amoadd : after (exec (.amoadd true ⟨5, 6, 7, false, false⟩) (xs [(6, 0x140), (7, 3)] (lm [⟨0x140, 9⟩] s0)))
    (fun t => puts 5 9 t || t.core.arch.x[5] == 9) = true := by decide +kernel
/-- R330, R332: SYSW of FFLAGS keeps eight bits, and of a seed turns 0 into 1. -/
theorem test_sysw_fflags : after (exec (.sysw .fflags ⟨6, false⟩) (xs [(6, 0x1FF)] s0)) (fun t => t.core.arch.fflags == 0xFF) = true := by
  decide +kernel
theorem test_sysw_seed : after (exec (.sysw (.seed 3) ⟨6, false⟩) s0) (fun t => t.core.arch.seed[3] == 1) = true := by decide +kernel
/-- R146, R33: RINGPUSH of an unconfigured ring traps ILLEGAL. -/
theorem test_ring_unconfigured : after (exec (.ringpush 0 ⟨6, false⟩) s0) (fun t => t.core.cause == 1) = true := by decide +kernel
/-- R267: SLEEPU until a time that is past returns at once, and until a later one sleeps. -/
theorem test_sleepu : after (exec (.sleepu ⟨6, false⟩) (xs [(6, 5)] s0)) (fun t => t.core.run == .waiting (.sleepu 5)) = true := by
  decide +kernel
/-- R336: ECALL waits on a fault-queue entry, with CAUSE 10. -/
theorem test_ecall : after (exec .ecall s0) (fun t => t.core.cause == 10 && t.core.epc == 0x40) = true := by decide +kernel

/-! ### Witnesses: states and operands that meet the hypotheses of each statement, clause by clause -/

/-- A launch with a tick and every group holding both cores. -/
def lt : Launch :=
  { l0 with lrec := { LaunchRec.zero with kind := 1, grid := 2, gang := 1, timed := true, tick := 100 } }
/-- The package with a timed launch. -/
def s1 : State := { s0 with launches := [lt] }
/-- A launch whose gangs have two members. -/
def s2 : State := { s0 with launches := [{ l0 with lrec := { LaunchRec.zero with kind := 1, grid := 2, gang := 2 } }] }
/-- The core in a region that leaves work behind. -/
def buffered (l : List Buf) (s : State) : State := up (fun c => { c with sbuf := l }) s
/-- Loops set: counts, starts and ends. -/
def lp (lc0 lc1 le0 le1 : Word) (s : State) : State :=
  up (fun c => { c with arch := { c.arch with lc := #v[lc0, lc1], ls := #v[0x30, 0x34], le := #v[le0, le1] } }) s

/-- DecodeEncode: an instruction that is well formed, of the longest and of the shortest kind. -/
theorem witness_DecodeEncode : (Instr.fence .system 7 1).wf = true ∧ Instr.cRgn.wf = true ∧ (Instr.rgnLimit 255).wf = true := by decide
/-- EncodeDecode: codes that are accepted, at the ends of the opcode map. -/
theorem witness_EncodeDecode : (∃ i, decodeCode (.word 0x00000001) = .ok i) ∧ (∃ i, decodeCode (.half 0x001E) = .ok i) :=
  ⟨⟨.add ⟨0, 0, 0, false, false⟩, by rfl⟩, ⟨.cRgn, by rfl⟩⟩
/-- InstructionLength: first bytes of either length, and bytes cut short at both ends. -/
theorem witness_InstructionLength :
    (0xFE : Byte).getLsbD 0 = false ∧ (0x01 : Byte).getLsbD 0 = true ∧ ([0x02] : List Byte).length < 2 ∧
    ([0x01, 0, 0] : List Byte).length < 4 ∧ ∃ b t, ([0x01, 0, 0] : List Byte) = b :: t ∧ b.getLsbD 0 = true :=
  ⟨by decide, by decide, by decide, by decide, 0x01, [0, 0], rfl, by decide⟩
/-- IllegalCodes: majors 0x24 and 0x3F, units 0 and 15, MMAQ with m3 = 2 and 4, C.MV with bit 15, C.RGN with a bit of d. -/
theorem witness_IllegalCodes :
    ((0b0_100100_1#32).getLsbD 0 = true ∧ 0x24 ≤ ((0b0_100100_1#32).extractLsb' 1 6).toNat) ∧
    ((0b0_111111_1#32).getLsbD 0 = true ∧ 0x24 ≤ ((0b0_111111_1#32).extractLsb' 1 6).toNat) ∧
    ((0x0000002F#32).getLsbD 0 = true ∧ (0x0000002F#32).extractLsb' 1 6 = 0x17#6 ∧
      ((0x0000002F#32).extractLsb' 24 4).toNat ∈ [0, 1, 7, 10, 11, 12, 13, 14, 15]) ∧
    ((0x0F00002F#32).extractLsb' 1 6 = 0x17#6 ∧ ((0x0F00002F#32).extractLsb' 24 4).toNat ∈ [0, 1, 7, 10, 11, 12, 13, 14, 15]) ∧
    ((0x12000041#32).getLsbD 0 = true ∧ (0x12000041#32).extractLsb' 1 6 = 0x20#6 ∧ (0x12000041#32).extractLsb' 27 5 = 2#5 ∧
      ((0x12000041#32).getLsbD 25 = true ∨ (0x12000041#32).getLsbD 26 = true)) ∧
    ((0x8006#16).extractLsb' 0 2 = 2#2 ∧ (0x8006#16).extractLsb' 2 3 = 1#3 ∧ (0x8006#16).getLsbD 15 = true) ∧
    ((0x003E#16).extractLsb' 0 2 = 2#2 ∧ (0x003E#16).extractLsb' 2 3 = 7#3 ∧ (0x003E#16).extractLsb' 5 11 ≠ 0#11) := by decide
/-- ScalarArithmetic: operands that are live, and operands that are dead with STATUS.DCHK clear; three operands that are readable, x0 among
them. -/
theorem witness_ScalarArithmetic : two ≠ [] ∧ one 0 0 0 1 2 true ≠ [] ∧ readable s0.core 31 = true ∧
    readable (st 0 (dead 31 s0)).core 31 = true ∧ (dead 31 s0).core.liveX 31 = false ∧ readable s0.core 0 = true ∧ readable (dead 31 s0).core 0 = true :=
  ⟨by simp [two], by simp [one], by decide, by decide, by decide, by decide, by decide⟩
/-- DeadReadTraps: the first source dead, and the second alone. -/
theorem witness_DeadReadTraps : two ≠ [] ∧ (dead 31 s0).core.dchk = true ∧ (dead 31 s0).core.liveX 31 = false ∧
    (dead 31 s0).core.liveX 1 = true :=
  ⟨by simp [two], by decide, by decide, by decide⟩
/-- HardWiredRegisters: the last live register and the last mask register. -/
theorem witness_HardWiredRegisters : (31 : XReg) ≠ 0 ∧ s0.core.arch.livex.getLsbD (31 : XReg) = true ∧ (7 : KReg) ≠ 0 := by decide
/-- A stream of two 64-byte lines from 0x40 on, read or write, at a position, bound to v1. -/
def strm (write : Bool) (pos : Nat) (s : State) : State :=
  up (fun c => { c with arch := { c.arch with streams := c.arch.streams.set 1 ⟨true, true, 0x40, 2, 64, 1, 64, write, pos⟩ } }) s
/-- A write in flight of a lane register, due in cycle 4. -/
def laneFlight (r : VReg) (s : State) : State := { up (fun c => { c with flights := [⟨0, 0, 4, 0, .v r 9 3, 1, false⟩] }) s with now := 4 }
/-- No ring holds the line that the stream pushes to. -/
theorem free_push : ∀ i, i < 64 → ∀ k : Fin 8, ((laneFlight 1 (strm true 1 s0)).core.rings[k]).holds
    (((((strm true 1 s0).core.stream 1).addr 1).toNat + i) / 64) = false := by decide +kernel
/-- RegisterLanding: writes that a later one has overtaken, and ones as old as the last that landed, of each kind of register; a write of a free
lane register, and of one bound as a write stream, overtaken and not, at the stream's last line. -/
theorem witness_RegisterLanding :
    (({ c0 with landX := c0.landX.set 5 2 } : Core).landX[5] > (⟨1, 0, 4, 0, .x 5 9, 0, false⟩ : Flight).seq) ∧
    (c0.landX[5] ≤ (⟨0, 0, 4, 0, .x 5 9, 0, false⟩ : Flight).seq) ∧
    (({ c0 with landV := c0.landV.set 5 2 } : Core).landV[5] > (⟨1, 0, 4, 0, .v 5 9 1, 0, false⟩ : Flight).seq) ∧
    (c0.landV[5] ≤ (⟨0, 0, 4, 0, .v 5 9 1, 0, false⟩ : Flight).seq) ∧
    (({ c0 with landK := c0.landK.set 5 2 } : Core).landK[5] > (⟨1, 0, 4, 0, .k 5 9, 0, false⟩ : Flight).seq) ∧
    (c0.landK[5] ≤ (⟨0, 0, 4, 0, .k 5 9, 0, false⟩ : Flight).seq) ∧ (6 : XReg) ≠ 5 ∧ (6 : VReg) ≠ 5 ∧ (6 : KReg) ≠ 5 ∧
    (let s := laneFlight 5 s0
     s.core? ⟨1, 0, false⟩ = some s.core ∧ s.core.flights = [⟨0, 0, 4, 0, .v 5 9 3, 1, false⟩] ∧
       (⟨0, 0, 4, 0, .v 5 9 3, 1, false⟩ : Flight).due ≤ s.now ∧ s.core.bound 5 = false) ∧
    (let s := laneFlight 1 (strm true 1 s0)
     s.core? ⟨1, 0, false⟩ = some s.core ∧ s.core.flights.length = 1 ∧ s.core.bound 1 = true ∧ s.core.landV[(1 : VReg)] ≤ 0 ∧ s.core.inh = false ∧
       (s.core.stream 1).write = true ∧ (s.core.stream 1).pos < (s.core.stream 1).total ∧
       ({ s.core with landV := s.core.landV.set 1 2 } : Core).landV[(1 : VReg)] > 0) ∧
    pushFits (laneFlight 1 (strm true 1 s0)).core (((strm true 1 s0).core.stream 1).addr 1) 3 := by
  refine ⟨by decide, by decide, by decide, by decide, by decide, by decide, by decide, by decide, by decide, by decide +kernel, by decide +kernel,
    by decide +kernel, by decide +kernel, by rfl, ?_⟩
  intro i k hi hb
  exact free_push i hi k
/-- LoopEnds: operands that are readable; the handler; no loop; each loop at its end with a count of 2 or more and of 1, both ends at once with
loop 0 going on and with both counts at 1. -/
theorem witness_LoopEnds :
    let at1 (s : State) := s.core.arch.lc[1] ≠ 0 ∧ s.core.pc = s.core.arch.le[1]
    let at0 (s : State) := s.core.arch.lc[0] ≠ 0 ∧ s.core.pc = s.core.arch.le[0]
    readable s0.core 31 = true ∧ (inHandler s0).core.inh = true ∧ (s0.core.inh = false ∧ ¬ at1 s0 ∧ ¬ at0 s0) ∧
    (at1 (lp 3 2 0x80 0x40 s0) ∧ (lp 3 2 0x80 0x40 s0).core.arch.lc[1] ≠ 1) ∧
    (¬ at1 (lp 2 0 0x40 0x40 s0) ∧ at0 (lp 2 0 0x40 0x40 s0) ∧ (lp 2 0 0x40 0x40 s0).core.arch.lc[0] ≠ 1) ∧
    (¬ at1 (lp 1 0 0x40 0x40 s0) ∧ at0 (lp 1 0 0x40 0x40 s0) ∧ (lp 1 0 0x40 0x40 s0).core.arch.lc[0] = 1) ∧
    (at1 (lp 3 1 0x80 0x40 s0) ∧ (lp 3 1 0x80 0x40 s0).core.arch.lc[1] = 1 ∧ ¬ at0 (lp 3 1 0x80 0x40 s0)) ∧
    (at1 (lp 2 1 0x40 0x40 s0) ∧ (lp 2 1 0x40 0x40 s0).core.arch.lc[1] = 1 ∧ at0 (lp 2 1 0x40 0x40 s0) ∧
      (lp 2 1 0x40 0x40 s0).core.arch.lc[0] ≠ 1) ∧
    (at1 (lp 1 1 0x40 0x40 s0) ∧ (lp 1 1 0x40 0x40 s0).core.arch.lc[1] = 1 ∧ at0 (lp 1 1 0x40 0x40 s0) ∧
      (lp 1 1 0x40 0x40 s0).core.arch.lc[0] = 1) := by decide +kernel
/-- BranchesAndJumps: conditions that hold and do not, and a JALR to an even and to an odd target, of a core that leads and of a follower. -/
theorem witness_BranchesAndJumps : branches ≠ [] ∧ readable s0.core 1 = true ∧ readable s0.core 2 = true ∧
    ((xs [(1, 0x40)] s0).core.xval 1 + BitVec.ofInt 64 (2 : BitVec 11).toInt).toNat % 2 = 0 ∧
    ((xs [(1, 0x40)] s0).core.xval 1 + BitVec.ofInt 64 (0x7FF : BitVec 11).toInt).toNat % 2 = 1 ∧ leads (xs [(1, 0x40)] s0) (xs [(1, 0x40)] s0).core = true ∧
    leads s2 { c0 with id := ⟨1, 1, false⟩, slaved := true } = false :=
  ⟨by simp [branches], by decide, by decide, by decide, by decide, by decide, by decide⟩
/-- Loops: no loop active, a count of 1 and of 0; loop 1 in an active loop 0, at its end and a halfword beyond; a loop that is active, and loop 0
with loop 1 active; a halfword of either length at the loop's end. -/
theorem witness_Loops : (xs [(5, 1)] s0).core.inh = false ∧ readable (xs [(5, 1)] s0).core 5 = true ∧ mayLoop s0.core 0 0x58 = true ∧
    (xs [(5, 1)] s0).core.xval 5 ≠ 0 ∧ s0.core.xval 5 = 0 ∧ (lp 2 0 0x58 0 s0).core.inh = false ∧
    mayLoop (lp 2 0 0x58 0 s0).core 1 0x58 = true ∧ mayLoop (lp 2 0 0x58 0 s0).core 1 0x5A = false ∧
    mayLoop (lp 2 0 0x58 0 s0).core 0 0x58 = false ∧ mayLoop (lp 0 2 0 0x58 s0).core 0 0x58 = false ∧
    (0x81 : Byte).getLsbD 0 = true ∧ (0x1E : Byte).getLsbD 0 = false := by decide +kernel
/-- TrapEntry: outside the handler, with a cause that is delegated and one that is not, and in the handler. -/
theorem witness_TrapEntry : s0.core.slaved = false ∧ s0.core.run = .ready ∧ s0.core.inh = false ∧
    delegated 0x80 .deadread = true ∧ delegated 0x400 .swtrap = true ∧ delegated 0xFFF .illegal = false ∧ delegated s0.core.ckpt.status .deadread = false ∧
    delegated (up (fun c => { c with ckpt := { c.ckpt with status := 0x100 } }) s0).core.ckpt.status .misalign = true ∧
    (inHandler s0).core.inh = true ∧ (inHandler s0).core.run = .ready ∧ (inHandler s0).core.slaved = false := by decide +kernel
theorem witness_EbreakAndTrap : readable (dead 31 s0).core 30 = true := by decide
/-- FetchTrapsAndEret: in the handler, and in kernel mode outside it; a push in flight; an ERET with SKIP, without it at the last re-entry, and at
the limit. -/
theorem witness_FetchTrapsAndEret : (inHandler s0).core.inh = true ∧ s0.core.inh = false ∧ s0.core.arch.status.getLsbD 0 = false ∧
    (let s := inHandler (laneFlight 1 (strm true 1 s0))
     s.core.inh = true ∧ s.core.flights.any s.core.isPush = true) ∧
    (st 0x1800 s0).core.inh = true ∧ (st 0x1800 s0).core.flights = [] ∧ (st 0x1800 s0).core.arch.status.getLsbD 11 = true ∧
    (inHandler (up (fun c => { c with regcnt := 7 }) s0)).core.arch.status.getLsbD 11 = false ∧
    (inHandler (up (fun c => { c with regcnt := 7 }) s0)).core.regcnt < (inHandler s0).core.reglim ∧
    (let s := inHandler (up (fun c => { c with regcnt := 8 }) s0)
     s.core.inh = true ∧ s.core.flights = [] ∧ s.core.arch.status.getLsbD 11 = false ∧ s.core.reglim ≤ s.core.regcnt ∧ s.core.resident = true) := by
  decide +kernel
/-- RegisterReads: a timed launch, the last TID index and word, the last group and the last logical core. -/
theorem witness_RegisterReads : SysReg.status ≠ .fflags ∧ s1.core.inh = false ∧ timed s1 = true ∧ readable s1.core 4 = true ∧
    ((xs [(4, 4095), (5, 3)] s1).core.xval 4).toNat < 4096 ∧ ((xs [(4, 4095), (5, 3)] s1).core.xval 5).toNat < 4 ∧
    ((xs [(4, 255)] s1).core.xval 4).toNat < 256 ∧ ((xs [(4, 1)] s1).core.xval 4).toNat < grid (xs [(4, 1)] s1) := by decide +kernel
/-- SystemWrites: a SYSR of FFLAGS in flight when flags are raised in its cycle, and a readable operand. -/
theorem witness_SystemWrites : (1 : Flags) ≠ 0 ∧
    ({ c0 with flights := [⟨0, 9, 11, 0, .x 5 0, 0, true⟩] } : Core).flights = [⟨0, 9, 11, 0, .x 5 0, 0, true⟩] ∧
    (⟨0, 9, 11, 0, .x 5 0, 0, true⟩ : Flight).ffTap = true ∧ (⟨0, 9, 11, 0, .x 5 0, 0, true⟩ : Flight).issued = 9 ∧
    (⟨0, 9, 11, 0, .x 5 0, 0, true⟩ : Flight).dst = .x 5 0 ∧ readable s0.core 31 = true := by decide
/-- RegionCommit: a store and a message buffered; a push of ring 2; a region with a store, two copies with the queue two short of full, a
matrix command's place left, and commands of the classes that have no limit. -/
theorem witness_RegionCommit :
    (let s := buffered [.line 1 [⟨0x40, 1⟩], .msg 1 0x40 (.bytes [1])] s0
     s.core.anchored = false ∧ s.core.flights.any s.core.isPush = false ∧
     ∀ b ∈ s.core.sbuf, match b with | .line .. | .msg .. | .log .. | .fence .. => True | _ => False) ∧
    (let s := buffered [.ring 2 (.push 1)] s0
     s.core.anchored = false ∧ s.core.flights.any s.core.isPush = false ∧ s.core.sbuf = [.ring 2 (.push 1)]) ∧
    (let s := up (fun c => { c with issued := (c.issued.set 1 62).set 0 15 })
       (buffered [.cmd 3 31 (.copyLoc 0x40 1), .line 1 [⟨0x40, 1⟩], .cmd 4 30 (.mma true 0 0 0 0 0), .cmd 5 29 (.copyLoc 0x80 1), .cmd 6 28 (.tidInv 0),
         .cmd 7 27 (.shfRel 1)] s0)
     s.core.anchored = false ∧ s.core.flights.any s.core.isPush = false ∧
     (∀ b ∈ s.core.sbuf, match b with | .line .. | .msg .. | .log .. | .fence .. => True | .cmd _ _ cm => local_ cm | _ => False) ∧
     (∀ q ∈ [(EngClass.mma, 16), (.copy, 64), (.coll, 16)],
       let n := (s.core.sbuf.filter (fun b => match b with | .cmd _ _ cm => cm.cls == some q.1 | _ => false)).length
       n = 0 ∨ s.core.issued[clsIx q.1] - s.core.eseq[clsIx q.1] + n ≤ q.2) ∧ (31 : XReg) ≠ 0) := by
  refine ⟨⟨by decide, by decide, ?_⟩, by decide, by decide, by decide, ?_, by decide +kernel, by decide⟩
  · intro b hb
    simp only [buffered, up, List.mem_cons, List.not_mem_nil, or_false] at hb
    obtain rfl | rfl := hb <;> trivial
  · intro b hb
    simp only [buffered, up, List.mem_cons, List.not_mem_nil, or_false] at hb
    obtain rfl | rfl | rfl | rfl | rfl | rfl := hb <;> trivial
/-- RegionInstructions: no write in flight, the commits of both lengths, and an abort at the last re-entry. -/
theorem witness_RegionInstructions : s0.core.inh = false ∧ s0.core.flights = [] ∧
    okAnd ((withC s0 (done s0.core s0.now 4 s0.core.arch.livex [])).commit false) (fun _ => true) = true ∧
    okAnd ((withC s0 (done s0.core s0.now 2 s0.core.arch.livex [])).commit false) (fun _ => true) = true ∧
    s0.core.anchored = false ∧ s0.core.slaved = false ∧ (up (fun c => { c with regcnt := 7 }) s0).core.regcnt < s0.core.reglim := by
  decide +kernel
/-- An INJECT operand of kind 4 whose AT is 7. -/
def inj (at_ : Nat) (s : State) : State := xs [(8, 0x704)] (up (fun c => { c with regcnt := at_ }) s)
/-- SystemInstructions: SNAP, ECALL and HALT in a launch without Umbra; INJECT with a kind beyond 4, without STATUS.TEST, with another count,
and with this one. -/
theorem witness_SystemInstructions :
    (s0.core.inh = false ∧ s0.core.flights = [] ∧ s0.core.anchored = false ∧ s0.umbra s0.core.id.lh = false ∧
      okAnd s0.beginWait (fun _ => true) = true) ∧
    okAnd (s0.commitBehind (done s0.core s0.now 4 s0.core.arch.livex [])) (fun t => t.launch? t.core.id.lh == some l0) = true ∧
    s0.holdsTourLines s0.core = false ∧
    (let good (s : State) := 1 ≤ (s.core.xval 8).toNat % 16 ∧ (s.core.xval 8).toNat % 16 ≤ 4 ∧ s.core.xval 8 &&& ~~~(0xFF0F : Word) = 0
     readable s0.core 8 = true ∧ ¬ good (xs [(8, 5)] s0) ∧ (good (inj 7 s0) ∧ (inj 7 s0).core.arch.status.getLsbD 6 = false) ∧
     (good (inj 6 (st 0x40 s0)) ∧ (inj 6 (st 0x40 s0)).core.arch.status.getLsbD 6 = true ∧
       (inj 6 (st 0x40 s0)).core.regcnt ≠ ((inj 6 (st 0x40 s0)).core.xval 8).toNat / 256 % 256) ∧
     (good (inj 7 (st 0x40 s0)) ∧ (inj 7 (st 0x40 s0)).core.regcnt = ((inj 7 (st 0x40 s0)).core.xval 8).toNat / 256 % 256 ∧
       (inj 7 (st 0x40 s0)).core.slaved = false ∧ (inj 7 (st 0x40 s0)).core.regcnt < (inj 7 (st 0x40 s0)).core.reglim)) := by
  decide +kernel
/-- A vacate has arrived for group 0 at its present generation. -/
def credited (s : State) : State := up (fun c => { c with credits := [(0, 0)] }) s
/-- The core is a member of a slaved gang. -/
def slave (s : State) : State := up (fun c => { c with slaved := true }) s
/-- GroupInstructions: a gang of one, a slaved gang, a gang of two that has not arrived; a group that holds the core, for which a vacate has
arrived and for which none has; a generation reached and one not reached, and a slaved gang. -/
theorem witness_GroupInstructions :
    (s0.core.inh = false ∧ s0.gangOf s0.core = 1) ∧ (slave s2).core.slaved = true ∧
    (s2.gangOf s2.core ≠ 1 ∧ s2.core.slaved = false ∧
      okAnd s2.beginWait (fun t => !(withC t (asleep t.core .follow)).allFollow (asleep t.core .follow)) = true) ∧
    ([s0, credited s0].map (fun s => readable s.core 6 && decide ((s.core.xval 6).toNat < 256) &&
        (groupOf s (s.core.xval 6).toNat).contains s.core.id.lc && s.ownGen s.core 0 == 0 &&
        okAnd (s.commitBehind (done (dropArrived s.core 0 (s.ownGen s.core 0)) s.now 4 (killed s.core [(6, true)])
          (xwrite s.core s.now 2 5 (wd ((s.ownGen s.core 0 + 1) % 2 ^ 16))))) (fun t => !(t.recOf t.core.id.lh).mirror)) = [true, true]) ∧
    ([s0, credited s0].map (fun s => (s.core.credits.contains (0, 0), s.core.slaved))) = [(false, false), (true, false)] ∧
    ([s0, credited s0].map (fun s => okAnd s.beginWait (fun t => readable t.core 6 && decide ((t.core.xval 6).toNat < 256) &&
        (groupOf t (t.core.xval 6).toNat).contains t.core.id.lc && t.ownGen t.core 0 == 0 && !t.core.slaved &&
        t.core.credits == s.core.credits && !t.core.arrivedAt.contains (0, 0)))) = [true, true] ∧
    ([(0, s0), (1, s0), (0, slave s0)].map (fun p => okAnd (xs [(7, p.1)] p.2).beginWait (fun t =>
        readable t.core 6 && readable t.core 7 && (groupOf t (t.core.xval 6).toNat).contains t.core.id.lc && t.core.slaved == p.2.core.slaved &&
        (decide (((t.gbar t.core.id.lh 0).gen + 2 ^ 16 - (t.core.xval 7).toNat % 2 ^ 16) % 2 ^ 16 < 2 ^ 15)) == (p.1 == 0)))) =
      [true, true, true] := by decide +kernel
/-- An arm block at the top of the scratchpad with its first slot enabled on the word at 0x40 against 0. -/
def arm (s : State) : State := xs [(6, 0xFFFC0)] (lm [⟨0xFFFC0, 0x40⟩, ⟨0xFFFC4, 1⟩] s)
/-- An armed object at 0x80 that expects one arrival. -/
def obj (got : List Host.Cell) (s : State) : State :=
  xs [(6, 0x80)] (lm ([⟨0x80, 1⟩] ++ got) (up (fun c => { c with armed := c.armed.set 0 (some 0x80) }) s))
/-- What a wait's beginning leaves, of a core that is not slaved. -/
def begun (s : State) (p : State → Bool) : Bool := okAnd s.beginWait (fun t => !t.core.slaved && p t)
/-- Waits: WAITSEQ for the next and for the last ticket; WAITA that fires, that has nothing to wait for, and that sleeps; WAITBO of an
object that is complete and of one that is not; SLEEPU of the present and of the next nanosecond; REALIGN; and a slaved gang. -/
theorem witness_Waits :
    (s0.core.inh = false ∧ s0.core.flights = [] ∧ s0.core.sbuf = [] ∧ s0.core.anchored = false) ∧
    okAnd (slave (arm s0)).beginWait (fun t => t.core.slaved) = true ∧
    begun (xs [(6, 1)] (up (fun c => { c with issued := c.issued.set 1 1 }) s0)) (fun t => readable t.core 6 &&
      decide ((t.core.xval 6).toNat ≤ t.core.issued[1]) && decide (t.core.eseq[1] < (t.core.xval 6).toNat)) = true ∧
    begun s0 (fun t => decide ((t.core.xval 6).toNat ≤ t.core.eseq[1]) && decide ((t.core.xval 6).toNat ≤ t.core.issued[1]) &&
      t.core.failed.isEmpty) = true ∧
    begun (lm [⟨0x40, 9⟩, ⟨0xFFFC0, 0x40⟩, ⟨0xFFFC4, 1⟩] (arm s0)) (fun t =>
      let x := (t.core.xval 6).toNat
      decide (x % 64 = 0 ∧ x + 64 ≤ 0x100000) && readable t.core 6 && readable t.core 7 &&
      (List.range 4).all (fun i => decide (t.core.numAt (x + 16 * i + 4) 4 = 0 ∨ (t.core.numAt (x + 16 * i + 4) 4 = 1 ∧
        t.core.numAt (x + 16 * i) 4 % 8 = 0 ∧ t.core.numAt (x + 16 * i) 4 + 8 ≤ 0x100000))) &&
      ((armed t.core x).find? (fun q => wd (t.core.numAt q.2.1 8) != q.2.2)).isSome) = true ∧
    begun s0 (fun t => ((armed t.core 0).find? (fun q => wd (t.core.numAt q.2.1 8) != q.2.2)).isNone &&
      t.core.xval 7 == 0 && (armed t.core 0).isEmpty) = true ∧
    begun (arm s0) (fun t => ((armed t.core 0xFFFC0).find? (fun q => wd (t.core.numAt q.2.1 8) != q.2.2)).isNone &&
      t.core.xval 7 == 0 && !(armed t.core 0xFFFC0).isEmpty) = true ∧
    begun (obj [⟨0x84, 1⟩] s0) (fun t => readable t.core 6 && t.core.armed.toList.contains (some (t.core.xval 6).toNat) &&
      !t.core.bosetDraining 0x80 && decide (t.core.mem.num 0x84 4 ≥ t.core.mem.num 0x80 4)) = true ∧
    begun (obj [] s0) (fun t => t.core.armed.toList.contains (some (t.core.xval 6).toNat) &&
      decide (t.core.mem.num 0x84 4 < t.core.mem.num 0x80 4) && decide (t.core.mem.num 0x8A 1 % 2 = 0)) = true ∧
    begun s0 (fun t => readable t.core 6 && decide ((t.core.xval 6).toNat ≤ t.timeNs)) = true ∧
    begun (xs [(6, 1)] s0) (fun t => decide (t.timeNs < (t.core.xval 6).toNat)) = true ∧
    timed s1 = true ∧ begun s1 (fun _ => true) = true := by decide +kernel
/-- Scratchpad bytes from an address on, in canonical form. -/
def cells (a : Nat) (bs : List Byte) : List Host.Cell :=
  (List.range bs.length).filterMap (fun i => if bs.getD i 0 = 0 then none else some ⟨a + i, bs.getD i 0⟩)
/-- The n bytes of a number, the lowest first. -/
def le (n v : Nat) : List Byte := (List.range n).map (fun i => BitVec.ofNat 8 (v / 256 ^ i))
/-- An operand in x6 whose bytes a ring of two lines holds. -/
def ringed (s : State) : State :=
  xs [(6, 0x1000)] (up (fun c => { c with rings := c.rings.set 2 ⟨true, 0x1000, 2, 0, 1, 0, 0, 0, 0, 0, 0⟩ }) s)

/-- No ring holds the last doubleword of the scratchpad, nor the one at 0x40. -/
theorem free_top : ∀ i, i < 8 → ∀ k : Fin 8, ((xs [(6, 0xFFFF8)] s0).core.rings[k]).holds ((0xFFFF8 + i) / 64) = false := by decide +kernel
theorem free_low : ∀ i, i < 8 → ∀ k : Fin 8, ((inHandler (xs [(2, 0x40)] s0)).core.rings[k]).holds ((0x40 + i) / 64) = false := by
  decide +kernel
/-- Loads wait in this core: messages that a fence orders before them are on their way. -/
def fenced (s : State) : State := up (fun c => { c with loadAfter := [7] }) s
/-- Loads: the last aligned doubleword of the scratchpad, behind a fence and behind none; and the ends of the engine window. -/
theorem witness_Loads :
    (let s := xs [(6, 0xFFFF8)] s0
     ldTable ⟨5, 6, false, 0⟩ ≠ [] ∧ readable s.core 6 = true ∧ inScratch (s.core.xval 6 + sx (0 : BitVec 11)) 8 ∧
       noPush s.core 0xFFFF8 ∧ bankFree s.core s.now 0xFFFF8 ∧ s.core.loadHeld = false ∧ (fenced s).core.loadHeld = true) ∧
    (let s := xs [(2, 0xFFE00)] s0
     readable s.core 2 = true ∧ inScratch (clAddr s.core 63) 8 ∧ noPush s.core (clAddr s.core 63) ∧ bankFree s.core s.now (clAddr s.core 63) ∧ s.core.loadHeld = false) ∧
    (xs [(6, 0x101000)] s0).core.xval 6 = 0x101000 ∧ (xs [(6, 0x101000)] s0).core.xval 6 + sx (0x78 : BitVec 11) = 0x101078 ∧
    (xs [(6, 0x101088)] s0).core.xval 6 + sx (32 : BitVec 11) = 0x1010A8 :=
  ⟨⟨by simp [ldTable], by decide, by unfold inScratch; decide, by unfold noPush; decide, by unfold bankFree; decide, by decide, by decide⟩,
   ⟨by decide, by unfold inScratch; decide, by unfold noPush; decide, by unfold bankFree; decide, by decide⟩, by decide, by decide, by decide⟩
/-- Stores: outside the handler with room, and in it with the bank free and nothing of the line draining. -/
theorem witness_Stores :
    (let s := xs [(6, 0xFFFF8)] s0
     stTable ⟨6, 7, false, false, 0⟩ ≠ [] ∧ readable s.core 6 = true ∧ readable s.core 7 = true ∧ inScratch (s.core.xval 6 + sx (0 : BitVec 11)) 8 ∧
       notHeld s.core 0xFFFF8 8 ∧ s.core.inh = false ∧ s.core.room (s.core.newLines [0xFFFF8]) = .ok ()) ∧
    (let s := inHandler (xs [(2, 0x40)] s0)
     readable s.core 2 = true ∧ s.core.inh = true ∧ s.umbra s.core.id.lh = false ∧ inScratch (clAddr s.core 0) 8 ∧
       notHeld s.core (clAddr s.core 0) 8 ∧ bankFree s.core s.now (clAddr s.core 0) ∧ s.core.draining 1 = false) :=
  ⟨⟨by simp [stTable], by decide, by decide, by unfold inScratch; decide,
      (fun i k hi => free_top i hi k), by decide, by rfl⟩,
   ⟨by decide, by decide, by decide, by unfold inScratch; decide, (fun i k hi => free_low i hi k), by unfold bankFree; decide,
    by decide⟩⟩
/-- LocalTraps: an odd address, the first one beyond the windows, the ends of the engine window, a held line, a claimed bank. -/
theorem witness_LocalTraps :
    (xs [(6, 0x41)] s0).core.xval 6 = 0x41 ∧ (0x41 : Word).toNat % 2 ≠ 0 ∧ (0x102000 : Word).toNat % 8 = 0 ∧
    (0x101000 ≤ (0x101078 : Word).toNat ∧ (0x101078 : Word).toNat < 0x101080) ∧
    ((ringed s0).core.rings[2].holds 0x40 = true ∧ (∀ j : Fin 8, j < 2 → ((ringed s0).core.rings[j]).holds 0x40 = false) ∧
      inScratch ((ringed s0).core.xval 6) 8) ∧
    (let s := up (fun c => { c with bankUse := [⟨1, 0, 0, 3⟩] }) (xs [(6, 0x40)] s0)
     s.core.claimed s.now ((s.core.xval 6).toNat / 64 % 16) = some 3 ∧ noPush s.core (s.core.xval 6) ∧ s.core.loadHeld = false) := by
  unfold inScratch noPush; decide +kernel
/-- The event unit's set of the core changed. -/
def evs (f : EvSet → EvSet) (s : State) : State := s.updEv s.core.cluster s.core.ctx f
/-- Barrier line 15 of the core's set. -/
def bar (b : BarLine) (s : State) : State := evs (fun e => { e with bars := e.bars.set 15 b }) s
/-- EventUnit: the last line of each kind, behind a fence and behind none; an event line with one event and with none, in a slaved gang and in
another; a mutex free, held and asked for; a barrier whose COUNT is 0, with a release outstanding and with none, and bound to a group that holds
the core, with and without a credit, and to one that does not; BCTL; and the stores with what each traps on and completes with. -/
theorem witness_EventUnit :
    let w (p : State → Bool) (s : State) : Bool := okAnd s.beginWait (fun t =>
      readable t.core 6 && !t.core.loadHeld && !t.core.acting && (t.other t.core).isNone && !t.core.id.twin && p t)
    let ev := xs [(6, 0x1003F0)] s0
    let mu := xs [(6, 0x1001F0)] s0
    let ba := xs [(6, 0x1000F0)] s0
    let bc := xs [(6, 0x100878)] s0
    let b1 : BarLine := ⟨0, [], false, 0, 2⟩
    let bg (g : Nat) : BarLine := ⟨0, [], true, BitVec.ofNat 8 g, 0⟩
    let rel (s : State) : Bool := okAnd (s.commitAt s.core.pc) (fun t =>
      !t.core.id.twin && t.released t.core .cluster && !t.core.acting && !(t.recOf t.core.id.lh).mirror)
    inLine (ev.core.xval 6 + sx (0 : BitVec 11)) 8 16 (0x200 + 16 * 31) ∧ inLine (mu.core.xval 6 + sx (8 : BitVec 11)) 8 16 (0x100 + 16 * 15) ∧
    inLine (ba.core.xval 6 + sx (15 : BitVec 11)) 1 16 (16 * 15) ∧ inLine (bc.core.xval 6 + sx (0 : BitVec 11)) 8 8 (0x800 + 8 * 15) ∧
    okAnd (fenced ev).beginWait (fun t => t.core.loadHeld) = true ∧
    w (fun t => (lines t).events[(31 : Fin 32)] == 0) ev = true ∧
    w (fun t => decide ((lines t).events[(31 : Fin 32)] > 0) && !t.core.slaved) (evs (fun e => { e with events := e.events.set 31 1 }) ev) = true ∧
    w (fun t => t.core.slaved) (slave ev) = true ∧
    w (fun t => (lines t).mutexes[(15 : Fin 16)].holder.isNone) mu = true ∧
    w (fun t => (lines t).mutexes[(15 : Fin 16)].holder == some (1, 1)) (evs (fun e => { e with mutexes := e.mutexes.set 15 ⟨some (1, 1), []⟩ }) mu) = true ∧
    w (fun t => !(lines t).bars[(15 : Fin 16)].gbind && (lines t).bars[(15 : Fin 16)].count == 0) ba = true ∧
    w (fun t => (lines t).bars[(15 : Fin 16)].count == 2 && !t.released (loadKill t.core ⟨5, 6, false, 15⟩) .cluster)
      (buffered [.line 1 [⟨0x40, 1⟩]] (bar b1 ba)) = true ∧
    w (fun t => (lines t).bars[(15 : Fin 16)].count == 2 && t.released (loadKill t.core ⟨5, 6, false, 15⟩) .cluster) (bar b1 ba) = true ∧
    w (fun t => (lines t).bars[(15 : Fin 16)].gbind && !(groupOf t 255).contains t.core.id.lc) (bar (bg 255) ba) = true ∧
    w (fun t => (groupOf t 0).contains t.core.id.lc && !t.core.credits.contains (0, t.ownGen t.core 0) &&
      !t.core.arrivedAt.contains (0, t.ownGen t.core 0)) (bar (bg 0) ba) = true ∧
    w (fun t => t.core.credits.contains (0, t.ownGen t.core 0) && !t.core.slaved) (credited (bar (bg 0) ba)) = true ∧
    (bc.core.loadHeld = false ∧ (fenced bc).core.loadHeld = true ∧ readable bc.core 6 = true ∧ bc.core.inh = false ∧ bc.core.id.twin = false) ∧
    (arrivals bc (lines bc).bars[(15 : Fin 16)] = 0 ∧
      (let s := bar { b1 with arrived := [(1, 1)] } bc; arrivals s (lines s).bars[(15 : Fin 16)] ≠ 0)) ∧
    ((lines mu).mutexes[(15 : Fin 16)].holder ≠ some (1, 0) ∧ rel ev = true ∧ rel bc = true ∧
      (let s := evs (fun e => { e with mutexes := e.mutexes.set 15 ⟨some (1, 0), [(1, 1)]⟩ }) mu
       (lines s).mutexes[(15 : Fin 16)].holder = some (s.core.id.lh, s.core.id.lc) ∧ rel s = true)) ∧
    (31 : Nat) ≠ s0.core.cluster := by
  unfold inLine; decide +kernel

/-- LaneReads: a live register, a dead one with and without DCHK, and a bound stream that waits for a fence, that writes, has ended and has its
last line left. -/
theorem witness_LaneReads :
    (s0.core.bound 15 = false ∧ s0.core.arch.livev.getLsbD 15 = true) ∧
    (let c : Core := { c0 with arch := { c0.arch with livev := 0x7FFF } }
     c.bound 15 = false ∧ c.arch.livev.getLsbD 15 = false ∧ c.dchk = false ∧
       ({ c with arch := { c.arch with status := 4 } } : Core).dchk = true) ∧
    ((fenced (strm false 1 s0)).core.bound 1 = true ∧ (fenced (strm false 1 s0)).core.loadHeld = true) ∧
    ((strm true 0 s0).core.bound 1 = true ∧ (strm true 0 s0).core.loadHeld = false ∧ ((strm true 0 s0).core.stream 1).write = true) ∧
    ((strm false 2 s0).core.bound 1 = true ∧ (strm false 2 s0).core.loadHeld = false ∧ ((strm false 2 s0).core.stream 1).write = false ∧ ((strm false 2 s0).core.stream 1).total ≤ ((strm false 2 s0).core.stream 1).pos) ∧
    (let c := (strm false 1 s0).core
     c.bound 1 = true ∧ c.loadHeld = false ∧ (c.stream 1).write = false ∧ (c.stream 1).pos < (c.stream 1).total ∧ ((c.stream 1).addr (c.stream 1).pos).toNat + 64 ≤ 0x100000 ∧
       noPush c ((c.stream 1).addr (c.stream 1).pos) ∧ bankFree c 0 ((c.stream 1).addr (c.stream 1).pos)) := by
  unfold noPush bankFree; decide +kernel
/-- Sources that are live, with the destination of a fused or of a masked instruction, and one that is popped from a stream. -/
theorem witness_reads :
    (∃ c v, Reads s0.core s0.now [2, 3, 1] c v) ∧ (∃ c v, Reads s0.core s0.now ([2, 3] ++ keptRead s0.core 7 1) c v) ∧
    (∃ c v, Reads (strm false 1 s0).core s0.now [1, 1] c v) ∧ writable s0.core 1 ∧ writable (strm true 0 s0).core 1 := by
  refine ⟨⟨_, _, _, rfl, rfl⟩, ⟨_, _, _, rfl, rfl⟩, ⟨_, _, _, rfl, rfl⟩, ?_, ?_⟩ <;> (unfold writable; decide +kernel)
/-- LaneInteger. -/
theorem witness_LaneInteger : laluTable ≠ [] ∧ clTable ≠ [] ∧ writable s0.core 1 ∧ (∃ c v, Reads s0.core s0.now ([2, 3] ++ keptRead s0.core 7 1) c v) :=
  ⟨by simp [laluTable], by simp [clTable], witness_reads.2.2.2.1, witness_reads.2.1⟩
/-- LaneMoves. -/
theorem witness_LaneMoves : writable s0.core 1 ∧ (∃ c v, Reads s0.core s0.now ([2, 3] ++ keptRead s0.core 7 1) c v) ∧
    (∃ c v, Reads s0.core s0.now [2, 3, 1] c v) := ⟨witness_reads.2.2.2.1, witness_reads.2.1, witness_reads.1⟩
/-- LaneCompares. -/
theorem witness_LaneCompares : ∃ c v, Reads s0.core s0.now [2, 3] c v := ⟨_, _, _, rfl, rfl⟩
/-- LaneFloat. -/
theorem witness_LaneFloat : lfpTable ≠ [] ∧ fmaTable ≠ [] ∧ lfp1Table ≠ [] ∧ lsfuTable ≠ [] ∧ clfpTable ≠ [] ∧
    writable s0.core 1 ∧ (∃ c v, Reads s0.core s0.now [2, 3, 1] c v) ∧ (∃ c v, Reads s0.core s0.now [2, 15, 2] c v) :=
  ⟨by simp [lfpTable], by simp [fmaTable], by simp [lfp1Table], by simp [lsfuTable], by simp [clfpTable], witness_reads.2.2.2.1,
   witness_reads.1, ⟨_, _, _, rfl, rfl⟩⟩
/-- FloatRounding: codes of FP16 of each kind, quiet and signalling NaNs among them; sums and products that are invalid, infinite, zero of either
sign, past the largest value, tiny and ordinary; narrowings that overflow and that do not; integers at a tie and beyond both ends. -/
theorem witness_FloatRounding :
    let F := fmtFp16
    F ∈ laneFormats ∧ F.width = 16 ∧ isNaN F 0x7E00 = true ∧ isSig F 0x7E00 = false ∧ isNaN F 0x7D01 = true ∧ isSig F 0x7D01 = true ∧
    isInf F 0x7C00 = true ∧ isInf F 0xFC00 = true ∧ negCode F 0x7C00 ≠ negCode F 0xFC00 ∧ isFin F 0xFBFF = true ∧
    (units F 0x3C00 + units F 0xBC00 = 0 ∧ negCode F 0x3C00 ≠ negCode F 0xBC00 ∧ units F 0x8000 + units F 0x8000 = 0) ∧
    (passes F .rne (units F 0x7BFF + units F 0x7BFF) 1 ∧ ¬ passes F .rtz (units F 0x7BFF + units F 0x0001) 1 ∧ passes F .rup (units F 0x7BFF + units F 0x0001) 1) ∧
    (units F 0x0001 * units F 0x3800 ≠ 0 ∧ tinyAfter F .rne (units F 0x0001 * units F 0x3800) (2 ^ fineness F) ∧
      ¬ tinyAfter F .rne (units F 0x3C00) 1) ∧
    (units F 0x3C00 * 2 ^ fineness F + units F 0x3C00 * units F 0x3C00 ≠ 0) ∧
    ((∃ G ∈ narrowFormats, G.nan = none) ∧ (∃ G ∈ narrowFormats, G.nan.isSome = true) ∧
      passes fmtFp4 .rne (units F 0x7BFF * 2 ^ fineness fmtFp4) (2 ^ fineness F) ∧ ¬ passes fmtFp4 .rne (units F 0x3C00 * 2 ^ fineness fmtFp4) (2 ^ fineness F)) ∧
    (units F 0x3E00 * 2 = 3 * 2 ^ fineness F ∧ 7 * 2 ^ fineness F < units F 0x7BFF ∧ units F 0xFBFF < -8 * 2 ^ fineness F) := by
  unfold passes tinyAfter
  refine ⟨by decide +kernel, by decide +kernel, by decide +kernel, by decide +kernel, by decide +kernel, by decide +kernel, by decide +kernel,
    by decide +kernel, by decide +kernel, by decide +kernel, by decide +kernel, by decide +kernel, by decide +kernel, by decide +kernel,
    ⟨⟨fmtFp4, by decide +kernel⟩, ⟨fmtFp8a, by decide +kernel⟩, by decide +kernel, by decide +kernel⟩, by decide +kernel⟩
/-- LaneConversions: a source alone, and with the destination that VQUANT reads. -/
theorem witness_LaneConversions : writable s0.core 1 ∧ (∃ c v, Reads s0.core s0.now [2] c v) ∧ (∃ c v, Reads s0.core s0.now [2, 1] c v) :=
  ⟨witness_reads.2.2.2.1, ⟨_, _, _, rfl, rfl⟩, ⟨_, _, _, rfl, rfl⟩⟩
/-- ReductionsAndMasks. -/
theorem witness_ReductionsAndMasks : writable s0.core 1 ∧ (∃ c v, Reads s0.core s0.now [2] c v) ∧ maskTable ≠ [] ∧ mask1Table ≠ [] :=
  ⟨witness_reads.2.2.2.1, ⟨_, _, _, rfl, rfl⟩, by simp [maskTable], by simp [mask1Table]⟩
/-- A descriptor of 65535 lines, and one whose last element breaks its rule. -/
def strmDesc (bad : Nat) : Lane := BitVec.ofNat 512 (0x40 + 65535 * 2 ^ 64 + 64 * 2 ^ 128 + 2 ^ 192 + bad * 2 ^ 448)
/-- Streams: a good descriptor and one bad in its element 7 alone; nothing in flight; a stream configured and one not; v3 a destination. -/
theorem witness_Streams :
    s0.core.inh = false ∧ (∃ c, (vs [(7, strmDesc 0)] s0).core.readV 0 7 = .ok (c, strmDesc 0)) ∧
    (∀ i, i < 8 → badAt (fun i => elemAt 64 (strmDesc 0) i) i = false) ∧ badAt (fun i => elemAt 64 (strmDesc 1) i) 7 = true ∧
    (∀ j, j < 7 → badAt (fun i => elemAt 64 (strmDesc 1) i) j = false) ∧ s0.core.flights = [] ∧ s0.core.arch.streams[3].conf = false ∧
    (strm false 0 s0).core.arch.streams[1].conf = true ∧ writable s0.core 15 := by
  refine ⟨by decide, ⟨_, rfl⟩, ?_⟩; unfold writable; decide +kernel
/-- A masked store of one 32-bit element in core c0. -/
def k1 (s : State) : State := up (fun c => { c with arch := { c.arch with k := c.arch.k.set 1 1 } }) s
/-- LaneLoads: sixteen words that end at the top of the scratchpad, behind a fence and behind none. -/
theorem witness_LaneLoads :
    let s := xs [(6, 0xFFFC0)] s0
    let A := fun j => s.core.xval (xLow 6) + s.core.xval (xLow 0) + wd (j * (wInt 2 / 8))
    (fenced s).core.loadHeld = true ∧ s.core.loadHeld = false ∧
    readable s.core (xLow 6) = true ∧ (∃ c ix, s.core.readV s.now 3 = .ok (c, ix)) ∧ writable s.core 1 ∧ (∃ c v, Reads s.core s.now (keptRead s.core 7 1) c v) ∧
    lanesInside s.core 0 16 4 A ∧ (∀ l ∈ laneLines s.core 0 16 A, ∀ k, k < 4 → l ∉ s.core.pendingPushes k) ∧
    (∃ c, s.core.laneReads s.now (laneLines s.core 0 16 A) = .ok c) := by
  refine ⟨by decide, by decide, by decide, ⟨_, _, rfl⟩, by unfold writable; decide, ⟨_, _, _, rfl, rfl⟩, by unfold lanesInside; decide +kernel, by decide +kernel, ⟨_, rfl⟩⟩
/-- LaneStores: one element under a mask, outside the handler and in it. -/
theorem witness_LaneStores :
    let s := k1 (xs [(6, 0xFFFC0)] s0)
    let A := fun j => s.core.xval (xLow 6) + s.core.xval (xLow 0) + wd (j * (wInt 2 / 8))
    readable s.core (xLow 6) = true ∧ (∃ c v, s.core.readV s.now 3 = .ok (c, v)) ∧ (∃ c v, Reads s.core s.now [4, 3] c v) ∧
    lanesInside s.core 1 16 4 A ∧ (∀ x ∈ laneCells s.core 1 32 A 7, ∀ k : Fin 8, (s.core.rings[k]).holds (x.1 / 64) = false) ∧
    (∃ d, s.core.store s.now 1 false (laneCells s.core 1 32 A 7) = .ok d) ∧ s.core.inh = false ∧
    (∃ d, (inHandler s).core.store s.now 1 false (laneCells s.core 1 32 A 7) = .ok d) ∧ (inHandler s).core.inh = true := by
  refine ⟨by decide, ⟨_, _, rfl⟩, ⟨_, _, _, rfl, rfl⟩, by unfold lanesInside; decide +kernel, by decide +kernel, ⟨_, rfl⟩, by decide, ⟨_, rfl⟩, by decide⟩

/-- MessagesAndAppends: the last doubleword and the last event line of the last core, and a core that the launch does not have. -/
theorem witness_MessagesAndAppends :
    (let s := xs [(6, 0x1000FFFF8)] s0
     s.core.inh = false ∧ readable s.core 6 = true ∧ readable s.core 7 = true ∧ s.core.room [0] = .ok () ∧ msgTable ⟨6, 7, false, false⟩ ≠ [] ∧
       logTable false ⟨6, 7, false, false⟩ ≠ [] ∧ peerAddr s (s.core.xval 6) 8) ∧
    grid s0 ≤ ((xs [(6, 0x200000000)] s0).core.xval 6).toNat / 2 ^ 32 ∧
    (let x := (xs [(6, 0x1001003F0)] s0).core.xval 6
     x.toNat / 2 ^ 44 = 0 ∧ x.toNat / 2 ^ 32 < grid s0 ∧ 0x100200 ≤ x.toNat % 2 ^ 32 ∧ x.toNat % 2 ^ 32 < 0x100400 ∧ x.toNat % 16 = 0) :=
  ⟨⟨by decide, by decide, by decide, rfl, by simp [msgTable], by simp [logTable], by unfold peerAddr; decide +kernel⟩, by decide +kernel, by decide +kernel⟩
/-- An answer without a value. -/
def good (r : Res Unit) : Bool := match r with | .ok _ => true | .error _ => false
/-- Atomics: the last doubleword of the scratchpad, its bank claimed up to the cycle itself; the checks still to come and passed, with nothing
left to drain and with a line. -/
theorem witness_Atomics :
    let s := xs [(6, 0xFFFF8)] (up (fun c => { c with bankUse := [⟨15, 0, 0, 0⟩] }) s0)
    let ok (c : Core) : Bool := readable c 6 && readable c 7 && readable c 5 && (c.xval 6).toNat % 8 == 0 && decide ((c.xval 6).toNat + 8 ≤ 0x100000) &&
      (List.range 8).all (fun k => !(ringAt c.rings k).holds ((c.xval 6).toNat / 64))
    let still (c : Core) : Bool := c.drainq.isEmpty &&
      c.mirror.all (fun m => match m.item.item with | .cmd _ _ (.boset ..) => false | _ => true)
    let free (t : State) : Bool := still t.core && good (t.core.copyFirst (t.umbra t.core.id.lh) [0xFFFF8]) &&
      t.core.bankUse.all (fun u => !(u.bank == 15 && decide (u.lo ≤ t.now + 3) && decide (t.now + 1 ≤ u.hi)))
    let passed := up (fun c => { c with atom := some (0xFFFF8, 3, 0) }) s
    amoTable true ⟨5, 6, 7, false, false⟩ ≠ [] ∧ s.core.inh = false ∧ s.core.atom = none ∧ ok s.core = true ∧
    okAnd (s.commitAt s.core.pc) free = true ∧
    okAnd ((buffered [.line 1 [⟨0x40, 1⟩]] s).commitAt s.core.pc) (fun t => !still t.core) = true ∧
    passed.core.atom = some (0xFFFF8, 3, 0) ∧ free passed = true ∧
    still (up (fun c => { c with drainq := [⟨.line 1 [⟨0x40, 1⟩], 0, 0, 0, 0, .none⟩] }) passed).core = false ∧
    still (up (fun c => { c with mirror := [⟨0, 0, 0, ⟨.cmd 0 5 (.boset 0x80 none), 0, 0, 0, 0, .none⟩⟩] }) passed).core = false :=
  ⟨by simp [amoTable], by decide, by decide, by decide +kernel, by decide +kernel, by decide +kernel, by decide, by decide +kernel, by decide, by decide⟩
theorem witness_FenceIDelay : s0.core.inh = false := by decide
/-- FencesAndMerge: one path and scope for each clause, CORE before CORE among them; and a log of three entries, two of one word and one beside
it, with nothing draining, the word held by no ring. -/
theorem witness_FencesAndMerge : s0.core.inh = false ∧ (Path.mma ≠ .ctx ∧ Path.mma ≠ .core) ∧ (Path.core ≠ .ctx ∧ Path.sheaf ≠ .core) ∧
    Scope.cluster ∈ [Scope.core, .gang, .cluster] ∧
    Scope.system ∈ [Scope.package, .peer, .domain, .host, .io, .system] ∧ Scope.device ∈ [Scope.group, .die, .device] ∧
    (let es : List LogEntry := [⟨0x40, .add, true, 1⟩, ⟨0x48, .or, false, 1⟩, ⟨0x40, .fadd, true, 1⟩]
     okAnd ((up (fun c => { c with log := es }) s0).commitAt s0.core.pc) (fun t =>
       t.core.log == es && t.core.log.all (fun e => !t.core.draining (e.addr / 64) && !heldWord t.core e &&
         ((e.addr == 0x40 && e.wide) || decide (e.addr + (if e.wide then 8 else 4) ≤ 0x40) || decide (0x40 + 8 ≤ e.addr))) &&
       good (t.core.copyFirst (t.umbra t.core.id.lh) t.core.mergeAddrs)) = true) ∧
    (let s := { s0 with packets := [⟨3, 0, 0, 1, 0, 0xFFFF8, 0, .inl (.bytes [1])⟩] }
     ∃ x ∈ s.packets, s.underWay s.core .system x = true) := by
  refine ⟨by decide, by decide, by decide, by decide, by decide, by decide, by decide +kernel, ?_⟩
  exact ⟨_, List.mem_singleton.mpr rfl, by decide +kernel⟩

/-! The engines' blocks and tables. -/

/-- A valid tensor descriptor. -/
def tid (base stride cols rows ks flags fmt : Nat) : BitVec 256 :=
  BitVec.ofNat 256 (base * 2 ^ 192 + stride * 2 ^ 96 + cols * 2 ^ 72 + rows * 2 ^ 48 + ks * 2 ^ 35 + 2 ^ 23 + flags * 2 ^ 16 + fmt)
/-- A launch whose table holds a matrix of FP8A in device memory (0), one of UINT8 with a K slice (1), and an accumulator (2), and whose
itinerary 0 stops at core 0. -/
def le0 : Launch :=
  { l0 with
    tids := [(0, tid 0 64 64 8 0 0 18), (1, tid 0 64 64 8 8 0 13), (2, tid 0 64 8 8 0 5 31)]
    itins := [(0, ⟨5, [(0, 1)]⟩)]
    kern := { l0.kern with itins := [⟨5, [(0, 1)]⟩] } }
/-- The package with that launch, and rings 0 and 1 of the core configured, 16 lines each. -/
def se : State :=
  up (fun c => { c with rings := (c.rings.set 0 ⟨true, 0x8000, 16, 0, 0, 0, 0, 0, 0, 0, 0⟩).set 1 ⟨true, 0x8400, 16, 0, 0, 0, 0, 0, 0, 0, 0⟩ })
    { s0 with launches := [le0] }
/-- An operand in x6 that is the address 0x1000 of a block of bytes, and one in x7. -/
def blk (bs : List Byte) (y : Word) (s : State) : State := xs [(6, 0x1000), (7, y)] (lm (cells 0x1000 bs) s)
/-- An MCAST block of one line to window 0 of group 0, at the end of the scratchpad. -/
def mcBlk : List Byte := le 8 0xFFFC0 ++ le 4 1 ++ le 2 0 ++ le 2 0 ++ le 8 0x40 ++ le 1 0xFF ++ le 1 5 ++ le 2 0 ++ le 4 0xFFFFFFFF ++
  le 4 0xFFFFFFFF ++ le 4 0xFFFFFFFF ++ le 24 0
/-- CopyCommands: the last row of a matrix, a gather of it, the smallest copy at the end of the scratchpad, a multicast to the last member,
the first object armed, trace fields at their bounds, and a region with 16 commands. -/
theorem witness_CopyCommands :
    (let s := xs [(6, 7 <<< 12), (7, 0xFFFC0)] se
     canIssue s [6, 7] ∧ (∃ d fd, s.checkCopy s.core (s.core.xval 6) (s.core.xval 7) false false = .ok (d, fd)) ∧
       (∃ d fd, s.checkCopy s.core (s.core.xval 6) (s.core.xval 7) true false = .ok (d, fd))) ∧
    (let s := xs [(6, 0xFFFFC <<< 12), (7, 0)] (lm [⟨0xFFFFC, 7⟩] se)
     twRow (s.core.xval 6) % 4 = 0 ∧ twRow (s.core.xval 6) + 4 * twRows (s.core.xval 6) ≤ 0x100000 ∧
       ∃ d fd, s.checkCopy s.core (s.core.xval 6) (s.core.xval 7) false true = .ok (d, fd) ∧
         ∀ k ∈ (List.range (twRows (s.core.xval 6))).map (fun i => numIn s.core (wd (twRow (s.core.xval 6) + 4 * i)) 4), k < dRows d) ∧
    (let y : Word := wd (2 ^ 24 + 0xFFFC0)
     y.toNat < 2 ^ 39 ∧ 1 ≤ clLines y ∧ clLines y ≤ 16384 ∧ (0xFFFC0 : Word).toNat + 64 * clLines y ≤ 0x100000 ∧ lwToring y = false ∧
       lwLaddr y % 64 = 0 ∧ lwLaddr y + 64 * clLines y ≤ 0x100000 ∧ lwToring (y ||| 0x800000) = true ∧
       (ringAt se.core.rings (lwRing (wd (2 ^ 24 + 0x800000)))).conf = true) ∧
    (let s := blk mcBlk 2 se
     inBlock (s.core.xval 6) 64 64 ∧ mcastOk (bytesIn s.core 0x1000 64) = true ∧
       ∀ i ∈ maskBits (s.core.xval 7), (mcastBlk (bytesIn s.core 0x1000 64)).wbase + i < (groupOf s (mcastBlk (bytesIn s.core 0x1000 64)).group).length) ∧
    (inBlock (0xFFFF0 : Word) 16 16 ∧ se.core.armedView.length < 16) ∧
    ((0x1000 : Word).toNat % 4096 = 0 ∧ (0x1000 : Word).toNat < 2 ^ 52 ∧ (0x3F14 : Word).toNat < 2 ^ 14 ∧ (0x3F14 : Word).toNat / 32 % 8 = 0 ∧
      7 ≤ (0x3F14 : Word).toNat % 32 ∧ (0x3F14 : Word).toNat % 32 ≤ 20) ∧
    16 ≤ cmdsOf (buffered (List.replicate 16 (.cmd 0 0 (.tidInv 0))) se).core.sbuf := by
  refine ⟨⟨⟨by decide, by decide, by decide⟩, ⟨_, _, rfl⟩, ⟨_, _, rfl⟩⟩, ⟨by decide, by decide, ⟨_, _, rfl, by decide +kernel⟩⟩, by decide, ?_⟩
  unfold inBlock; decide +kernel
/-- ObjectQuery: an object at the end of the scratchpad, and the status; a store of the region to the object's line, and to the destination's. -/
theorem witness_ObjectQuery :
    let s := xs [(6, 0xFFFF0), (7, 0xFFFA0)] s0
    let ok (c : Core) : Bool := readable c 6 && readable c 7 && (c.xval 7).toNat % 16 == 0 && decide ((c.xval 7).toNat + 16 ≤ 0x100000) &&
      (c.xval 6 == 1 || ((c.xval 6).toNat % 16 == 0 && decide ((c.xval 6).toNat + 16 ≤ 0x100000))) &&
      (List.range 8).all (fun k => !(ringAt c.rings k).holds ((c.xval 7).toNat / 64))
    let free (t : State) : Bool := ok t.core && !t.core.draining ((t.core.xval 6).toNat / 64) && !t.core.draining ((t.core.xval 7).toNat / 64) &&
      good (t.core.copyFirst (t.umbra t.core.id.lh) [(t.core.xval 7).toNat])
    s.core.inh = false ∧ ok s.core = true ∧ okAnd (s.commitAt s.core.pc) free = true ∧
    okAnd ((xs [(6, 1)] s).commitAt s.core.pc) free = true ∧
    okAnd ((buffered [.line 0x3FFF [⟨0xFFFC8, 1⟩]] s).commitAt s.core.pc) (fun t => ok t.core && t.core.draining ((t.core.xval 6).toNat / 64)) = true ∧
    okAnd ((buffered [.cmd 0 5 (.boset 0xFFF90 (some 1))] s).commitAt s.core.pc)
      (fun t => ok t.core && t.core.draining ((t.core.xval 7).toNat / 64)) = true := by decide +kernel

/-- An itinerary record of one stop, core 1 and ring 7, and a scan configuration of one step and channel. -/
def itBlk : List Byte := le 2 1 ++ le 2 1 ++ le 4 0 ++ le 2 1 ++ le 1 7 ++ le 61 0
def scBlk : List Byte := le 1 0 ++ le 1 2 ++ le 2 0 ++ le 2 1 ++ le 2 1 ++ le 24 0
/-- A tour that core 0 reads with ticket 5, and the record of its stop at ring 1. -/
def tour0 : Tour := ⟨3, ⟨1, 0, false⟩, 5, 0, 0, 0, ⟨5, [(0, 1)]⟩, [], [.pending], [none], [false], [false], [0], none, true, false, false, false, none, 0, none, 0, 0, false⟩
def stopped (st : StopSt) (s : State) : State :=
  up (fun c => { c with stops := [⟨1, 3, 0, 2, 0x8400, st⟩], tours := [(5, 3)] }) { s with tours := [tour0] }
/-- The core with a scan configuration, and what its scan has done. -/
def scanned (ran sent : Bool) (s : State) : State :=
  up (fun c => { c with scan := { c.scan with cfg := some ⟨0, 2, 0, 1, 1⟩, ran := ran, aggSent := sent } }) s
/-- SheafAndScan. -/
theorem witness_SheafAndScan :
    (let s := blk itBlk 255 se
     canIssue s [6, 7] ∧ inBlock (s.core.xval 6) 8 72 ∧ (s.core.xval 7).toNat < 256 ∧ itinOk (bytesIn s.core 0x1000 72) (grid s) = true ∧
       s.itinBusy s.core.id.lh 255 = false) ∧
    ((se.itinView 0).isSome = true ∧ se.itinBusy se.core.id.lh 0 = false ∧ (∃ d, se.checkTensor (7 <<< 12) false = .ok d) ∧
      ∃ it, se.itinView 0 = some it) ∧
    ((stopped (.taken 3) se).core.missedRec 1).isSome = true ∧
    (let s := blk scBlk 0 se
     inBlock (s.core.xval 6) 8 32 ∧ scanPair 0 2 = true ∧ indexOf? (· == s.core.id.lc) (groupOf s (scanCfgOf (bytesIn s.core 0x1000 32)).group) = some 0 ∧
       (scanCfgOf (bytesIn s.core 0x1000 32)).steps = 1 ∧ (scanCfgOf (bytesIn s.core 0x1000 32)).chans = 1 ∧
       blkZero (bytesIn s.core 0x1000 32) 8 24 = true ∧ s.core.scanView.2 = false) ∧
    (let g : ScanCfg := ⟨0, 2, 0, 1, 1⟩
     (scanned false false se).core.scanView.1 = some (g, 0) ∧ scanPlace g 0xFFFFC = true ∧ scanPlace g 0 = true ∧ scanApart g 0 4 = true ∧
       (wd (0xFFFFC * 2 ^ 20)).toNat % 2 ^ 20 = 0 ∧ 2 ^ 40 ≤ (wd (2 ^ 40 + 4 * 2 ^ 20)).toNat ∧ (wd (2 ^ 40 + 4 * 2 ^ 20)).toNat < 2 ^ 41) ∧
    begun (xs [(6, 1)] (stopped (.ready 1) se)) (fun t => readable t.core 6 &&
      t.core.untaken 1 == some ⟨1, 3, 0, 2, 0x8400, .ready 1⟩) = true ∧
    okAnd (xs [(6, 1)] (stopped .pending se)).beginWait (fun t => t.core.untaken 1 == some ⟨1, 3, 0, 2, 0x8400, .pending⟩) = true ∧
    okAnd (xs [(6, 1)] (slave (stopped (.ready 1) se))).beginWait (fun t => t.core.slaved) = true ∧
    ([(le0, false), ({ le0 with lrec := { le0.lrec with mirror := true } }, false), (le0, true)].map (fun q =>
      let l := q.1
      let s0 := xs [(6, 1)] (stopped (.taken 1) { se with launches := [l] })
      let s := if q.2 then buffered [.fence ⟨.core, true, true, true, false, true⟩] s0 else s0
      s.core.flights.isEmpty && decide (s.relsPending s.core 1 < (s.core.takenRecs 1).length) &&
      okAnd ((withC s (Claims.buffered s.core s.now (killed s.core [(6, false)]) (.cmd s.core.iseq 5 (.shfRel 1)))).commit true)
        (fun t => (t.recOf s.core.id.lh).mirror == l.lrec.mirror &&
          t.core.drainq.any (fun d => match d.item with | .fence f => f.sheaf | _ => false) == q.2))) = [true, true, true] ∧
    (let s := xs [(6, 5)] (stopped .pending se)
     s.core.tours.find? (fun p => p.1 == (s.core.xval 6).toNat) = some (5, 3) ∧ s.tour? 3 = some tour0) ∧
    begun (scanned true false se) (fun t => t.core.scan.ran && !t.core.scan.aggSent) = true ∧
    begun (up (fun c => { c with scan := { c.scan with carries := [⟨0, [], 0, 5⟩] } })
      { scanned true true se with now := 100, launches := [{ le0 with halted := [1] }] }) (fun t =>
      t.core.scan.ran && t.core.scan.aggSent && t.core.scan.cfg == some ⟨0, 2, 0, 1, 1⟩ &&
      (withC t (asleep t.core (.close 5))).chainDone (asleep t.core (.close 5)) ⟨0, 2, 0, 1, 1⟩) = true := by
  refine ⟨⟨⟨by decide, by decide, by decide⟩, by unfold inBlock; decide, by decide, by decide +kernel, by decide⟩, ?_⟩
  refine ⟨⟨by decide, by decide, ⟨_, rfl⟩, ⟨_, rfl⟩⟩, by decide, ?_⟩
  unfold inBlock; decide +kernel

/-- A CAGRP block of two members whose list lies at 0x2000, and a reduction block of one FP32 element on the core. -/
def agBlk : List Byte := le 2 3 ++ le 2 2 ++ le 2 1 ++ le 2 0 ++ le 8 0x2000 ++ le 8 9 ++ le 4 0xFFFFFFFF ++ le 36 0
def rdBlk (onCore : Nat) : List Byte := le 2 3 ++ le 1 0 ++ le 1 23 ++ le 1 23 ++ le 3 0 ++ le 8 0x4000 ++ le 4 1 ++ le 4 onCore ++ le 8 0x4040 ++
  le 4 0xFFFFFFFF ++ le 4 0xFFFFFFFF ++ le 24 0
/-- The context with address group 3 bound. -/
def bound (s : State) : State := s.updCtx 1 (fun c => { c with agids := [⟨3, 1, [0, 1], 0, 0, 0⟩] })
/-- CollectiveCommands: blocks that are accepted, a graph of one node, and a graph that slot 15 holds. -/
theorem witness_CollectiveCommands :
    (let s := blk agBlk 0 se
     canIssue s [6] ∧ inBlock (s.core.xval 6) 64 64 ∧ cagrpOk (bytesIn s.core 0x1000 64) = true) ∧
    (let s := bound (blk (rdBlk 3) 0 se)
     redOk false (bytesIn s.core 0x1000 64) = true ∧ s.agBound s.core (blkField (bytesIn s.core 0x1000 64) 0 2) = true ∧ s.umbra s.core.id.lh = false ∧
       (redBlk false (bytesIn s.core 0x1000 64)).dstLocal = true) ∧
    (let s := bound (blk (rdBlk 1) 0 se)
     redOk true (bytesIn s.core 0x1000 64) = true ∧ s.agBound s.core (blkField (bytesIn s.core 0x1000 64) 0 2) = true) ∧
    (let s := bound (blk (le 4 1 ++ le 12 0 ++ le 2 1 ++ le 62 0 ++ rdBlk 3) 15 se)
     let node := bytesIn s.core (0x1000 + 16) 128
     canIssue s [6, 7] ∧ (s.core.xval 7).toNat < 16 ∧ inBlock (s.core.xval 6) 64 144 ∧ blkField (bytesIn s.core 0x1000 16) 0 4 = 1 ∧
       blkZero (bytesIn s.core 0x1000 16) 4 12 = true ∧ nodeOk 0 node = true ∧ s.agBound s.core (graphNode node).2.agid = true) ∧
    (let s := up (fun c => { c with graphs := [(15, [])] }) se
     s.core.graphView 15 = some [] ∧ inBlock (0xFFFF8 : Word) 8 8) := by
  refine ⟨⟨⟨by decide, by decide, by decide⟩, by unfold inBlock; decide, by decide +kernel⟩, by decide +kernel, by decide +kernel,
    ⟨⟨by decide, by decide, by decide⟩, by decide, by unfold inBlock; decide, by decide +kernel⟩, by unfold inBlock; decide⟩
/-- Ring 0 of the core holds two lines and a delivery or none is coming into it. -/
def ring0 (deliv : Nat) : Core :=
  { se.core with rings := se.core.rings.set 0 ⟨true, 0x8000, 16, 0, 2, 0, 0, deliv, 0, 0, 0⟩ }
/-- MatrixAndRings: a matrix command over both rings; a ring at the top of the scratchpad; pushes and pops of all the room there is, of one
line more, and of none; a delivery in progress; and a ring that is not configured. -/
theorem witness_MatrixAndRings :
    (let y : Word := wd (1 + 1 * 2 ^ 12 + 2 * 2 ^ 24 + 0 * 2 ^ 36 + 1 * 2 ^ 39)
     let s := xs [(6, 0x1000), (7, y)] se
     canIssue s [6, 7] ∧ s.checkMma 0x1000 y (s.tidView 1) (s.tidView 1) (s.tidView 2) = .ok ()) ∧
    ((0xFFFC0 : Nat) % 64 = 0 ∧ 0xFFFC0 + 64 * 1 ≤ 0x100000 ∧ (∀ j : Fin 8, j ≠ 2 → (se.core.rings[j]).conf = true →
        (se.core.rings[j]).base + 64 * (se.core.rings[j]).size ≤ 0xFFFC0 ∨ 0xFFFC0 + 64 * 1 ≤ (se.core.rings[j]).base) ∧
      se.core.rings[2].held = 0 ∧ se.core.rings[2].appended = 0 ∧ se.core.rings[2].claimed = 0 ∧ se.core.rings[2].deliv = 0 ∧
      se.core.rings[2].stops = 0) ∧
    (let c := ring0 0
     let o := c.rings[0]
     c.inh = false ∧ o.conf = true ∧ o.deliv = 0 ∧ 14 ≤ o.size - o.held - o.appended ∧ o.size - o.held - o.appended < 15 ∧ 0 ≤ o.held ∧
       2 ≤ o.held ∧ o.held < 3 ∧ o.claimed = 0 ∧ 2 ≤ c.beforeStops 0 ∧ c.claimsInRegion 0 = false ∧ o.stops = 0) ∧
    ((ring0 1).inh = false ∧ ((ring0 1).rings[0]).conf = true ∧ ((ring0 1).rings[0]).deliv ≠ 0) ∧ (se.core.rings[7]).conf = false := by
  refine ⟨⟨⟨by decide, by decide, by decide⟩, rfl⟩, by decide +kernel, by decide +kernel⟩
/-- The timed launch with one slot, from core 0 to core 1 at cycle 0 for one line, selected in a window that opened at cycle 0. -/
def st1 : State :=
  xs [(6, 0xFFFC0), (7, 0x1000FFFC0)] (up (fun c => { c with window := some 0, winCount := 1 })
    { s0 with launches := [{ lt with kern := { lt.kern with slots := [⟨3, 1, 0, 1, 0⟩] } }] })
/-- TablesAndExchange: a descriptor for the last entry, and a line sent in the last cycle of its slot. -/
theorem witness_TablesAndExchange :
    (let s := blk (le 32 ((tid 0 64 64 8 0 0 18).toNat - 2 ^ 23)) 4095 se
     canIssue s [6, 7] ∧ (s.core.xval 7).toNat < 4096 ∧ inBlock (s.core.xval 6) 32 32 ∧ tidFault (BitVec.ofNat 256 (numIn s.core (s.core.xval 6) 32)) = none) ∧
    (let s := xs [(6, 0), (7, 1)] st1
     timed s = true ∧ s.core.xval 7 ≠ 0 ∧ (s.core.xval 6).toNat + (s.core.xval 7).toNat ≤ (s.kernOf s.core.id.lh).slots.length) ∧
    (let s := st1
     let e : SlotEnt := ⟨3, 1, 0, 1, 0⟩
     let x := s.core.xval 6
     let y := s.core.xval 7
     s.core.inh = false ∧ timed s = true ∧
     peerAddr s y 1 ∧ y.toNat % 2 ^ 32 + 64 ≤ 0x100000 ∧ inBlock x 64 64 ∧ e ∈ s.slotsOf s.core ∧ s.now - 0 < e.cyc + e.lines ∧
       e.receiver = peerOf y ∧ bankFree s.core s.now x ∧
       okAnd (s.commitAt s.core.pc) (fun t => t.core.drainq.isEmpty && t.core.window == some 0 && (t.slotsOf t.core).contains e &&
         t.core.xval 6 == x && t.core.xval 7 == y && t.now == s.now && readable t.core 6 && readable t.core 7 &&
         (t.core.claimed t.now (x.toNat / 64 % 16)).isNone && grid t == grid s) = true) := by
  refine ⟨⟨⟨by decide, by decide, by decide⟩, by decide, by unfold inBlock; decide, by decide +kernel⟩, by decide +kernel, ?_⟩
  unfold peerAddr inBlock bankFree; decide +kernel

/-! The events. -/

/-- The identity of the core of `s0`. -/
def id0 : CoreId := ⟨1, 0, false⟩
/-- The core does this. -/
def run (r : Run) (s : State) : State := up (fun c => { c with run := r }) s
/-- The identity names the core that issues. -/
def here (s : State) : Bool := s.core? id0 == some s.core
/-- Neither Umbra nor a mirror, decided. -/
theorem plain_s0 : plain s0 1 := by unfold plain; decide +kernel

/-- The launch uses Umbra. -/
def umb (s : State) : State := s.updLaunch 1 (fun l => { l with lrec := { l.lrec with umbra := true } })
/-- An Umbra launch whose core has a log entry and has copied nothing. -/
def logging : State := umb (up (fun c => { c with log := [⟨0x40, .add, true, 1⟩] }) s0)
/-- A merge is the first write of no epoch without Umbra; in `logging` it is. -/
theorem merges_cases : merges s0 1 [0, 1] ∧ ¬ merges logging 1 [0, 1] := by
  refine ⟨fun hu => absurd hu (by decide), fun h => ?_⟩
  have hc : logging.core ∈ logging.cores := by decide +kernel
  obtain ⟨u, hu, -⟩ := h (by decide +kernel) _ hc _ hc (by decide +kernel) (by decide +kernel) (by decide +kernel) rfl 0x40 (by decide +kernel)
  have he : logging.core.undo = [] := by decide +kernel
  rw [he] at hu; cases hu
/-- WaitsExpire: a SLEEPU until now, a WAITA whose deadline is now and one with nothing to wait for, an acknowledged fence, a tick for a core
and for a member of a slaved gang, a reset over and a reset under way, an error at the last re-entry, a barrier about to fire, and a SNAP (whether
the merges are first writes: `merges_cases`). -/
theorem witness_WaitsExpire :
    (let s := { run (.waiting (.sleepu 0)) s0 with timeFine := 0 }
     here s = true ∧ s.core.run = .waiting (.sleepu 0) ∧ (0 : Word).toNat ≤ s.timeNs) ∧
    (let s := { run (.waiting (.arm 5 [(0, 0x40, 0)] 7)) s0 with timeFine := 7 * 66000 }
     here s = true ∧ s.core.firing [(0, 0x40, 0)] = none ∧ (7 : Word) ≠ 0 ∧ (7 : Word).toNat ≤ s.timeNs) ∧
    (let s := run (.waiting (.arm 5 [] 0)) s0
     here s = true ∧ s.core.firing [] = none) ∧
    (let s := run (.waiting .ack) s0
     here s = true ∧ s.core.run = .waiting .ack ∧ s.core.nextIssue ≤ s.now) ∧
    (let s := run (.waiting (.realign 5 none)) s1
     here s = true ∧ s.core.run = .waiting (.realign 5 none) ∧ s.core.slaved = false ∧ s.withheld s.core.die = false ∧
       here (slave s) = true ∧ (slave s).core.slaved = true) ∧
    (let s := run .resetting s0
     let u := up (fun c => { c with nextIssue := 9 }) s
     here s = true ∧ s.core.run = .resetting ∧ s.core.nextIssue ≤ s.now ∧ here u = true ∧ u.core.run = .resetting ∧ u.now < u.core.nextIssue) ∧
    (let s := up (fun c => { c with regcnt := 7 }) s0
     here s = true ∧ s.core.run = .ready ∧ s.core.inh = false ∧ s.core.slaved = false ∧ s.core.traceBase = 0 ∧ s.core.regcnt < s.core.reglim) ∧
    (let s := s0.updLaunch 1 (fun l => { l with gbars := [⟨0, 65535, [0, 1], 0, some 9, [], []⟩] })
     here s = true ∧ (s.launch? 1).isSome = true ∧ (s.gbar 1 0).firing.isSome = true ∧ s.packets = [] ∧ s.tlines = [] ∧
       s.cores.all (fun e => e.drainq.isEmpty && e.mirror.isEmpty) = true ∧
       s.groupOf 1 0 = [0, 1] ∧ logging.groupOf 1 0 = [0, 1]) ∧
    (let l := { l0 with snapFiring := true }
     let s := up (fun c => { c with snapD := some 5 }) (run (.waiting (.snap 5)) { s0 with launches := [l] })
     here s = true ∧ s.launch? 1 = some l ∧ l.snapFiring = true ∧ s.packets = [] ∧ s.tlines = [] ∧ s.core.run = .waiting (.snap 5) ∧
       s.core.snapD = some 5 ∧ List.range l.lrec.grid = [0, 1]) := by
  decide +kernel

/-- Committed work at the head of the core's queue. -/
def queued (b : Buf) (s : State) : State := up (fun c => { c with drainq := [⟨b, 0, 0, 0, 0, .none⟩] }) s
/-- A delivery of two lines to 0xFFF80. -/
def dlv (s : State) : State :=
  { s with delivs := [⟨4, id0, none, 0xFFF80, 2, [[1], [2]], true, 9, false, .none⟩] }
/-- DrainsAndArrivals: each kind of work at the head; a write due now; a delivery with its bank free and claimed; a message, a log entry
and a timed line, which nothing holds and which a ring holds, the log full and one short of it. -/
theorem witness_DrainsAndArrivals :
    here s0 = true ∧ id0.twin = false ∧ s0.core.run = .ready ∧ plain s0 1 ∧
    ((queued (.line 1 [⟨0x40, 1⟩]) s0).core.drainq = [⟨.line 1 [⟨0x40, 1⟩], 0, 0, 0, 0, .none⟩] ∧
      (queued (.msg 1 0x40 (.event 3)) s0).core.drainq = [⟨.msg 1 0x40 (.event 3), 0, 0, 0, 0, .none⟩] ∧
      (queued (.log 1 ⟨0x40, .add, true, 1⟩) s0).core.drainq = [⟨.log 1 ⟨0x40, .add, true, 1⟩, 0, 0, 0, 0, .none⟩] ∧
      (queued (.cmd 0 5 (.boset 0xFFFF0 (some 64))) s0).core.drainq = [⟨.cmd 0 5 (.boset 0xFFFF0 (some 64)), 0, 0, 0, 0, .none⟩] ∧
      here (queued (.line 1 [⟨0x40, 1⟩]) s0) = true) ∧
    (let f : Flight := ⟨0, 0, 0, 0, .x 5 9, 0, false⟩
     let s := up (fun c => { c with flights := [f] }) s0
     here s = true ∧ f.due ≤ s.now ∧ s.core.landX[(5 : XReg)] ≤ f.seq) ∧
    ((dlv s0).delivs.find? (fun e => e.id == 4) = some ⟨4, id0, none, 0xFFF80, 2, [[1], [2]], true, 9, false, .none⟩ ∧
      bankIdle (dlv s0) id0 0xFFF80 ∧ ¬ bankIdle (up (fun c => { c with bankUse := [⟨14, 0, 0, 3⟩] }) (dlv s0)) id0 0xFFF80) ∧
    (let s := { s0 with packets := [⟨3, 0, 1, 1, 0, 0xFFFF8, 0, .inl (.bytes [1])⟩], tlines := [⟨4, 1, 0, id0, 0xFFFC0, [1], 0⟩] }
     here s = true ∧ s.packets.map (fun p => (p.lh, p.dst, p.body)) = [(1, 0, .inl (.bytes [1]))] ∧ s.tlines.map (·.core) = [id0]) ∧
    ¬ bankIdle { dlv s0 with dynUse := [(id0, 14)] } id0 0xFFF80 ∧
    (bankIdle s0 id0 0xFFFF8 ∧ 0xFFFF8 + 8 ≤ 0x100000 ∧ unheld s0.core 0xFFFF8 8 ∧
      ¬ unheld ({ c0 with erings := c0.erings.set 2 ⟨true, 0xFFFC0, 1, 0, 1, 0, 0, 0, 0, 0, 0⟩ } : Core) 0xFFFF8 8) ∧
    (s0.core.log.length < 2048 ∧ 2048 ≤ (List.replicate 2048 (⟨0, .add, true, 0⟩ : LogEntry)).length) ∧ s0.core.bankUse = [] := by
  refine ⟨by decide +kernel, by decide, by decide, plain_s0, by decide +kernel, by decide +kernel, ⟨by decide +kernel, ?_, ?_⟩, by decide +kernel, ?_, ⟨?_, by decide, ?_, ?_⟩,
    ⟨by decide, Nat.le_of_eq List.length_replicate.symm⟩, by decide⟩
  · unfold bankIdle; decide +kernel
  · unfold bankIdle; decide +kernel
  · unfold bankIdle; decide +kernel
  · unfold bankIdle; decide +kernel
  · unfold unheld; decide +kernel
  · unfold unheld; decide +kernel

/-- A matrix command of eight rows and columns that takes one line of each of rings 0 and 1, its adders at a group. -/
def mma1 (started : Option Nat) (part : Nat) : MmaCmd :=
  ⟨1, 0, 0, true, 0x1000, wd (1 + 2 ^ 12 + 2 * 2 ^ 24 + 2 ^ 39), tid 0 64 64 8 8 0 13, tid 0 64 64 8 8 0 13, tid 0 64 8 8 0 5 31, 1, 1, 0, started, part, 0, 0⟩
/-- The core with that command, its rings holding exactly the lines. -/
def gang (started : Option Nat) (part : Nat) : State :=
  up (fun c => { c with
    mma := [mma1 started part]
    erings := (c.erings.set 0 ⟨true, 0x8000, 16, 0, 1, 0, 0, 0, 0, 0, 0⟩).set 1 ⟨true, 0x8400, 16, 0, 1, 0, 0, 0, 0, 0, 0⟩ })
    { s0 with launches := [{ l0 with lrec := { LaunchRec.zero with kind := 1, grid := 2, gang := 1 } }] }
/-- A command in flight with ticket 1. -/
def infl (cmd : Cmd) (flag : FlagDst) : Inflight := ⟨1, cmd, 0, 0, 0, 0, [], 0, [], 0, [], 0, flag, none, 0, 0, 0, 0, none, 0, [], [], true, false, false, 0⟩
/-- What a launch without Umbra writes first in an epoch is no matter. -/
theorem logged_of (s : State) (id : CoreId) (l : List Nat) (h : s.umbra id.lh = false) : logged s id l := by
  intro hu; rw [h] at hu; cases hu
/-- In an Umbra launch that has copied nothing the core must copy first. -/
theorem not_logged (s : State) (a : Nat) (l : List Nat) (hu : s.umbra 1 = true) (h : here s = true) (hi : s.core.id = id0) (hc : s.core.undo = [])
    (ha : a ∈ l) (hm : s.core ∈ s.cores) : ¬ logged s id0 l := by
  intro hl
  obtain ⟨u, hu, -⟩ := hl hu s.core hm (by rw [hi]) (by rw [hi]) a ha
  rw [hc] at hu; cases hu
/-- The copy command, the multicast's delivery, the access, the sheaf command, the scan command and the carry that `EngineEvents` is about. -/
def copying (done : Bool) : State := up (fun c => { c with copies := [{ infl (.copyLoc 0x40 0) (.localAt 0xFFFF8) with done := done }] }) s0
def delivered : State := { s0 with delivs := [⟨4, id0, none, 0, 1, [], true, 9, false, .mcast id0 1 0 (some 0x80)⟩] }
def accessing (rest : List (Nat × List Host.Cell)) : State :=
  { copying false with accs := [⟨4, id0, (0x40, [⟨0x40, 1⟩]) :: rest, .record .copy 1⟩] }
def g1 : ScanCfg := ⟨0, 2, 0, 1, 1⟩
def scanning (cmd : Cmd) : State :=
  up (fun c => { c with scan := { c.scan with cfg := some g1, queue := [⟨1, 0, cmd, g1, 0, 0, 0, 0, true⟩], running := some 0, res := some ⟨[], 0, [0], 0⟩ } }) s0
/-- The aggregate of member 0, and a carry for member 1 that it completes, in the launch of a core with a configuration. -/
def agg0 : Aggregate := ⟨0, 0, 0, 0, false, 0, g1, [], true⟩
def carrying (cfg : Option ScanCfg) : State :=
  up (fun c => { c with scan := { c.scan with cfg := cfg, k := 1 } }) (s0.updLaunch 1 (fun l => { l with aggs := [agg0], carries := [⟨id0, 0, 0, 0, 1, 0, []⟩] }))
/-- EngineEvents: a command whose lines are there, one whose adders are at their first group, and one whose adders are done; a copy whose record
has been written, one that has still to copy an old line or to write its record; accesses with a line left and at their last line, and the bank
claimed; a multicast delivered, without Umbra and with it, and its bank claimed; a sheaf command and scan commands that are done; and a carry for
member 1, configured so, otherwise, and not at all. -/
theorem witness_EngineEvents :
    canStart (gang none 0) 1 0 1 false ∧
    (let s := gang (some 0) 0
     let c := s.core
     here s = true ∧ c.mma.head? = some (mma1 (some 0) 0) ∧ s.gangCmds 1 0 1 false = [(c, mma1 (some 0) 0)] ∧
       (mma1 (some 0) 0).started.isSome = true ∧ (mma1 (some 0) 0).next ≤ s.now ∧ 0 < partsOf [(c, mma1 (some 0) 0)] ∧ s.umbra 1 = false ∧
       ∀ p ∈ (gangPart c (mma1 (some 0) 0) [(c, mma1 (some 0) 0)] 0).1, s.bankBusy c p.1 = false) ∧
    (let s := gang (some 0) 4
     s.gangCmds 1 0 1 false = [(s.core, mma1 (some 0) 4)] ∧ 0 ≤ s.now ∧ partsOf [(s.core, mma1 (some 0) 4)] ≤ 4 ∧ s.core.mma.head?.map (·.n) = some 1) ∧
    (let x (d : Bool) : Inflight := { infl (.copyLoc 0x40 0) (.localAt 0xFFFF8) with done := d }
     (copying true).cmdOf id0 .copy 1 = some (x true) ∧ (copying false).cmdOf id0 .copy 1 = some (x false) ∧
       recordCells (x true) ++ factorCells (x true) = [] ∧ flagAddr (x true) = [0xFFFF8] ∧ (copying true).umbra 1 = false ∧
       (copying true).core? (primOf id0) = some (copying true).core ∧ (copying true).core.traceBase = 0 ∧ (∀ pa, (x true).flag ≠ .device pa) ∧
       recordCells { x false with staddr := some 0x40 } ++ factorCells (x false) ≠ []) ∧
    (¬ unrecorded (copying true) id0 { infl (.copyLoc 0x40 0) (.localAt 0xFFFF8) with done := true } [] ∧
      unrecorded (umb (copying true)) id0 { infl (.copyLoc 0x40 0) (.localAt 0xFFFF8) with done := true } [] ∧
      unrecorded (copying false) id0 { infl (.copyLoc 0x40 0) (.localAt 0xFFFF8) with staddr := some 0x40 } [⟨0x40, 1⟩]) ∧
    (∀ r ∈ [[], [(0x80, [⟨0x80, 1⟩])]],
     (accessing r).delivs = [] ∧ (accessing r).accs = [⟨4, id0, (0x40, [⟨0x40, 1⟩]) :: r, .record .copy 1⟩] ∧ bankIdle (accessing r) id0 0x40 ∧
       ((accessing r).cmdOf id0 .copy 1).isSome = true ∧ ¬ bankIdle (up (fun c => { c with bankUse := [⟨1, 0, 0, 3⟩] }) (accessing r)) id0 0x40) ∧
    (delivered.delivs.map (fun e => (e.id, e.act)) = [(4, .mcast id0 1 0 (some 0x80))] ∧ bankIdle delivered id0 0x80 ∧
      ¬ bankIdle (up (fun c => { c with bankUse := [⟨2, 0, 0, 3⟩] }) delivered) id0 0x80) ∧
    logged delivered id0 [0x80] ∧ ¬ logged (umb delivered) id0 [0x80] ∧
    (let x := infl (.shfHold 0 1) .none
     let s := up (fun c => { c with shfs := [x] }) s0
     s.core? (primOf id0) = some s.core ∧ s.cmdOf id0 .sheaf 1 = some x ∧ 1 = s.core.eseq[2] + 1 ∧ s.ended x = true) ∧
    ([Cmd.scnCfg g1 0, .scnRun 0 4].map (fun k =>
      let s := scanning k
      here s && s.core.scan.queue.length == 1 && s.core.scan.running == some 0 &&
        s.core.scan.queue.all (fun x => (s.core.scan.res.getD (s.core.scanResult x)).lines.isEmpty) &&
        (s.launch? 1).all (fun l => l.aggs.isEmpty))) = [true, true] ∧
    (∀ x b, agreeing (scanning (.scnRun 0 4)) id0 x b) ∧
    (∀ g ∈ [some g1, some { g1 with op := 1 }, none], let s := carrying g
     here s = true ∧ s.core.scan.cfg = g ∧ s.core.scan.epoch = 0 ∧ s.core.scan.gen = 0 ∧ s.core.scan.carry? = none ∧
     (s.launch? 1).map (fun l => (l.carries, needed (l.folded 0 0 0) 1)) = some ([⟨id0, 0, 0, 0, 1, 0, []⟩], some [agg0])) := by
  refine ⟨?_, by decide +kernel, by decide +kernel,
    ⟨by decide +kernel, by decide +kernel, by decide +kernel, by decide, by decide, by decide +kernel, by decide, (fun pa h => by cases h), by decide +kernel⟩,
    ⟨?_, Or.inl (not_logged _ 0xFFFF8 _ (by decide +kernel) (by decide +kernel) (by decide +kernel) (by decide +kernel) (by decide) (by decide +kernel)),
      Or.inr ⟨rfl, by decide⟩⟩, ?_, ⟨by decide +kernel, ?_, ?_⟩, logged_of _ _ _ (by decide),
    not_logged _ 0x80 _ (by decide +kernel) (by decide +kernel) (by decide +kernel) (by decide +kernel) (by decide) (by decide +kernel),
    by decide +kernel, by decide +kernel, ?_, by decide +kernel⟩
  · intro m hm
    have h0 : m = 0 := by have : max 1 ((gang none 0).recOf 1).gang = 1 := by decide
                          omega
    subst h0
    exact ⟨(gang none 0).core, mma1 none 0, by decide +kernel⟩
  · rintro (h | h)
    · exact h (logged_of _ _ _ (by decide))
    · exact absurd h.2 (by decide)
  · intro r hr
    simp only [List.mem_cons, List.not_mem_nil, or_false] at hr
    obtain rfl | rfl := hr <;>
      exact ⟨by decide +kernel, by decide +kernel, by unfold bankIdle; decide +kernel, by decide +kernel, by unfold bankIdle; decide +kernel⟩
  · unfold bankIdle; decide +kernel
  · unfold bankIdle; decide +kernel
  · intro x b l hl a ha
    obtain rfl : l = l0 := by
      have : (scanning (.scnRun 0 4)).launch? 1 = some l0 := by decide +kernel
      exact Option.some.inj (hl.symm.trans this)
    have : l0.aggsOf x.cfg.group x.epoch x.gen = [] := rfl
    rw [this] at ha; cases ha

/-- The tour of `tour0` with a second stop at core 0, an 8-byte tile of an unmapped page, and this read of it. -/
def tour2 : Tour := { tour0 with
  desc := tid 0 64 64 8 0 0 18, itin := ⟨5, [(0, 1), (0, 2)]⟩, tile := [[1]]
  stops := [.pending, .deferred], arrived := [none, none], forwarded := [false, true], late := [false, false], glean := [0, 0] }
def touring : State :=
  up (fun c => { c with shfs := [{ infl (.shfRead 0 0 0 ⟨5, [(0, 1), (0, 2)]⟩) .none with ticket := 5 }] })
    { s0 with tours := [tour2], launches := [{ l0 with lrec := { LaunchRec.zero with kind := 1, grid := 2, parkSize := 4096 } }] }
/-- That tour in a mirror launch whose twins hold different tiles at the stop where the tile has arrived. -/
def torn : State :=
  let c := { touring.core with
    stops := [⟨1, 3, 0, 1, 0x8400, .ready 0⟩]
    rings := touring.core.rings.set 1 ⟨true, 0x8400, 16, 0, 2, 0, 0, 0, 1, 0, 0⟩ }
  { touring with
    core := { c with mem := [⟨0x8400, 1⟩] }
    others := [{ c with id := { id0 with twin := true } }]
    tours := [{ tour2 with arrived := [some 5, none] }]
    launches := [{ l0 with lrec := { LaunchRec.zero with kind := 1, grid := 2, mirror := true } }] }
/-- TourEvents: the read that obtains a slot; an arrival at the first and at the last stop; a stop whose tile has gone, whose core is stopping,
whose tile has not arrived, and whose tile has, the same and different in the twins; the bound with nothing to park and with a stop DEFERRED. -/
theorem witness_TourEvents :
    (touring.tour? tour2.id = some tour2 ∧ torn.tour? 3 = some { tour2 with arrived := [some 5, none] }) ∧
    (touring.core? tour2.core = some touring.core ∧ tour2.core.twin = false ∧ (touring.cmdOf tour2.core .sheaf tour2.ticket).map (·.page) = some 0 ∧
      tour2.slot = none ∧ touring.parkSlot 1 (64 * tour2.lines) = some 0 ∧ tilePlan tour2.desc (twCblk tour2.tw) (twList tour2.tw) ≠ [] ∧
      unmapped touring 1 ∧ touring.core.ctx = 1 ∧ (touring.recOf 1).mirror = false ∧
      touring.core.shfs.all (fun z => decide (tour2.ticket ≤ z.ticket)) = true) ∧
    (touring.core? (tour2.coreAt 0) = some touring.core ∧ touring.core? (tour2.coreAt 1) = some touring.core ∧ touring.core.gone = false ∧
      0 < tour2.last ∧ 1 = tour2.last ∧ 1 < tour2.arrived.length ∧ ({ tour2 with forwarded := [true, false] } : Tour).sentOn 1 = false) ∧
    (tour2.sentOn 1 = true ∧ (run .stopping touring).core? (tour2.coreAt 0) = some (run .stopping touring).core ∧
      touring.core.run ≠ .stopping ∧ tour2.sentOn 0 = false ∧ tour2.arrivedAt 0 = none ∧
      touring.stopAgrees { tour2 with arrived := [some 5, none] } 0 = true ∧
      (torn.core? (tour2.coreAt 0)).map (·.run) = some .ready ∧ ({ tour2 with arrived := [some 5, none] } : Tour).arrivedAt 0 ≠ none ∧
      torn.stopAgrees { tour2 with arrived := [some 5, none] } 0 = false) ∧
    (({ tour2 with ended := true } : Tour).ended = true ∧ ({ tour2 with parking := true } : Tour).parking = true ∧
      ({ tour2 with parked := true } : Tour).parked = true ∧ TourStop.deferred ∉ tour0.stops ∧
      tour2.ended = false ∧ tour2.parking = false ∧ tour2.parked = false ∧ TourStop.deferred ∈ tour2.stops ∧
      touring.stopAgrees tour2 tour2.last = true ∧ tour2.parkPage = 0 ∧ 0 < tour2.lines) := by
  unfold unmapped; decide +kernel

/-- A reduction of one element from the core to device memory, and of 128 within the core, in flight. -/
def red (onCore : Bool) (n : Nat) : RedBlk := ⟨false, 3, 0, 23, 23, 0x4000, n, true, onCore, 0x8000, none, none⟩
def colling (x : Inflight) : State := up (fun c => { c with colls := [x] }) (bound s0)
/-- A reduction in flight that has not begun, of a group of two members, and what member 1 has issued for it. -/
def fresh (b : RedBlk) (mirror : Bool) : State :=
  (colling { infl (.reduce b) .none with left := 1, started := false, members := [0, 1] }).updLaunch 1
    (fun l => { l with lrec := { l.lrec with mirror := mirror } })
def peer1 (op : Nat) : RedPeer := ⟨1, op, 23, 23, 1, [0, 0, 128, 63], 7⟩
/-- CollectiveEvents: a reduction that misses its peer, whose peer has issued an earlier command, whose peer differs, and whose peer agrees;
chunks within the core, without Umbra and with it; one that is done, of a command and of a node of a graph; a CAGRP, a CRUN, a CABORT and a
CGRAPH. -/
theorem witness_CollectiveEvents :
    (let b := red false 1
     let s := fresh b false
     ∃ x, s.cmdOf id0 .coll 1 = some x ∧ s.core? (primOf id0) = some s.core ∧ x.cmd = .reduce b ∧ x.started = false ∧ x.left ≠ 0 ∧ x.stalled = none ∧
       s.mayReduce s.core x b = true ∧ b.meet x.members.length x.me [] = .missing ∧
       b.meet x.members.length x.me [peer1 1, peer1 0] = .waits ∧ b.meet x.members.length x.me [peer1 1] = .differs ∧
       b.meet x.members.length x.me [peer1 0] = .agree ∧ b.srcLocal = true ∧ s.readsAgree id0 b.src b.srcBytes = true ∧
       x.since = 0 ∧ (s.recOf 1).mirror = false ∧ ((fresh b true).recOf 1).mirror = true ∧ (fresh b true).readsAgree id0 b.src b.srcBytes = true ∧
       ({ x with since := 1 } : Inflight).since ≠ 0 ∧ ({ b with srcLocal := false } : RedBlk).srcLocal = false) ∧
    (let x : Inflight := { infl (.reduce (red true 128)) .none with left := 1 }
     ∀ s ∈ [colling x, { colling x with launches := [{ l0 with lrec := { l0.lrec with umbra := true } }], core := { (colling x).core with undo := [(0x80, [])] } }],
       s.cmdOf id0 .coll 1 = some x ∧ s.core? (primOf id0) = some s.core ∧ x.started = true ∧ x.left ≠ 0 ∧ x.page = 0 ∧ x.stalled = none ∧ x.busy = false ∧
       x.page + 1 < (red true 128).chunks ∧ (red true 128).dstLocal = true ∧
       (red true 128).chunkLines 0 ≠ [] ∧ ((red true 128).chunkLines 0 ++ (byLine (cellsAt 0x8000 [1])).flatMap (fun l => l.2.map (·.1))).all (fun a =>
         s.core.undo.any (fun u => u.1 == a / 256) || !s.umbra 1) = true) ∧
    ((red true 128).chunkLines 0 ≠ [] ∧ ¬ logged (umb (colling { infl (.reduce (red true 128)) .none with left := 1 })) id0 ((red true 128).chunkLines 0)) ∧
    (let x : Inflight := { infl (.reduce (red true 128)) .none with left := 1, busy := true }
     let s := { colling x with accs := [⟨9, id0, [(0x8000, [⟨0x8000, 1⟩])], .chunk 1 0⟩] }
     s.delivs = [] ∧ s.accs = [⟨9, id0, [(0x8000, [⟨0x8000, 1⟩])], .chunk 1 0⟩] ∧ primOf id0 = id0 ∧ s.cmdOf id0 .coll 1 = some x ∧
       x.left ≠ 0 ∧ x.stalled = none) ∧
    bankIdle { colling { infl (.reduce (red true 128)) .none with left := 1, busy := true } with accs := [⟨9, id0, [(0x8000, [⟨0x8000, 1⟩])], .chunk 1 0⟩] } id0 0x8000 ∧
    (let x := infl (.reduce (red true 128)) .none
     let y := { infl (.crun [] 0xFFFF8) .none with left := 1 }
     let s := up (fun c => { c with colls := [y, { x with ticket := 2 ^ 32 + 1 }] }) (bound s0)
     x.left = 0 ∧ (colling x).cmdOf id0 .coll 1 = some x ∧ 1 < 2 ^ 32 ∧ s.cmdOf id0 .coll (2 ^ 32 + 1) = some { x with ticket := 2 ^ 32 + 1 } ∧
       2 ^ 32 ≤ 2 ^ 32 + 1 ∧ s.cmdOf id0 .coll ((2 ^ 32 + 1) % 2 ^ 32) = some y ∧ (colling x).umbra 1 = false) ∧
    ([Cmd.cagrp ⟨3, [0, 1], 0, 9, none⟩, .crun [] 0xFFFF8, .cabort 3, .cgraph 0 []].map (fun k =>
      (colling (infl k .none)).cmdOf id0 .coll 1 == some (infl k .none))) = [true, true, true, true] ∧
    ((colling (infl (.cagrp ⟨3, [0, 1], 0, 9, none⟩) .none)).ctx 1).agids.map (·.agid) = [3] := by
  refine ⟨⟨{ infl (.reduce (red false 1)) .none with left := 1, started := false, members := [0, 1] }, by decide +kernel⟩, by decide +kernel,
    ⟨by decide +kernel, not_logged _ 0x8000 _ (by decide +kernel) (by decide +kernel) (by decide +kernel) (by decide +kernel) (by decide +kernel)
      (by decide +kernel)⟩, by decide +kernel, ?_, by decide +kernel, by decide +kernel, by decide +kernel⟩
  unfold bankIdle; decide +kernel

/-- An outstanding fault of the core's context, for the core. -/
def flt (queued : Bool) : FaultEnt := ⟨0, 0x1000, 4, false, 0, true, 0, 0, queued, [⟨id0, none⟩]⟩
def faulted (queued : Bool) : State :=
  run (.onFault 0) (s0.updCtx 1 (fun c => { c with enable := true, faults := [flt queued], fqsize := 1 }))
/-- TranslationEvents: an export that ends at the access; a context off and on; a queue with one place; a core, a reduction and
a copy that wait, the reduction from its chunks and from its source. -/
theorem witness_TranslationEvents :
    (let s := { s0 with mgmt := { s0.mgmt with config := { s0.mgmt.config with exports := [(2, 0x100, 0x108)] } } }
     ∃ e ∈ s.mgmt.config.exports, e.1 = 2 ∧ e.2.1 ≤ 0x100 ∧ 0x100 + 8 ≤ e.2.2) ∧
    (s0.mgmt.config.exports = [] ∧ (s0.ctx 63).enable = false ∧ 0 < s0.mgmt.config.parts.length) ∧
    (let s := { faulted true with launches := [{ l0 with status := .complete 0 }] }
     (s.ctx 1).enable = true ∧ s.launches.all (fun l => l.status == .complete 0) = true) ∧
    ((flt false).queued = false ∧ ((faulted false).ctx 1).fqtail.toNat - ((faulted false).ctx 1).fqhead.toNat < ((faulted false).ctx 1).fqsize.toNat ∧
      ((faulted false).ctx 1).faults = [flt false]) ∧
    (here (faulted true) = true ∧ (faulted true).core.ctx = 1 ∧ (faulted true).core.run = .onFault (flt true).fseq ∧
      (flt true).kind < 5 ∧ (flt true).va + (flt true).kind < 2 ^ 64 ∧ (faulted true).core.inh = false ∧ (faulted true).core.slaved = false ∧
      (faulted true).core.traceBase = 0) ∧
    (let x : Inflight := { infl (.reduce (red false 1)) .none with data := [1], stalled := some 0 }
     here (colling x) = true ∧ (colling x).core.copies = [] ∧ (colling x).core.shfs = [] ∧ (colling x).core.ctx = 1 ∧ id0.twin = false ∧ ((colling x).ctx 1).faults = [] ∧
       (colling x).tours = [] ∧ ({ x with till := 7 } : Inflight).till ≠ 0 ∧ x.till = 0 ∧ ({ red false 1 with srcLocal := false } : RedBlk).srcLocal = false ∧
       (faulted true).ctxWrites = []) ∧
    (let x : Inflight := { infl (.copyIn 0 0 (tid 0 64 64 8 0 0 18) 0) .none with stalled := some 0 }
     let s := up (fun c => { c with copies := [x] }) s0
     here s = true ∧ s.cmdOf id0 .copy 1 = some x ∧ s.cmdOf id0 .coll 1 = none ∧ s.cmdOf id0 .sheaf 1 = none ∧ (copyJob x.cmd).isSome = true ∧
       (s.ctx 1).faults = [] ∧ s.tours = []) ∧
    ((0xFFFFFFFFFF000 : Word).toNat % 4096 = 0 ∧ (0xFFFFFFFFFF000 : Word).toNat < 2 ^ 52) ∧
    (let s := s0.updCtx 2 (fun c => { c with invPending := [0] })
     (s.ctx 2).invPending = [0] ∧ s.cores.all (fun c => c.ctx != 2) = true) := by
  refine ⟨⟨_, List.mem_singleton.mpr rfl, by decide⟩, ?_⟩; decide +kernel

/-- The management registers changed. -/
def mg (f : Mgmt → Mgmt) (s : State) : State := { s with mgmt := f s.mgmt }
/-- TimeAndPower: each value of SRCSEL, TIMEOK clear and set; a power at CAP and above it; the bounds of a withheld amount, and of what a die has
lost in a millisecond; a cycle to withhold, a hot die at the first of its period, and a die with neither; and a partition on die 3. -/
theorem witness_TimeAndPower :
    (let s := mg (fun m => { m with bootDone := true }) s0
     s.mgmt.bootDone = true ∧ s.mgmt.srcsel = 0 ∧ s.mgmt.ready.getLsbD 36 = false) ∧
    (mg (fun m => { m with srcsel := 3 }) s0).mgmt.srcsel = 3 ∧
    (let s := mg (fun m => { m with bootDone := true, srcsel := 2, ready := 0x1000000000 }) s0
     s.mgmt.srcsel = 2 ∧ s.mgmt.ready.getLsbD 36 = true ∧ s.mgmt.config.portERoot = false ∧ s.mgmt.bootDone = true) ∧
    (mg (fun m => { m with bootDone := true, config := { m.config with portERoot := true } }) s0).mgmt.config.portERoot = true ∧
    (2800 ≤ s0.mgmt.cap ∧ s0.mgmt.cap < 2801 ∧ 0 < 1650000) ∧
    (let s := { mg (fun m => { m with hot := 8, withhold := m.withhold.set 0 1, heldNow := (m.heldNow.set 0 1649999).set 2 1650000 }) s0 with now := 3300001 }
     s.mgmt.heldNow[(0 : Fin 4)] < 1650000 ∧ 0 < s.mgmt.withhold[(0 : Fin 4)] ∧ s.mgmt.heldNow[(3 : Fin 4)] < 1650000 ∧
       s.mgmt.hot.getLsbD (3 : Fin 4) = true ∧ s.now % 3300000 = 1 ∧ 1650000 ≤ s.mgmt.heldNow[(2 : Fin 4)] ∧
       s.mgmt.withhold[(1 : Fin 4)] = 0 ∧ s.mgmt.hot.getLsbD (1 : Fin 4) = false) ∧ s0.slots = [] ∧
    (∃ p, s0.mgmt.config.parts[(0 : Fin 4).val]? = some p ∧ (3 : Fin 4).val ∈ p.dies) :=
  ⟨by decide, by decide, by decide, by decide, by decide, by decide +kernel, by decide, ⟨_, rfl, by decide +kernel⟩⟩
/-- A key of slot 0 that may sign anything. -/
def keyed (s : State) : State := mg (fun m => { m with keys := m.keys.set 0 ⟨[1], 7⟩ }) s
/-- What `signedBy` takes when the key slot's mask allows the purpose: that the verifier, a free function of the model, accepts. -/
theorem witness_signed (msg sig : List Byte) (purpose : Fin 3) (h : Config.ed448Verify [1] (Config.shake256 msg) sig = true) :
    (keyed s0).signedBy 0 purpose.val msg sig = true := by
  have hk : nth (keyed s0).mgmt.keys.toList 0 ⟨[], 0⟩ = ⟨[1], 7⟩ := by decide
  have hm : (7 : BitVec 3).getLsbD purpose.val = true := by revert purpose; decide
  simp only [State.signedBy, hk]
  rw [hm, h]; rfl
/-- ManagementEvents: configurations that are unsigned, rejected and accepted; a new firmware slot at its first and at its third boot; a package
that has booted, keys that sign nothing, a log with a whole last block and with an open one; a partition in re-bring-up, a bank being copied,
and accesses that end at the top of memory. -/
theorem witness_ManagementEvents :
    (s0.mgmt.nextConfig = none ∧ s0.mgmt.nextKeys = none ∧ s0.mgmt.fwPending = false ∧ s0.mgmt.fwTries = none ∧ s0.configSigned = true) ∧
    (mg (fun m => { m with configSigs := [(15, [], [])] }) s0).configSigned = false ∧
    (mg (fun m => { m with config := { m.config with parts := [] } }) s0).mgmt.config.ok = false ∧
    (let s := mg (fun m => { m with config := { m.config with parts := [⟨[131, 143], 475 * 2 ^ 30, 476 * 2 ^ 30, [255], false, false⟩] } }) s0
     s.configSigned = true ∧ s.mgmt.config.ok = true ∧ s.phys = [] ∧ s.mgmt.cleared = []) ∧
    ((mg (fun m => { m with fwTries := some 2 }) s0).mgmt.fwTries = some 2 ∧ (mg (fun m => { m with fwPending := true }) s0).mgmt.fwPending = true) ∧
    (mg (fun m => { m with bootDone := true }) s0).mgmt.bootDone = true ∧
    (s0.mgmt.log.length % 64 = 0 ∧ (mg (fun m => { m with log := [⟨0, 0, 0, 0⟩] }) s0).mgmt.log.length % 64 ≠ 0) ∧
    (State.reset.launches = [] ∧ (0 : Fin 4).val < State.reset.mgmt.config.parts.length) ∧
    (let s := mg (fun m => { m with rebring := 8, repairs := [.bankCopy 255 3] }) s0
     s.mgmt.dieOff = 0 ∧ s.mgmt.rebring.getLsbD 3 = true ∧ s.mgmt.hbmErrs = [] ∧ s.mgmt.repairs = [.bankCopy 255 3]) ∧
    (∀ image sig, s0.signedBy 15 0 image sig = false) ∧ (∀ u sig, s0.signedBy 15 1 u sig = false) ∧ (15 : Fin 16).val ≠ 0 ∧
    ((0xFFFFF7FF#32).getLsbD 11 = false ∧ (0xFFFFFFDF#32).getLsbD 5 = false ∧ (0x800#32).getLsbD 11 = true ∧ (0x20#32).getLsbD 5 = true) ∧
    (∀ h : HostAccess, h = ⟨1, 512 * 10 ^ 9 - 1, 1, some [1], .host⟩ → ∀ b, h.wr = some b → h.pa + b.length ≤ 512 * 10 ^ 9) ∧
    (⟨1, 512 * 10 ^ 9 - 1, 1, none, .host⟩ : HostAccess).pa + 1 ≤ 512 * 10 ^ 9 := by
  have no (p : Nat) (hp : (nth s0.mgmt.keys.toList 15 ⟨[], 0⟩).mask.getLsbD p = false) (m sig : List Byte) : s0.signedBy 15 p m sig = false := by
    simp only [State.signedBy, hp, Bool.false_and]
  refine ⟨by decide, ?_, by decide +kernel, by decide +kernel, by decide, by decide, by decide, by decide, by decide, no 0 (by decide), no 1 (by decide),
    by decide, by decide, ?_, by decide⟩
  · have h : (mg (fun m => { m with configSigs := [(15, [], [])] }) s0).signedBy 15 1 [] [] = false := by
      have hp : (nth s0.mgmt.keys.toList 15 ⟨[], 0⟩).mask.getLsbD 1 = false := by decide
      simp only [State.signedBy, mg, hp, Bool.false_and]
    simp only [State.configSigned, mg, List.all_cons, List.all_nil, Bool.and_true]; exact h
  · rintro h rfl b hb; cases hb; decide

/-- The twins of logical core 0 in these slots, with an item each. -/
def pair (item : Buf) (r : Run) (sa sb : Nat) : State :=
  let x : MirrorItem := ⟨0, 0, 0, ⟨item, 0, 0, 0, 0, .none⟩⟩
  { s0 with
    core := { c0 with slot := sa, mirror := [x], run := r }
    others := [{ c0 with id := { id0 with twin := true }, slot := sb, mirror := [x], run := r }]
    launches := [{ l0 with lrec := { LaunchRec.zero with kind := 1, grid := 2, mirror := true } }] }
/-- The second twin of a pair. -/
def twinOf (s : State) : Core := (s.core? { id0 with twin := true }).getD Core.empty
/-- MirrorEvents: items that agree; twins in one state, with a spare for the first; twins stopped, the first in the lower slot and in the
higher. -/
theorem witness_MirrorEvents :
    (let s := pair (.msg 1 0x40 (.event 3)) .ready 5 6
     let b := twinOf s
     s.core? id0 = some s.core ∧ s.core? { id0 with twin := true } = some b ∧ b.mirror = s.core.mirror ∧ s.core.run = .ready ∧ b.run = .ready ∧
       b.ckpt = s.core.ckpt ∧ b.regpc = s.core.regpc ∧ s.core.erings.map Ring.headAddr = b.erings.map Ring.headAddr ∧
       s.core.erings.map Ring.tailAddr = b.erings.map Ring.tailAddr ∧ (s.spareFor s.core.slot).isSome = true) ∧
    (∀ p ∈ [(5, 6), (6, 5)], let s := pair (.msg 1 0x40 (.event 3)) .trapped p.1 p.2
     s.core.run = .trapped ∧ (twinOf s).run = .trapped ∧ (s.launch? 1).map (·.doomed) = some none ∧
       s.core.slot = p.1 ∧ (twinOf s).slot = p.2 ∧ (s.physOf p.2).quarantined = false ∧ (s.physOf p.2).score + 1 < s.mgmt.config.threshold) := by
  decide +kernel

/-- A queue with one record to take, in a context that is on. -/
def takeable : State :=
  mg (fun m => { m with pready := 1 }) ((s0.updQueue 63 (fun q => { q with enable := true, tail := 1, ctx := 1, size := 1 })).updCtx 1
    (fun c => { c with enable := true }))
/-- The slot record of physical core 5 in a state, for logical core 0 of launch 1. -/
def slotted (x : SlotState) (s : State) : State := s.updSlot 5 (fun r => { r with state := x, lhandle := 1, lcore := 0 })
/-- The only launch in a status. -/
def launched (x : LStatus) (s : State) : State := { s with launches := [{ l0 with status := x }] }
/-- A physical core that is scrubbed, one that left its work in this millisecond, and one of a die that has just been brought up. -/
theorem clean_cases : clean s0 5 ∧ ¬ clean { s0 with phys := [(5, ⟨0, false, none, 1024⟩)] } 5 ∧
    ¬ clean (mg (fun m => { m with dieScrub := m.dieScrub.set 0 1024 }) s0) 5 := by
  unfold clean; exact ⟨by decide +kernel, by decide +kernel, by decide +kernel⟩
/-- SchedulingEvents: writes of LQTAIL at both bounds and one beyond each; a queue off, and one with a record; a launch in each status; slots
in each state; a core that runs, has stopped, and is saved; a launch all of whose cores have halted (whether a physical core is scrubbed: `clean_cases`). -/
theorem witness_SchedulingEvents :
    (((0 : Word).toNat < (takeable.queue 63).tail.toNat) ∧ (takeable.queue 63).head.toNat + (takeable.queue 63).size.toNat < (2 : Word).toNat ∧
      (takeable.queue 63).tail.toNat ≤ (1 : Word).toNat ∧ (1 : Word).toNat ≤ (takeable.queue 63).head.toNat + (takeable.queue 63).size.toNat) ∧
    ((s0.queue 63).enable = false ∧ takeable.takable 63 = true ∧ (takeable.queue 63).head.toNat + 1 < 2 ^ 64) ∧
    (l0.h = 1 ∧ l0.lrec.flagEn = false ∧ l0.lrec.depA = none ∧ l0.lrec.depB = none ∧ takeable.partReady l0.ctx = true ∧
      (launched .taken s0).launches.map (·.status) = [.taken] ∧ (launched .eligible s0).launches.map (·.status) = [.eligible]) ∧
    (l0.status = .started ∧ (s0.slotRec 5).state = .empty ∧ 1 < l0.lrec.grid ∧
      (s0.exposedOf 5).isSome = true) ∧
    (let s := { slotted .bind State.reset with launches := [l0] }
     (s.slotRec 5).state ≠ .empty ∧ (s.slotRec 5).state = .bind ∧ (s.slotRec 5).lhandle = 1 ∧ l0.lrec.mirror = false ∧ l0.rolling = none ∧ s.others = [] ∧
       s.core.run = .empty) ∧
    (s0.tours = [] ∧ (slotted .run s0).slots.map (fun p => (p.2.lhandle, p.2.state)) = [(1, .run)]) ∧
    (let l := { l0 with halted := [0, 1] }
     let s := run .halted { s0 with launches := [l] }
     s.finished l = true ∧ l.lrec.umbra = false) ∧
    (let s := slotted .run s0
     s.coreAt 5 = some s.core ∧ s.core? s.core.id = some s.core ∧ s.core.id.twin = false ∧ (s.slotRec 5).state = .run ∧ s.core.run = .ready ∧ s.core.snapD = none) ∧
    (let s := slotted .vacate (run .stopping s0)
     s.coreAt 5 = some s.core ∧ (s.slotRec 5).state = .vacate ∧ s.core.run = .stopping ∧ s.stopped s.core = true ∧ s.core.stops = []) ∧
    (let s := slotted .saving (run .saving s0)
     s.coreAt 5 = some s.core ∧ (s.slotRec 5).state = .saving ∧ s.core.run = .saving ∧ s.delivs = [] ∧ (s.physOf 5).quarantined = false ∧
       s.core.traceBase = 0 ∧ s.launch? s.core.id.lh = some l0 ∧ l0.status = .started) := by decide +kernel

/-- R24, R386: the parts of the T_msg of 92 cycles from row 0, column 0 to row 0, column 30: 8 and 24 hops on die 0, the crossing, 6 hops on
die 1. -/
theorem test_legs : legsOf 0 (routeOf [] (0, 0) (0, 30)) 92 = [⟨[0], 8⟩, ⟨[0], 56⟩, ⟨[0, 1], 80⟩, ⟨[1], 92⟩] := by decide
/-- R386: a cycle that die 1 loses puts that message off during the crossing and after it, and not before. -/
theorem test_lost_cycle :
    let f (now : Nat) := (State.loseCycle { State.reset with
      now := now, agenda := [⟨92, true, .messageArrival 0, legsOf 0 (routeOf [] (0, 0) (0, 30)) 92⟩]
      mgmt := { Mgmt.reset with lost := 2 } }).agenda.map (·.at_)
    [f 55, f 56, f 79, f 80, f 92] = [[92], [93], [93], [93], [93]] := by decide +kernel

/-- StepRunsDecoded: the package after reset has an event or an end of cycle; a core that is loaded issues its instruction; a follower; an
instruction passed over; and a word of the opcode table. -/
theorem witness_StepRunsDecoded :
    (∃ id, (State.reset.withFetchWord 32 0x008A4181).todo = .issue id) ∧
    (∃ id, (up (fun c => { c with arch := { c.arch with status := 0x0 }, skip := true, epc := c.pc }) (State.reset.withFetchWord 32 0x008A4181)).todo = .issue id) ∧
    (decodeTableWord 32 0x008A4181).isSome = true ∧ (decodeTableWord 16 0xF4E2).isSome = true ∧
    (∃ i t, { State.reset with agenda := [⟨0, false, .tick 1, []⟩] }.todo = .event i t) := by
  refine ⟨⟨_, by rfl⟩, ⟨_, by rfl⟩, by decide +kernel, by decide +kernel, ⟨_, _, by rfl⟩⟩
/-- MemoriesStayCanonical: the package after reset, and a core whose scratchpad lists bytes. -/
theorem witness_MemoriesStayCanonical : canonical State.reset ∧ canonical (lm [⟨0x40, 1⟩, ⟨0x41, 2⟩] s0) ∧ (∃ t, step State.reset = .next t) ∧
    ¬ canonical (lm [⟨0x40, 0⟩] s0) :=
  ⟨by unfold canonical; decide +kernel, by unfold canonical; decide +kernel, ⟨_, rfl⟩, by unfold canonical; decide +kernel⟩

end Sys2Proof.Tests
end

/-! Proofs of the family of spec/08_isa_memory_engines.md. -/

section

namespace Sys2Proof.Claims

open Sys2Proof.Machine

/-- R201: FENCE.I, outside the handler, advances the core and puts the next issue off. -/
theorem execFenceI_eq (s : State) (h : s.core.inh = false) :
    execFenceI s = .next (withC s { s.core.advance s.now wordSize with nextIssue := s.now + 3 }) := by
  unfold execFenceI
  rw [notInHandler_ok h]
  exact runCore_ok s _

/-- R44: an instruction that reads and writes no register only advances. -/
theorem advance_eq_done (c : Core) (now size : Nat) : c.advance now size = done c now size c.arch.livex [] :=
  advance_done c c c.arch.livex [] now size (by rw [List.append_nil])

/-- Settles O40: FENCE.I only advances the core, and the advance is that of an instruction that leaves no write in flight. -/
theorem fenceIDelay : Obligations.FenceIDelay := by
  intro s h
  calc exec .fenceI s = execFenceI s := rfl
    _ = .next (withC s { s.core.advance s.now wordSize with nextIssue := s.now + 3 }) := execFenceI_eq s h
    _ = .next (withC s { (done s.core s.now 4 s.core.arch.livex []) with nextIssue := s.now + 3 }) := by
      rw [advance_eq_done, wordSize]

end Sys2Proof.Claims

end

/-! Proofs of the family of spec/17_isa_system.md. -/

section

namespace Sys2Proof.Claims

open Sys2Proof.Machine

/-- A trap that an instruction raises before it changes anything is taken in the state it was issued in, at its own address. -/
theorem run_trapR (s : State) (c : Cause) (v : Word) : s.run (trapR c v) = .next (s.takeTrap ⟨c, v⟩ s.core.pc) :=
  run_trap s ⟨c, v⟩

/-- R337: TRAP reads X[a], which must be readable, and raises SWTRAP with its value. -/
theorem execTrap_eq (r : S1) (s : State) (h : readable s.core r.a = true) :
    execTrap r s = .next (s.takeTrap ⟨.swtrap, s.core.xval r.a⟩ s.core.pc) := by
  unfold execTrap
  rw [Core.readX_ok s.core r.a h]
  exact run_trapR s .swtrap (s.core.xval r.a)

/-- Settles O14: neither instruction advances the core or writes a register before its trap is taken. -/
theorem ebreakAndTrap : Obligations.EbreakAndTrap := by
  intro s
  constructor
  · calc exec .ebreak s = s.run (trapR .ebreak 0) := rfl
      _ = .next (s.takeTrap ⟨.ebreak, 0⟩ s.core.pc) := run_trapR s .ebreak 0
  · intro r h
    calc exec (.trap r) s = execTrap r s := rfl
      _ = .next (s.takeTrap ⟨.swtrap, s.core.xval r.a⟩ s.core.pc) := execTrap_eq r s h

end Sys2Proof.Claims

end
